-- ==== Sys2Proof/Word.lean ====
section
/-! DEFINITION. The word types, numbers of bits, and the sparse store that every table of the machine is kept in. -/
namespace Sys2Proof

/-- A 32-bit register word. -/
abbrev W := BitVec 32
/-- A 64-bit double word. -/
abbrev DW := BitVec 64
/-- A byte. -/
abbrev Byte := BitVec 8

/-- A sparse table: keys strictly rising, so that equal tables are equal lists. -/
abbrev Store (α : Type) := List (Nat × α)

/-- The entry at a key. -/
def Store.find {α : Type} (k : Nat) : Store α → Option α
  | [] => none
  | (k', v) :: t => if k = k' then some v else if k < k' then none else Store.find k t

/-- Put an entry at a key, in its place. -/
def Store.put {α : Type} (k : Nat) (v : α) : Store α → Store α
  | [] => [(k, v)]
  | (k', v') :: t =>
    if k < k' then (k, v) :: (k', v') :: t
    else if k = k' then (k, v) :: t
    else (k', v') :: Store.put k v t

/-- Take the entry at a key away. -/
def Store.del {α : Type} (k : Nat) : Store α → Store α
  | [] => []
  | (k', v') :: t =>
    if k = k' then t else if k < k' then (k', v') :: t else (k', v') :: Store.del k t

/-- Put or take away. -/
def Store.set {α : Type} (k : Nat) (v : Option α) (m : Store α) : Store α :=
  match v with
  | some x => m.put k x
  | none => m.del k

/-- Change the entry at a key, if there is one. -/
def Store.adjust {α : Type} (k : Nat) (f : α → α) : Store α → Store α
  | [] => []
  | (k', v) :: t => if k = k' then (k', f v) :: t else (k', v) :: Store.adjust k f t

/-- Keys strictly rising from a bound. -/
def Store.risesFrom {α : Type} (lo : Nat) : Store α → Bool
  | [] => true
  | (k, _) :: t => decide (lo ≤ k) && Store.risesFrom (k + 1) t

/-- Bits hi..lo of a number, as a number. -/
def bits (x lo n : Nat) : Nat := x / 2 ^ lo % 2 ^ n

/-- The two's-complement reading of the low n bits. -/
def sx (x n : Nat) : Int :=
  let y := x % 2 ^ n
  if y < 2 ^ (n - 1) then (y : Int) else (y : Int) - (2 ^ n : Nat)

/-- The n-bit pattern of an integer. -/
def toPat (x : Int) (n : Nat) : Nat := (x % ((2 ^ n : Nat) : Int)).toNat

end Sys2Proof
end

