-- ==== Sys2Proof/Config.lean ====
section
/-! DEFINITION. Constants of the implementation and the free values the manual leaves open. A free value has no body: no proof can learn it. -/
namespace Sys2Proof

/-- Which internal step comes next where the manual gives no order (log 3): a number reduced modulo the number of choices. -/
opaque Config.pick : Nat → Nat
/-- The value a special function of chapter 09 answers where R207 gives only a bound (log 6): by OP, then by argument. -/
opaque Config.fspec : Nat → W → W
/-- Host memory, as the n-th read of a byte finds it (log 4). -/
opaque Config.hostByte : Nat → Nat → Byte
/-- The second tier: a byte that this device has not written (log 4). -/
opaque Config.tierByte : Nat → Byte
/-- What a peer chip answers for a byte of its memory at the n-th read (log 4). -/
opaque Config.peerByte : Nat → Nat → Byte
/-- The set of a cluster's L1, and the set of an L2 slice, that a virtual line falls in: R225 and R226 give the sets' number and not the index (log 102). -/
opaque Config.l1Set : Nat → Nat
opaque Config.l2Set : Nat → Nat
/-- The die whose front end serves a queue, modulo 4: the specification does not give it (log 110). -/
opaque Config.queueDie : Nat → Nat
/-- A fresh number for anything else the manual leaves open. -/
opaque Config.fresh : Nat → Nat

end Sys2Proof
end

