-- ==== Sys2Proof/Machine/Forms.lean ====
section
/-! DEFINITION. The operand forms of the five instruction formats (05 R109 to R111, 15 R328, 12 R295), as data. -/
namespace Sys2Proof

/-- Operand B or E of the R format (R109): a V register, an S register, an immediate from −31 to 31, or a literal. -/
inductive Src where
  | v (n : Nat)
  | s (n : Nat)
  | imm (i : Int)
  | lit (w : W)
  deriving DecidableEq, Repr

/-- An operand of the X format (R111): an S register, an immediate from 0 to 62, or a literal. -/
inductive XSrc where
  | s (n : Nat)
  | imm (n : Nat)
  | lit (w : W)
  deriving DecidableEq, Repr

/-- The address forms of the M format (R111, R249): AM 00, 01, 10 and 11. -/
inductive Addr where
  | v (a : Nat)
  | s (a : Nat)
  | sl (a : Nat) (lit : W)
  | vl (a : Nat) (lit : W)
  deriving DecidableEq, Repr

/-- The index operand of MACCR and MACCW (R295): a V register with Q 1, else an X operand. -/
inductive MIdx where
  | v (n : Nat)
  | x (b : XSrc)
  deriving DecidableEq, Repr

/-- R format: chain bit, D, A, operand B. -/
structure RB where
  c : Nat
  d : Nat
  a : Nat
  b : Src
  deriving DecidableEq, Repr
/-- R format with K and B 0. -/
structure RU where
  c : Nat
  d : Nat
  a : Nat
  deriving DecidableEq, Repr
/-- R format with an extension word that carries operand E (R110). -/
structure RX where
  c : Nat
  d : Nat
  a : Nat
  b : Src
  e : Src
  deriving DecidableEq, Repr
/-- SEL: the extension word carries the predicate PE (R149). -/
structure RSel where
  c : Nat
  d : Nat
  a : Nat
  b : Src
  pe : Nat
  deriving DecidableEq, Repr
/-- R format with A fixed: D and operand B. -/
structure RDB where
  c : Nat
  d : Nat
  b : Src
  deriving DecidableEq, Repr
/-- R format with D 0: A and operand B. -/
structure RAB where
  c : Nat
  a : Nat
  b : Src
  deriving DecidableEq, Repr
/-- R format with operand B alone. -/
structure RB1 where
  c : Nat
  b : Src
  deriving DecidableEq, Repr
/-- R format with D alone. -/
structure RD where
  c : Nat
  d : Nat
  deriving DecidableEq, Repr
/-- CVT: the extension word carries the two formats and the rounding mode (R212). -/
structure RCvt where
  c : Nat
  d : Nat
  a : Nat
  sf : Nat
  df : Nat
  rnd : Nat
  deriving DecidableEq, Repr
/-- An instruction with no operand. -/
structure C0 where
  c : Nat
  deriving DecidableEq, Repr
/-- B format: a signed packet displacement. -/
structure BDisp where
  c : Nat
  disp : Int
  deriving DecidableEq, Repr
/-- B format naming a register (R170). -/
structure BReg where
  c : Nat
  a : Nat
  deriving DecidableEq, Repr
/-- M format: order, scope, the data or destination field, the address. -/
structure MMem where
  c : Nat
  ord : Nat
  scp : Nat
  d : Nat
  addr : Addr
  deriving DecidableEq, Repr
/-- An atomic with its data selector (R328). -/
structure MAtom where
  c : Nat
  ord : Nat
  scp : Nat
  d : Nat
  addr : Addr
  b : Src
  deriving DecidableEq, Repr
/-- A compare-and-swap with its data selector (R328). -/
structure MCas where
  c : Nat
  ord : Nat
  scp : Nat
  d : Nat
  addr : Addr
  b : Src
  n : Src
  deriving DecidableEq, Repr
/-- PREF: level and address (R261). -/
structure MPref where
  c : Nat
  level : Nat
  addr : Addr
  deriving DecidableEq, Repr
/-- CLEAN, INVAL: an address; TDISCARD: an identifier in S or a literal (R261). -/
structure MAddr where
  c : Nat
  addr : Addr
  deriving DecidableEq, Repr
/-- FENCE: a scope. -/
structure MFence where
  c : Nat
  scp : Nat
  deriving DecidableEq, Repr
/-- FENCE.X: a scope and a path mask. -/
structure MFenceX where
  c : Nat
  scp : Nat
  mask : Nat
  deriving DecidableEq, Repr
/-- MONA: scope and address. -/
structure MMona where
  c : Nat
  scp : Nat
  addr : Addr
  deriving DecidableEq, Repr
/-- TDESC: identifier, S register, Q (R266). -/
structure XDesc where
  c : Nat
  id : XSrc
  b : Nat
  q : Nat
  deriving DecidableEq, Repr
/-- TREAD and TQUERY: mode or selector, V register, identifier, Q (R266). -/
structure XRead where
  c : Nat
  idx : Nat
  d : Nat
  id : XSrc
  q : Nat
  deriving DecidableEq, Repr
/-- CPY and CPYT: direction, S block, and with .W the value of the completion word (R270). -/
structure XCpy where
  c : Nat
  dir : Nat
  a : Nat
  w : Option XSrc
  deriving DecidableEq, Repr
/-- CPYV: V block, S block, Q (R270, R274). -/
structure XCpyV where
  c : Nat
  a : Nat
  b : Nat
  q : Nat
  deriving DecidableEq, Repr
/-- MMA, TLD, MDRAIN: index, convergence register, two operands (R295). -/
structure XM where
  c : Nat
  i : Nat
  cv : Nat
  a : XSrc
  b : XSrc
  deriving DecidableEq, Repr
/-- MDRAINA: as MDRAIN, with the ordered bit Q. -/
structure XMQ where
  c : Nat
  i : Nat
  cv : Nat
  a : XSrc
  b : XSrc
  q : Nat
  deriving DecidableEq, Repr
/-- MZERO: the shape word alone. -/
structure XMA where
  c : Nat
  i : Nat
  cv : Nat
  a : XSrc
  deriving DecidableEq, Repr
/-- GATH: a V index vector and the operand word. -/
structure XMV where
  c : Nat
  i : Nat
  cv : Nat
  a : Nat
  b : XSrc
  deriving DecidableEq, Repr
/-- MCOMMIT: a convergence register. -/
structure XCV where
  c : Nat
  cv : Nat
  deriving DecidableEq, Repr
/-- MWAITB: a number of batches. -/
structure XN where
  c : Nat
  n : Nat
  deriving DecidableEq, Repr
/-- MACCR, MACCW: accumulator, V register, index. -/
structure XAcc where
  c : Nat
  i : Nat
  a : Nat
  idx : MIdx
  deriving DecidableEq, Repr
/-- SEND: V block and status predicate. -/
structure XSend where
  c : Nat
  a : Nat
  b : Nat
  deriving DecidableEq, Repr
/-- TREE, TREEW: group, S block, predicate. -/
structure XTree where
  c : Nat
  i : Nat
  a : Nat
  b : Nat
  deriving DecidableEq, Repr
/-- BAR: a scope. -/
structure SBar where
  c : Nat
  s : Nat
  deriving DecidableEq, Repr

/-- A register that an instruction names (R113). -/
inductive RegRef where
  | v (n : Nat)
  | s (n : Nat)
  | p (n : Nat)
  | acc (n : Nat)
  | tile (n : Nat)
  deriving DecidableEq, Repr

/-- The pipes of R107. -/
inductive Pipe where
  | a | f | m | c | x
  deriving DecidableEq, Repr

/-- The registers n to n + k − 1 of the V class. -/
def vRegs (n k : Nat) : List RegRef := (List.range k).map fun i => .v (n + i)
/-- The registers n to n + k − 1 of the S class. -/
def sRegs (n k : Nat) : List RegRef := (List.range k).map fun i => .s (n + i)
/-- A predicate as a source: PT names no register (R113). -/
def pSrc (n : Nat) : List RegRef := if n = 127 then [] else [.p n]

/-- Registers an operand names. -/
def Src.regs : Src → List RegRef
  | .v n => [.v n]
  | .s n => [.s n]
  | .imm _ => []
  | .lit _ => []
/-- Registers an operand of 64 bits names. -/
def Src.regs2 : Src → List RegRef
  | .v n => vRegs n 2
  | .s n => sRegs n 2
  | .imm _ => []
  | .lit _ => []
/-- Registers an X operand names. -/
def XSrc.regs : XSrc → List RegRef
  | .s n => [.s n]
  | .imm _ => []
  | .lit _ => []
/-- Registers a global address names. -/
def Addr.regs2 : Addr → List RegRef
  | .v a => vRegs a 2
  | .s a => sRegs a 2
  | .sl a _ => sRegs a 2
  | .vl a _ => vRegs a 2
/-- Registers a scratchpad address names. -/
def Addr.regs : Addr → List RegRef
  | .v a => [.v a]
  | .s a => [.s a]
  | .sl a _ => [.s a]
  | .vl a _ => [.v a]
/-- Registers an accumulator index names. -/
def MIdx.regs : MIdx → List RegRef
  | .v n => [.v n]
  | .x b => b.regs

/-- Within its field: the values R109 gives an operand. -/
def Src.fits : Src → Bool
  | .v n => decide (n < 128)
  | .s n => decide (n < 64)
  | .imm i => decide (-31 ≤ i ∧ i ≤ 31)
  | .lit _ => true
/-- An operand of 64 bits: register names even. -/
def Src.even : Src → Bool
  | .v n => decide (n % 2 = 0)
  | .s n => decide (n % 2 = 0)
  | .imm _ => true
  | .lit _ => true
/-- A seed of RNG: a pair of registers (R346). -/
def Src.isReg : Src → Bool
  | .v _ => true
  | .s _ => true
  | .imm _ => false
  | .lit _ => false
/-- Within its field (R111). -/
def XSrc.fits : XSrc → Bool
  | .s n => decide (n < 64)
  | .imm n => decide (n < 63)
  | .lit _ => true
/-- The register field of an address. -/
def Addr.a : Addr → Nat
  | .v a => a
  | .s a => a
  | .sl a _ => a
  | .vl a _ => a
/-- The AM field of an address. -/
def Addr.am : Addr → Nat
  | .v _ => 0
  | .s _ => 1
  | .sl _ _ => 2
  | .vl _ _ => 3
/-- The literal of an address. -/
def Addr.lits : Addr → List W
  | .v _ => []
  | .s _ => []
  | .sl _ l => [l]
  | .vl _ l => [l]

end Sys2Proof
end

