-- ==== Sys2Proof/Machine/Messages.lean ====
section
/-! DEFINITION. Records that reach the machine from outside or travel between its units. -/
namespace Sys2Proof

/-- A replicated launch as its origin sends it (R56): origin chip and launch, generation, context and partition, the packet, the argument bytes, the launch number of the origin. -/
structure Replica where
  origin : Nat
  okey : Nat
  gen : Nat
  ctx : Nat
  part : Nat
  number : Nat
  packet : List Byte
  args : List Byte
  deriving DecidableEq, Repr

/-- A message for a ring (R247, R248, R344): target launch, core and ring; the sender; a record to answer on this chip. -/
structure RingMsg where
  launch : Nat
  core : Nat
  chip : Nat
  ring : Nat
  mtag : Nat
  srcCore : Nat
  srcChip : Nat
  payload : List Byte
  answer : Option Nat
  deriving DecidableEq, Repr

/-- A contribution to a reduction round that arrives from a chip of the domain (R345). -/
structure TreeMsg where
  ctx : Nat
  grp : Nat
  round : Nat
  rank : Nat
  n : Nat
  len : Nat
  op : Nat
  fmt : Nat
  data : List Byte
  deriving DecidableEq, Repr

/-- An access of a peer chip to this chip's device memory (R219, R325): context number, offset, a read of n bytes, a write, or an atomic by major and OP. -/
structure PeerReq where
  chip : Nat
  ctx : Nat
  off : Nat
  n : Nat
  write : Option (List Byte)
  atom : Option (Nat × List Byte × List Byte)
  deriving DecidableEq, Repr

/-- Where an uncorrectable error is found (R431). line: by the key of its home: device memory by its line number, the second tier 2^64 further. -/
inductive EccPlace where
  | line (key : Nat)
  | stand (g slot lane : Nat)
  | team (id : Nat)
  | matrix (id : Nat)
  | copy (id : Nat)
  | network (g slot lane : Nat)
  | barrier (id : Nat)
  | core (g : Nat)
  | contained
  deriving DecidableEq, Repr

/-- A firmware image (R433): signature good, security version, contents named by a number. -/
structure FwImage where
  good : Bool
  svn : Nat
  tag : Nat
  deriving DecidableEq, Repr

end Sys2Proof
end

