-- ==== Sys2Proof/Syntax.lean ====
section
/-! DEFINITION. The one inductive of the device: a constructor for each instruction (chapters 07, 09, 11, 12, 15, 17) and for each step of the device (95). -/
namespace Sys2Proof

/-- One instruction of a packet, or one indivisible step of the device. -/
inductive Instr where
  /-- MOV (R148) -/
  | mov (x : RDB)
  /-- MOV_S (R148) -/
  | movS (x : RDB)
  /-- SEL (R149) -/
  | sel (x : RSel)
  /-- VIDXR (R150) -/
  | vidxr (x : RB)
  /-- VIDXW (R150) -/
  | vidxw (x : RB)
  /-- GET_V (R151) -/
  | getV (x : RU)
  /-- GET_S (R151) -/
  | getS (x : RU)
  /-- PUT (R152) -/
  | put (x : RDB)
  /-- IADD (R153) -/
  | iadd (x : RB)
  /-- ISUB (R153) -/
  | isub (x : RB)
  /-- IADDS (R153) -/
  | iadds (x : RB)
  /-- ISUBS (R153) -/
  | isubs (x : RB)
  /-- INEG (R153) -/
  | ineg (x : RU)
  /-- IABS (R153) -/
  | iabs (x : RU)
  /-- IMIN (R153) -/
  | imin (x : RB)
  /-- IMAX (R153) -/
  | imax (x : RB)
  /-- IMUL (R154) -/
  | imul (x : RB)
  /-- IMULH (R154) -/
  | imulh (x : RB)
  /-- IMULHU (R154) -/
  | imulhu (x : RB)
  /-- IMAD (R154) -/
  | imad (x : RX)
  /-- IMADH (R154) -/
  | imadh (x : RX)
  /-- AND (R155) -/
  | and (x : RB)
  /-- OR (R155) -/
  | or (x : RB)
  /-- XOR (R155) -/
  | xor (x : RB)
  /-- ANDN (R155) -/
  | andn (x : RB)
  /-- ORN (R155) -/
  | orn (x : RB)
  /-- XNOR (R155) -/
  | xnor (x : RB)
  /-- SHL (R156) -/
  | shl (x : RB)
  /-- SHR (R156) -/
  | shr (x : RB)
  /-- SAR (R156) -/
  | sar (x : RB)
  /-- ROL (R156) -/
  | rol (x : RB)
  /-- ROR (R156) -/
  | ror (x : RB)
  /-- BFE (R157) -/
  | bfe (x : RX)
  /-- BFEU (R157) -/
  | bfeu (x : RX)
  /-- BFI (R157) -/
  | bfi (x : RX)
  /-- POPC (R157) -/
  | popc (x : RU)
  /-- CLZ (R157) -/
  | clz (x : RU)
  /-- BREV (R157) -/
  | brev (x : RU)
  /-- PRMT_B (R158) -/
  | prmtB (x : RX)
  /-- PRMT_N (R158) -/
  | prmtN (x : RX)
  /-- ICMP_EQ (R159) -/
  | icmpEq (x : RB)
  /-- ICMP_NE (R159) -/
  | icmpNe (x : RB)
  /-- ICMP_LT (R159) -/
  | icmpLt (x : RB)
  /-- ICMP_LE (R159) -/
  | icmpLe (x : RB)
  /-- ICMP_GT (R159) -/
  | icmpGt (x : RB)
  /-- ICMP_GE (R159) -/
  | icmpGe (x : RB)
  /-- ICMP_LTU (R159) -/
  | icmpLtu (x : RB)
  /-- ICMP_GEU (R159) -/
  | icmpGeu (x : RB)
  /-- PAND (R160) -/
  | pand (x : RB)
  /-- POR (R160) -/
  | por (x : RB)
  /-- PXOR (R160) -/
  | pxor (x : RB)
  /-- PNOT (R160) -/
  | pnot (x : RU)
  /-- PMOV (R160) -/
  | pmov (x : RU)
  /-- P2V (R160) -/
  | p2v (x : RB)
  /-- V2P (R160) -/
  | v2p (x : RB)
  /-- AFF (R162) -/
  | aff (x : RB)
  /-- SHAPE (R163) -/
  | shape (x : RU)
  /-- EXPAND (R164) -/
  | expand (x : RU)
  /-- SQUEEZE (R164) -/
  | squeeze (x : RU)
  /-- SHFL_IDX (R166) -/
  | shflIdx (x : RB)
  /-- SHFL_UP (R166) -/
  | shflUp (x : RB)
  /-- SHFL_DN (R166) -/
  | shflDn (x : RB)
  /-- SHFL_XOR (R166) -/
  | shflXor (x : RB)
  /-- VOTE_ANY (R167) -/
  | voteAny (x : RU)
  /-- VOTE_ALL (R167) -/
  | voteAll (x : RU)
  /-- VOTE_BAL (R167) -/
  | voteBal (x : RU)
  /-- ELECT (R167) -/
  | elect (x : RD)
  /-- REDX_ADD (R168) -/
  | redxAdd (x : RU)
  /-- REDX_MIN (R168) -/
  | redxMin (x : RU)
  /-- REDX_MAX (R168) -/
  | redxMax (x : RU)
  /-- REDX_MINU (R168) -/
  | redxMinu (x : RU)
  /-- REDX_MAXU (R168) -/
  | redxMaxu (x : RU)
  /-- REDX_AND (R168) -/
  | redxAnd (x : RU)
  /-- REDX_OR (R168) -/
  | redxOr (x : RU)
  /-- REDX_FADD (R168) -/
  | redxFadd (x : RU)
  /-- BRA (R169) -/
  | bra (x : BDisp)
  /-- BRX_V (R170) -/
  | brxV (x : BReg)
  /-- BRX_S (R170) -/
  | brxS (x : BReg)
  /-- CALL (R171) -/
  | call (x : BDisp)
  /-- CALLX_V (R171) -/
  | callxV (x : BReg)
  /-- CALLX_S (R171) -/
  | callxS (x : BReg)
  /-- RET (R171) -/
  | ret (x : C0)
  /-- RECON (R172) -/
  | recon (x : C0)
  /-- YIELD (R172) -/
  | yield (x : C0)
  /-- EXIT (R173) -/
  | exit (x : C0)
  /-- JOIN (R131) -/
  | join (x : RAB)
  /-- LEAVE (R133) -/
  | leave (x : C0)
  /-- TINFO (R178) -/
  | tinfo (x : RDB)
  /-- FADD (R203) -/
  | fadd (x : RB)
  /-- FSUB (R203) -/
  | fsub (x : RB)
  /-- FMUL (R203) -/
  | fmul (x : RB)
  /-- FMIN (R202) -/
  | fmin (x : RB)
  /-- FMAX (R202) -/
  | fmax (x : RB)
  /-- FFMA (R204) -/
  | ffma (x : RX)
  /-- FFMS (R204) -/
  | ffms (x : RX)
  /-- FNMA (R204) -/
  | fnma (x : RX)
  /-- FCMP_EQ (R205) -/
  | fcmpEq (x : RB)
  /-- FCMP_NE (R205) -/
  | fcmpNe (x : RB)
  /-- FCMP_LT (R205) -/
  | fcmpLt (x : RB)
  /-- FCMP_LE (R205) -/
  | fcmpLe (x : RB)
  /-- FCMP_GT (R205) -/
  | fcmpGt (x : RB)
  /-- FCMP_GE (R205) -/
  | fcmpGe (x : RB)
  /-- FCMP_UN (R205) -/
  | fcmpUn (x : RB)
  /-- FCMP_OR (R205) -/
  | fcmpOr (x : RB)
  /-- FRCP (R207) -/
  | frcp (x : RU)
  /-- FRSQ (R207) -/
  | frsq (x : RU)
  /-- FSQRT (R207) -/
  | fsqrt (x : RU)
  /-- FEXP2 (R207) -/
  | fexp2 (x : RU)
  /-- FLOG2 (R207) -/
  | flog2 (x : RU)
  /-- FSIN (R207) -/
  | fsin (x : RU)
  /-- FCOS (R207) -/
  | fcos (x : RU)
  /-- FTANH (R207) -/
  | ftanh (x : RU)
  /-- DADD (R209) -/
  | dadd (x : RB)
  /-- DMUL (R209) -/
  | dmul (x : RB)
  /-- DFMA (R209) -/
  | dfma (x : RX)
  /-- DMIN (R209) -/
  | dmin (x : RB)
  /-- DMAX (R209) -/
  | dmax (x : RB)
  /-- HADD2 (R210) -/
  | hadd2 (x : RB)
  /-- HMUL2 (R210) -/
  | hmul2 (x : RB)
  /-- HFMA2 (R210) -/
  | hfma2 (x : RX)
  /-- HMIN2 (R210) -/
  | hmin2 (x : RB)
  /-- HMAX2 (R210) -/
  | hmax2 (x : RB)
  /-- BADD2 (R210) -/
  | badd2 (x : RB)
  /-- BMUL2 (R210) -/
  | bmul2 (x : RB)
  /-- BFMA2 (R210) -/
  | bfma2 (x : RX)
  /-- BDOT2 (R211) -/
  | bdot2 (x : RB)
  /-- CVT (R213) -/
  | cvt (x : RCvt)
  /-- T8UNPK (R215) -/
  | t8unpk (x : RB)
  /-- T6UNPK (R215) -/
  | t6unpk (x : RB)
  /-- I4UNPK (R215) -/
  | i4unpk (x : RB)
  /-- NPK (R216) -/
  | npk (x : RB)
  /-- LD_B8 (R252) -/
  | ldB8 (x : MMem)
  /-- LD_B16 (R252) -/
  | ldB16 (x : MMem)
  /-- LD_B32 (R252) -/
  | ldB32 (x : MMem)
  /-- LD_B64 (R252) -/
  | ldB64 (x : MMem)
  /-- LD_B128 (R252) -/
  | ldB128 (x : MMem)
  /-- LD_S8 (R252) -/
  | ldS8 (x : MMem)
  /-- LD_S16 (R252) -/
  | ldS16 (x : MMem)
  /-- ST_B8 (R252) -/
  | stB8 (x : MMem)
  /-- ST_B16 (R252) -/
  | stB16 (x : MMem)
  /-- ST_B32 (R252) -/
  | stB32 (x : MMem)
  /-- ST_B64 (R252) -/
  | stB64 (x : MMem)
  /-- ST_B128 (R252) -/
  | stB128 (x : MMem)
  /-- ST_S8 (R252) -/
  | stS8 (x : MMem)
  /-- ST_S16 (R252) -/
  | stS16 (x : MMem)
  /-- LDS_B8 (R258) -/
  | ldsB8 (x : MMem)
  /-- LDS_B16 (R258) -/
  | ldsB16 (x : MMem)
  /-- LDS_B32 (R258) -/
  | ldsB32 (x : MMem)
  /-- LDS_B64 (R258) -/
  | ldsB64 (x : MMem)
  /-- LDS_B128 (R258) -/
  | ldsB128 (x : MMem)
  /-- LDS_S8 (R258) -/
  | ldsS8 (x : MMem)
  /-- LDS_S16 (R258) -/
  | ldsS16 (x : MMem)
  /-- STS_B8 (R258) -/
  | stsB8 (x : MMem)
  /-- STS_B16 (R258) -/
  | stsB16 (x : MMem)
  /-- STS_B32 (R258) -/
  | stsB32 (x : MMem)
  /-- STS_B64 (R258) -/
  | stsB64 (x : MMem)
  /-- STS_B128 (R258) -/
  | stsB128 (x : MMem)
  /-- STS_S8 (R258) -/
  | stsS8 (x : MMem)
  /-- STS_S16 (R258) -/
  | stsS16 (x : MMem)
  /-- PREF (R262) -/
  | pref (x : MPref)
  /-- CLEAN (R263) -/
  | clean (x : MAddr)
  /-- INVAL (R264) -/
  | inval (x : MAddr)
  /-- TDISCARD (R265) -/
  | tdiscard (x : MAddr)
  /-- TDESC (R267) -/
  | tdesc (x : XDesc)
  /-- TREAD (R268) -/
  | tread (x : XRead)
  /-- TQUERY (R269) -/
  | tquery (x : XRead)
  /-- CPY (R272) -/
  | cpy (x : XCpy)
  /-- CPYT (R273) -/
  | cpyt (x : XCpy)
  /-- CPYV (R274) -/
  | cpyv (x : XCpyV)
  /-- MMA (R296) -/
  | mma (x : XM)
  /-- MMAG (R296) -/
  | mmag (x : XM)
  /-- MZERO (R297) -/
  | mzero (x : XMA)
  /-- GATH (R298) -/
  | gath (x : XMV)
  /-- TLD (R299) -/
  | tld (x : XM)
  /-- MCOMMIT (R287) -/
  | mcommit (x : XCV)
  /-- MWAITB (R288) -/
  | mwaitb (x : XN)
  /-- MDRAIN (R292) -/
  | mdrain (x : XM)
  /-- MDRAINA (R293) -/
  | mdraina (x : XMQ)
  /-- MACCR (R301) -/
  | maccr (x : XAcc)
  /-- MACCW (R301) -/
  | maccw (x : XAcc)
  /-- ATOM_ADD (R331) -/
  | atomAdd (x : MAtom)
  /-- ATOM_MIN (R331) -/
  | atomMin (x : MAtom)
  /-- ATOM_MAX (R331) -/
  | atomMax (x : MAtom)
  /-- ATOM_AND (R331) -/
  | atomAnd (x : MAtom)
  /-- ATOM_OR (R331) -/
  | atomOr (x : MAtom)
  /-- ATOM_XOR (R331) -/
  | atomXor (x : MAtom)
  /-- ATOM_EXCH (R331) -/
  | atomExch (x : MAtom)
  /-- ATOM_CAS (R331) -/
  | atomCas (x : MCas)
  /-- ATOM64_ADD (R331) -/
  | atom64Add (x : MAtom)
  /-- ATOM64_MIN (R331) -/
  | atom64Min (x : MAtom)
  /-- ATOM64_MAX (R331) -/
  | atom64Max (x : MAtom)
  /-- ATOM64_AND (R331) -/
  | atom64And (x : MAtom)
  /-- ATOM64_OR (R331) -/
  | atom64Or (x : MAtom)
  /-- ATOM64_XOR (R331) -/
  | atom64Xor (x : MAtom)
  /-- ATOM64_EXCH (R331) -/
  | atom64Exch (x : MAtom)
  /-- ATOM64_CAS (R331) -/
  | atom64Cas (x : MCas)
  /-- ATOMS_ADD (R331) -/
  | atomsAdd (x : MAtom)
  /-- ATOMS_MIN (R331) -/
  | atomsMin (x : MAtom)
  /-- ATOMS_MAX (R331) -/
  | atomsMax (x : MAtom)
  /-- ATOMS_AND (R331) -/
  | atomsAnd (x : MAtom)
  /-- ATOMS_OR (R331) -/
  | atomsOr (x : MAtom)
  /-- ATOMS_XOR (R331) -/
  | atomsXor (x : MAtom)
  /-- ATOMS_EXCH (R331) -/
  | atomsExch (x : MAtom)
  /-- ATOMS_CAS (R331) -/
  | atomsCas (x : MCas)
  /-- ATOMF_FADD32 (R334) -/
  | atomfFadd32 (x : MAtom)
  /-- ATOMF_FADD_BF2 (R334) -/
  | atomfFaddBf2 (x : MAtom)
  /-- ATOMF_FADD_H2 (R334) -/
  | atomfFaddH2 (x : MAtom)
  /-- ATOMF_FMIN32 (R334) -/
  | atomfFmin32 (x : MAtom)
  /-- ATOMF_FMAX32 (R334) -/
  | atomfFmax32 (x : MAtom)
  /-- ATOMF_FADD64 (R334) -/
  | atomfFadd64 (x : MAtom)
  /-- CHUNK (R335) -/
  | chunk (x : MMem)
  /-- RED_ADD (R336) -/
  | redAdd (x : MMem)
  /-- RED_MIN (R336) -/
  | redMin (x : MMem)
  /-- RED_MAX (R336) -/
  | redMax (x : MMem)
  /-- RED_AND (R336) -/
  | redAnd (x : MMem)
  /-- RED_OR (R336) -/
  | redOr (x : MMem)
  /-- RED_XOR (R336) -/
  | redXor (x : MMem)
  /-- FENCE (R337) -/
  | fence (x : MFence)
  /-- FENCE_X (R337) -/
  | fenceX (x : MFenceX)
  /-- BAR_ARRIVE (R338) -/
  | barArrive (x : SBar)
  /-- BAR_WAIT (R338) -/
  | barWait (x : SBar)
  /-- BAR_SYNC (R338) -/
  | barSync (x : SBar)
  /-- MONA (R339) -/
  | mona (x : MMona)
  /-- MWAIT (R341) -/
  | mwait (x : MMem)
  /-- WAITA (R342) -/
  | waita (x : MMem)
  /-- SEND (R344) -/
  | send (x : XSend)
  /-- TREE (R345) -/
  | tree (x : XTree)
  /-- TREEW (R345) -/
  | treew (x : XTree)
  /-- BEAT (R347) -/
  | beat (x : RB1)
  /-- BEATD (R347) -/
  | beatd (x : RAB)
  /-- RNG (R348) -/
  | rng (x : RB)
  /-- TIME (R349) -/
  | time (x : RDB)
  /-- TRAP (R384) -/
  | trap (x : RB1)
  /-- RTT (R385) -/
  | rtt (x : C0)
  /-- RTT_SKIP (R385) -/
  | rttSkip (x : C0)
  /-- LMOV_R (R386) -/
  | lmovR (x : RB)
  /-- LMOV_W (R386) -/
  | lmovW (x : RB)
  /-- BRK (R384) -/
  | brk (x : RB1)
  /-- RESUME (R387) -/
  | resume (x : RU)
  /-- DROP (R387) -/
  | drop (x : RU)
  /-- NOP (R114) -/
  | nop (x : C0)
  /-- PACKET_ISSUE (R104) -/
  | packetIssue (g : Nat) (n : Nat)
  /-- COUNTED_COMPLETE (R104) -/
  | countedComplete (id : Nat)
  /-- PACKET_CACHE_FILL (R99) -/
  | packetCacheFill (id : Nat)
  /-- BRAND_FILL (R230) -/
  | brandFill (id : Nat)
  /-- PC_TABLE_EVICT (R124) -/
  | pcTableEvict (g : Nat)
  /-- RECON_RELEASE (R129) -/
  | reconRelease (g : Nat) (slot : Nat)
  /-- TEAM_FORM (R132) -/
  | teamForm (cl : Nat)
  /-- TEAM_FREE (R133) -/
  | teamFree (id : Nat)
  /-- SHAPE_SPILL (R142) -/
  | shapeSpill (g : Nat) (slot : Nat)
  /-- SPILL_RETURN (R143) -/
  | spillReturn (g : Nat)
  /-- SPILL_RELOAD (R142) -/
  | spillReload (g : Nat) (slot : Nat)
  /-- QTAIL_WRITE (R38) -/
  | qtailWrite (fn : Nat) (q : Nat) (v : W)
  /-- QUEUE_SERVICE (R39) -/
  | queueService (dq : Nat)
  /-- RING_WATCH_TIMEOUT (R39) -/
  | ringWatchTimeout (dq : Nat)
  /-- HEAD_WRITEBACK (R40) -/
  | headWriteback (dq : Nat)
  /-- HEAD_WRITEBACK_RETRY (R41) -/
  | headWritebackRetry (fn : Nat) (q : Nat)
  /-- QUEUE_ENABLE (R35) -/
  | queueEnable (fn : Nat) (q : Nat)
  /-- QUEUE_DISABLE (R34) -/
  | queueDisable (fn : Nat) (q : Nat)
  /-- QUEUE_RESTART (R51) -/
  | queueRestart (fn : Nat) (q : Nat)
  /-- QUEUE_RESTART_SKIP (R51) -/
  | queueRestartSkip (fn : Nat) (q : Nat)
  /-- LAUNCH_START (R46) -/
  | launchStart (key : Nat)
  /-- WAITW_CHECK (R47) -/
  | waitwCheck (dq : Nat)
  /-- WAITW_TIMEOUT (R47) -/
  | waitwTimeout (dq : Nat)
  /-- SIGNAL_STORE (R48) -/
  | signalStore (dq : Nat)
  /-- GRAPH_LOOP (R53) -/
  | graphLoop (dq : Nat)
  /-- GRAPH_END (R54) -/
  | graphEnd (dq : Nat)
  /-- REPLICATION_RECEIVE (R56) -/
  | replicationReceive (r : Replica)
  /-- START_READY (R57) -/
  | startReady (key : Nat) (chip : Nat) (gen : Nat)
  /-- START_RELEASE_RECEIVE (R57) -/
  | startReleaseReceive (key : Nat) (gen : Nat) (t : Nat)
  /-- START_BARRIER_ISSUE (R57) -/
  | startBarrierIssue (key : Nat)
  /-- START_BARRIER_TIMEOUT (R57) -/
  | startBarrierTimeout (key : Nat)
  /-- START_ABORT_RECEIVE (R57) -/
  | startAbortReceive (key : Nat) (gen : Nat)
  /-- CTX_CREATE (R58) -/
  | ctxCreate (fn : Nat) (ctx : Nat)
  /-- CTX_RELOAD (R58) -/
  | ctxReload (fn : Nat) (ctx : Nat)
  /-- CTX_DESTROY (R58) -/
  | ctxDestroy (fn : Nat) (ctx : Nat)
  /-- CTX_CMD_NONE (R61) -/
  | ctxCmdNone (fn : Nat) (ctx : Nat)
  /-- STAND_PLACE (R66) -/
  | standPlace (key : Nat)
  /-- PARTITION_WRITE (R64) -/
  | partitionWrite (p : Nat) (reg : Nat) (v : W)
  /-- EPOCH_BOUNDARY (R70) -/
  | epochBoundary
  /-- CHUNK_REQUEST (R73) -/
  | chunkRequest (id : Nat)
  /-- CLUSTER_LEND (R74) -/
  | clusterLend (p : Nat)
  /-- CLUSTER_RECLAIM (R75) -/
  | clusterReclaim (gcl : Nat)
  /-- RECLAIM_HANDOVER (R75) -/
  | reclaimHandover (gcl : Nat)
  /-- INTERVAL_BOUNDARY (R78) -/
  | intervalBoundary (ctx : Nat)
  /-- MERGE_COUNT_RECEIVE (R80) -/
  | mergeCountReceive (chip : Nat) (ctx : Nat) (k : Nat) (count : Nat)
  /-- MERGE_MINIMUM_SEND (R80) -/
  | mergeMinimumSend (ctx : Nat)
  /-- MERGE_RESULT_RECEIVE (R80) -/
  | mergeResultReceive (ctx : Nat) (k : Nat) (res : Nat)
  /-- LOOP_STEP (R81) -/
  | loopStep (ctx : Nat)
  /-- UMPIRE_ROUND (R88) -/
  | umpireRound
  /-- CLOCK_STEP_APPLY (R84) -/
  | clockStepApply (gcl : Nat)
  /-- INTERVAL_WRITE (R78) -/
  | intervalWrite (fn : Nat) (ctx : Nat) (v : W)
  /-- LOOP_SAVE (R92) -/
  | loopSave (fn : Nat) (ctx : Nat)
  /-- LOOP_CLEAR (R94) -/
  | loopClear (fn : Nat) (ctx : Nat)
  /-- ACTUATOR_LIMIT_WRITE (R96) -/
  | actuatorLimitWrite (fn : Nat) (ctx : Nat) (k : Nat) (v : W)
  /-- BT_FIELD_WRITE (R95) -/
  | btFieldWrite (fn : Nat) (ctx : Nat) (reg : Nat) (v : W)
  /-- STORE_ACK (R235) -/
  | storeAck (id : Nat)
  /-- LANDING_FAULT_PARK (R236) -/
  | landingFaultPark (id : Nat)
  /-- HOLD_QUEUE_ROOM (R236) -/
  | holdQueueRoom (stack : Nat)
  /-- INVALIDATE_PAGE (R234) -/
  | invalidatePage (fn : Nat)
  /-- INVALIDATE_TAG (R234) -/
  | invalidateTag (fn : Nat)
  /-- INVALIDATE_FUNCTION (R234) -/
  | invalidateFunction (fn : Nat)
  /-- INVALIDATE_DONE (R234) -/
  | invalidateDone (fn : Nat)
  /-- COPY_COMPLETE (R244) -/
  | copyComplete (id : Nat)
  /-- RING_APPEND (R248) -/
  | ringAppend (m : RingMsg)
  /-- SEND_STATUS (R344) -/
  | sendStatus (id : Nat) (status : Nat)
  /-- TREE_CONTRIBUTION (R345) -/
  | treeContribution (t : TreeMsg)
  /-- MATRIX_OP_COMPLETE (R281) -/
  | matrixOpComplete (team : Nat)
  /-- BATCH_COMPLETE (R288) -/
  | batchComplete (team : Nat)
  /-- OPERAND_FAULT (R291) -/
  | operandFault (team : Nat)
  /-- SPLITK_PART_ARRIVE (R294) -/
  | splitkPartArrive (id : Nat)
  /-- WATCH_TRIGGER (R340) -/
  | watchTrigger (g : Nat) (slot : Nat) (lane : Nat)
  /-- MWAIT_TIMEOUT (R341) -/
  | mwaitTimeout (g : Nat) (slot : Nat) (lane : Nat)
  /-- HOST_WRITE (R325) -/
  | hostWrite (pa : Nat) (bytes : List Byte)
  /-- HOST_READ (R325) -/
  | hostRead (pa : Nat) (n : Nat)
  /-- PEER_ACCESS (R325) -/
  | peerAccess (r : PeerReq)
  /-- TRAP_DELIVERY (R358) -/
  | trapDelivery (g : Nat) (slot : Nat)
  /-- FAULT_NOTICE (R366) -/
  | faultNotice (id : Nat)
  /-- GHOST_DELIVERY (R368) -/
  | ghostDelivery (g : Nat) (slot : Nat)
  /-- KILL (R357) -/
  | kill (key : Nat) (cause : Nat)
  /-- SWITCH_OUT (R371) -/
  | switchOut (g : Nat)
  /-- SLICE_END (R376) -/
  | sliceEnd (g : Nat)
  /-- BUDGET_OVERRUN (R372) -/
  | budgetOverrun (g : Nat)
  /-- SWAP_IN (R373) -/
  | swapIn (g : Nat)
  /-- SAVE_WRITE_DONE (R373) -/
  | saveWriteDone (g : Nat)
  /-- COMPLETION_POINT (R398) -/
  | completionPoint (key : Nat)
  /-- REPLICA_DONE (R398) -/
  | replicaDone (key : Nat) (chip : Nat) (gen : Nat)
  /-- CAUSE_ENTRY_CLEAR (R404) -/
  | causeEntryClear (n : Nat) (v : W)
  /-- VF_INTERRUPT_INJECT (R406) -/
  | vfInterruptInject (v : W)
  /-- REPORT_RING_ENABLE (R402) -/
  | reportRingEnable (fn : Nat)
  /-- PARTITION_RESET (R408) -/
  | partitionReset (v : W)
  /-- RESET_DRAIN_END (R408) -/
  | resetDrainEnd (p : Nat)
  /-- VF_FLR (R410) -/
  | vfFlr (fn : Nat)
  /-- VF_DISABLE (R411) -/
  | vfDisable
  /-- VF_ENABLE (R411) -/
  | vfEnable (n : Nat)
  /-- PF_RESET (R437) -/
  | pfReset (conv : Bool)
  /-- GUEST_TIME_APPLY (R412) -/
  | guestTimeApply (f : Nat)
  /-- LINK_DOWN (R417) -/
  | linkDown (n : Nat)
  /-- LINK_UP (R416) -/
  | linkUp (n : Nat) (lanes : Nat)
  /-- TIMEBASE_SYNC (R418) -/
  | timebaseSync (t : DW)
  /-- CHECKPOINT_SAVE (R421) -/
  | checkpointSave (v : W)
  /-- CHECKPOINT_RESTORE (R421) -/
  | checkpointRestore (v : W)
  /-- CHECKPOINT_DONE (R422) -/
  | checkpointDone (err : Nat)
  /-- EXPANDER_DOWN (R419) -/
  | expanderDown (port : Nat)
  /-- DEBUG_STOP (R423) -/
  | debugStop (ctx : Nat)
  /-- DEBUG_RUN (R424) -/
  | debugRun (ctx : Nat)
  /-- DEBUG_STEP (R424) -/
  | debugStep (ctx : Nat)
  /-- DEBUG_REG_READ (R425) -/
  | debugRegRead (ctx : Nat)
  /-- DEBUG_REG_WRITE (R425) -/
  | debugRegWrite (ctx : Nat) (v : W)
  /-- DEBUG_DRAIN_TIMEOUT (R425) -/
  | debugDrainTimeout (ctx : Nat)
  /-- DEBUG_ARM (R426) -/
  | debugArm (p : Nat) (v : W)
  /-- FREEZE (R427) -/
  | freeze
  /-- ECC_CORRECTED (R431) -/
  | eccCorrected
  /-- ECC_UNCORRECTABLE (R431) -/
  | eccUncorrectable (place : EccPlace)
  /-- UNIT_FENCE (R432) -/
  | unitFence (kind : Nat) (unit : Nat)
  /-- PATROL_SCRUB (R431) -/
  | patrolScrub
  /-- POWER_LIMIT_CROSS (R435) -/
  | powerLimitCross (above : Bool)
  /-- THERMAL_SHUTDOWN (R436) -/
  | thermalShutdown
  /-- SPDM_REQUEST (R434) -/
  | spdmRequest (bytes : List Byte)
  /-- BRING_UP (R437) -/
  | bringUp
  /-- REGISTER_WRITE (R7) -/
  | registerWrite (fn : Nat) (off : Nat) (v : W)
  /-- EXPANDER_UP (R419) -/
  | expanderUp (port : Nat) (size : Nat)
  /-- THERMAL_LIMIT_REACHED (R436) -/
  | thermalLimitReached
  /-- FIRMWARE_UPDATE_STAGED (R433) -/
  | firmwareUpdateStaged (img : FwImage)
  /-- CTX_COMMAND_DONE (R58) -/
  | ctxCommandDone (fn : Nat)
  /-- LOOP_SAVE_DONE (R92) -/
  | loopSaveDone (ctx : Nat)
  /-- TDISCARD_DONE (R265) -/
  | tdiscardDone (id : Nat)
  /-- LANDINGS_ANSWERED (R387) -/
  | landingsAnswered (id : Nat)
  deriving DecidableEq, Repr

end Sys2Proof
end

