-- ==== Sys2Proof/WellFormed.lean ====
section
/-! DEFINITION. Which instructions are well formed: the field limits of 05 R109 to R111 and the limits each description sets (R112). -/
namespace Sys2Proof

/-- A predicate source held in operand B of PAND, POR and PXOR (R160). -/
def Src.isPred : Src → Bool
  | .v n => decide (n < 96 ∨ n = 127)
  | .s _ => false
  | .imm _ => false
  | .lit _ => false

/-- The cause code a TRAP names (R383). -/
def Src.trapCode : Src → Nat
  | .v n => n
  | .s n => n
  | .imm i => toPat i 32
  | .lit w => w.toNat

/-- A legal operand of TRAP (R383). -/
def Src.isTrapCode (b : Src) : Bool :=
  !b.isReg && decide ((8 ≤ b.trapCode ∧ b.trapCode ≤ 15) ∨ (0x34 ≤ b.trapCode ∧ b.trapCode ≤ 0x37))

/-- GET names of 64 bits (R151). -/
def getWide (n : Nat) : Bool := decide (n = 3 ∨ n = 5 ∨ n = 14 ∨ n = 15 ∨ n = 28)
/-- GET name codes in use (R151). -/
def getName (n : Nat) : Bool := decide (n < 22 ∨ (24 ≤ n ∧ n < 31))
/-- GET names that no S register may take (R151). -/
def getNoS (n : Nat) : Bool := decide (n < 5 ∨ n = 13 ∨ (24 ≤ n ∧ n < 29))
/-- A legal GET into V registers (R151). -/
def getOkV (d a : Nat) : Bool := getName a && (!getWide a || decide (d % 2 = 0))
/-- A legal GET into S registers (R151). -/
def getOkS (d a : Nat) : Bool := getName a && !getNoS a && (!getWide a || decide (d % 2 = 0))
/-- The identifier forms of TDISCARD (R261). -/
def Addr.isIdent : Addr → Bool
  | .v _ => false
  | .s _ => true
  | .sl a _ => decide (a = 0)
  | .vl _ _ => false
/-- The timeout forms of MWAIT (R341). -/
def Addr.isTimeout : Addr → Bool
  | .v _ => true
  | .s _ => true
  | .sl a _ => decide (a = 0)
  | .vl _ _ => false
/-- Within its field (R295). -/
def MIdx.fits : MIdx → Bool
  | .v n => decide (n < 128)
  | .x b => b.fits

/-- Every field of the form within its width. -/
def RDB.fits (x : RDB) : Bool := decide (x.c < 2 ∧ x.d < 128) && x.b.fits
/-- Every field of the form within its width. -/
def RSel.fits (x : RSel) : Bool := decide (x.c < 2 ∧ x.d < 128 ∧ x.a < 128) && x.b.fits
/-- Every field of the form within its width. -/
def RB.fits (x : RB) : Bool := decide (x.c < 2 ∧ x.d < 128 ∧ x.a < 128) && x.b.fits
/-- Every field of the form within its width. -/
def RU.fits (x : RU) : Bool := decide (x.c < 2 ∧ x.d < 128 ∧ x.a < 128)
/-- Every field of the form within its width. -/
def RX.fits (x : RX) : Bool := decide (x.c < 2 ∧ x.d < 128 ∧ x.a < 128) && x.b.fits && x.e.fits
/-- Every field of the form within its width. -/
def RD.fits (x : RD) : Bool := decide (x.c < 2 ∧ x.d < 128)
/-- Every field of the form within its width. -/
def BDisp.fits (x : BDisp) : Bool := decide (x.c < 2 ∧ -1048576 ≤ x.disp ∧ x.disp < 1048576)
/-- Every field of the form within its width. -/
def BReg.fits (x : BReg) : Bool := decide (x.c < 2 ∧ x.a < 128)
/-- Every field of the form within its width. -/
def C0.fits (x : C0) : Bool := decide (x.c < 2)
/-- Every field of the form within its width. -/
def RAB.fits (x : RAB) : Bool := decide (x.c < 2 ∧ x.a < 128) && x.b.fits
/-- Every field of the form within its width. -/
def RCvt.fits (x : RCvt) : Bool := decide (x.c < 2 ∧ x.d < 128 ∧ x.a < 128)
/-- Every field of the form within its width. -/
def MMem.fits (x : MMem) : Bool := decide (x.c < 2 ∧ x.ord < 4 ∧ x.scp < 10 ∧ x.d < 128 ∧ x.addr.a < 128)
/-- Every field of the form within its width. -/
def MPref.fits (x : MPref) : Bool := decide (x.c < 2 ∧ x.addr.a < 128)
/-- Every field of the form within its width. -/
def MAddr.fits (x : MAddr) : Bool := decide (x.c < 2 ∧ x.addr.a < 128)
/-- Every field of the form within its width. -/
def XDesc.fits (x : XDesc) : Bool := decide (x.c < 2) && x.id.fits
/-- Every field of the form within its width. -/
def XRead.fits (x : XRead) : Bool := decide (x.c < 2 ∧ x.d < 128) && x.id.fits
/-- Every field of the form within its width. -/
def XCpy.fits (x : XCpy) : Bool := decide (x.c < 2) && (match x.w with | none => true | some b => b.fits)
/-- Every field of the form within its width. -/
def XCpyV.fits (x : XCpyV) : Bool := decide (x.c < 2 ∧ x.a < 128)
/-- Every field of the form within its width. -/
def XM.fits (x : XM) : Bool := decide (x.c < 2 ∧ x.i < 8 ∧ x.cv < 8) && x.a.fits && x.b.fits
/-- Every field of the form within its width. -/
def XMA.fits (x : XMA) : Bool := decide (x.c < 2 ∧ x.i < 8 ∧ x.cv < 8) && x.a.fits
/-- Every field of the form within its width. -/
def XMV.fits (x : XMV) : Bool := decide (x.c < 2 ∧ x.i < 8 ∧ x.cv < 8 ∧ x.a < 128) && x.b.fits
/-- Every field of the form within its width. -/
def XCV.fits (x : XCV) : Bool := decide (x.c < 2 ∧ x.cv < 8)
/-- Every field of the form within its width. -/
def XN.fits (x : XN) : Bool := decide (x.c < 2)
/-- Every field of the form within its width. -/
def XMQ.fits (x : XMQ) : Bool := decide (x.c < 2 ∧ x.i < 8 ∧ x.cv < 8 ∧ x.q < 2) && x.a.fits && x.b.fits
/-- Every field of the form within its width. -/
def XAcc.fits (x : XAcc) : Bool := decide (x.c < 2 ∧ x.i < 8 ∧ x.a < 128) && x.idx.fits
/-- Every field of the form within its width. -/
def MAtom.fits (x : MAtom) : Bool := decide (x.c < 2 ∧ x.ord < 4 ∧ x.scp < 10 ∧ x.d < 128 ∧ x.addr.a < 128) && x.b.fits
/-- Every field of the form within its width. -/
def MCas.fits (x : MCas) : Bool := decide (x.c < 2 ∧ x.ord < 4 ∧ x.scp < 10 ∧ x.d < 128 ∧ x.addr.a < 128) && x.b.fits && x.n.fits
/-- Every field of the form within its width. -/
def MFence.fits (x : MFence) : Bool := decide (x.c < 2 ∧ x.scp < 10)
/-- Every field of the form within its width. -/
def MFenceX.fits (x : MFenceX) : Bool := decide (x.c < 2 ∧ x.scp < 10)
/-- Every field of the form within its width. -/
def SBar.fits (x : SBar) : Bool := decide (x.c < 2)
/-- Every field of the form within its width. -/
def MMona.fits (x : MMona) : Bool := decide (x.c < 2 ∧ x.scp < 10 ∧ x.addr.a < 128)
/-- Every field of the form within its width. -/
def XSend.fits (x : XSend) : Bool := decide (x.c < 2 ∧ x.a < 128)
/-- Every field of the form within its width. -/
def XTree.fits (x : XTree) : Bool := decide (x.c < 2 ∧ x.i < 8)
/-- Every field of the form within its width. -/
def RB1.fits (x : RB1) : Bool := decide (x.c < 2) && x.b.fits

/-- A well-formed instruction: each field within its width and within what its description allows (R112); a step of the device: each unit it names exists (R3). -/
def Instr.wf : Instr → Bool
  | .mov x => x.fits
  | .movS x => x.fits && decide (x.d < 64)
  | .sel x => x.fits && decide ((x.pe < 96 ∨ x.pe = 127))
  | .vidxr x => x.fits
  | .vidxw x => x.fits
  | .getV x => x.fits && getOkV x.d x.a
  | .getS x => x.fits && getOkS x.d x.a
  | .put x => x.fits && decide ((x.d = 21 ∨ x.d = 29))
  | .iadd x => x.fits
  | .isub x => x.fits
  | .iadds x => x.fits
  | .isubs x => x.fits
  | .ineg x => x.fits
  | .iabs x => x.fits
  | .imin x => x.fits
  | .imax x => x.fits
  | .imul x => x.fits
  | .imulh x => x.fits
  | .imulhu x => x.fits
  | .imad x => x.fits
  | .imadh x => x.fits
  | .and x => x.fits
  | .or x => x.fits
  | .xor x => x.fits
  | .andn x => x.fits
  | .orn x => x.fits
  | .xnor x => x.fits
  | .shl x => x.fits
  | .shr x => x.fits
  | .sar x => x.fits
  | .rol x => x.fits
  | .ror x => x.fits
  | .bfe x => x.fits
  | .bfeu x => x.fits
  | .bfi x => x.fits
  | .popc x => x.fits
  | .clz x => x.fits
  | .brev x => x.fits
  | .prmtB x => x.fits
  | .prmtN x => x.fits
  | .icmpEq x => x.fits && decide (x.d < 96)
  | .icmpNe x => x.fits && decide (x.d < 96)
  | .icmpLt x => x.fits && decide (x.d < 96)
  | .icmpLe x => x.fits && decide (x.d < 96)
  | .icmpGt x => x.fits && decide (x.d < 96)
  | .icmpGe x => x.fits && decide (x.d < 96)
  | .icmpLtu x => x.fits && decide (x.d < 96)
  | .icmpGeu x => x.fits && decide (x.d < 96)
  | .pand x => x.fits && decide (x.d < 96 ∧ (x.a < 96 ∨ x.a = 127)) && x.b.isPred
  | .por x => x.fits && decide (x.d < 96 ∧ (x.a < 96 ∨ x.a = 127)) && x.b.isPred
  | .pxor x => x.fits && decide (x.d < 96 ∧ (x.a < 96 ∨ x.a = 127)) && x.b.isPred
  | .pnot x => x.fits && decide (x.d < 96 ∧ (x.a < 96 ∨ x.a = 127))
  | .pmov x => x.fits && decide (x.d < 96 ∧ (x.a < 96 ∨ x.a = 127))
  | .p2v x => x.fits && decide (x.a < 96)
  | .v2p x => x.fits && decide (x.d < 96)
  | .aff x => x.fits
  | .shape x => x.fits
  | .expand x => x.fits
  | .squeeze x => x.fits
  | .shflIdx x => x.fits
  | .shflUp x => x.fits
  | .shflDn x => x.fits
  | .shflXor x => x.fits
  | .voteAny x => x.fits && decide (x.d < 96 ∧ (x.a < 96 ∨ x.a = 127))
  | .voteAll x => x.fits && decide (x.d < 96 ∧ (x.a < 96 ∨ x.a = 127))
  | .voteBal x => x.fits && decide ((x.a < 96 ∨ x.a = 127))
  | .elect x => x.fits && decide (x.d < 96)
  | .redxAdd x => x.fits
  | .redxMin x => x.fits
  | .redxMax x => x.fits
  | .redxMinu x => x.fits
  | .redxMaxu x => x.fits
  | .redxAnd x => x.fits
  | .redxOr x => x.fits
  | .redxFadd x => x.fits
  | .bra x => x.fits
  | .brxV x => x.fits
  | .brxS x => x.fits && decide (x.a < 64)
  | .call x => x.fits
  | .callxV x => x.fits
  | .callxS x => x.fits && decide (x.a < 64)
  | .ret x => x.fits
  | .recon x => x.fits
  | .yield x => x.fits
  | .exit x => x.fits
  | .join x => x.fits
  | .leave x => x.fits
  | .tinfo x => x.fits
  | .fadd x => x.fits
  | .fsub x => x.fits
  | .fmul x => x.fits
  | .fmin x => x.fits
  | .fmax x => x.fits
  | .ffma x => x.fits
  | .ffms x => x.fits
  | .fnma x => x.fits
  | .fcmpEq x => x.fits && decide (x.d < 96)
  | .fcmpNe x => x.fits && decide (x.d < 96)
  | .fcmpLt x => x.fits && decide (x.d < 96)
  | .fcmpLe x => x.fits && decide (x.d < 96)
  | .fcmpGt x => x.fits && decide (x.d < 96)
  | .fcmpGe x => x.fits && decide (x.d < 96)
  | .fcmpUn x => x.fits && decide (x.d < 96)
  | .fcmpOr x => x.fits && decide (x.d < 96)
  | .frcp x => x.fits
  | .frsq x => x.fits
  | .fsqrt x => x.fits
  | .fexp2 x => x.fits
  | .flog2 x => x.fits
  | .fsin x => x.fits
  | .fcos x => x.fits
  | .ftanh x => x.fits
  | .dadd x => x.fits && decide (x.d % 2 = 0 ∧ x.a % 2 = 0) && x.b.even
  | .dmul x => x.fits && decide (x.d % 2 = 0 ∧ x.a % 2 = 0) && x.b.even
  | .dfma x => x.fits && decide (x.d % 2 = 0 ∧ x.a % 2 = 0) && x.b.even && x.e.even
  | .dmin x => x.fits && decide (x.d % 2 = 0 ∧ x.a % 2 = 0) && x.b.even
  | .dmax x => x.fits && decide (x.d % 2 = 0 ∧ x.a % 2 = 0) && x.b.even
  | .hadd2 x => x.fits
  | .hmul2 x => x.fits
  | .hfma2 x => x.fits
  | .hmin2 x => x.fits
  | .hmax2 x => x.fits
  | .badd2 x => x.fits
  | .bmul2 x => x.fits
  | .bfma2 x => x.fits
  | .bdot2 x => x.fits
  | .cvt x => x.fits && decide (x.sf < 11 ∧ x.df < 11 ∧ x.rnd < 5 ∧ (x.sf = 3 → x.a % 2 = 0) ∧ (x.df = 3 → x.d % 2 = 0))
  | .t8unpk x => x.fits
  | .t6unpk x => x.fits
  | .i4unpk x => x.fits
  | .npk x => x.fits
  | .ldB8 x => x.fits && decide (x.ord < 2 ∧ x.scp < 10 ∧ x.addr.a % 2 = 0)
  | .ldB16 x => x.fits && decide (x.ord < 2 ∧ x.scp < 10 ∧ x.addr.a % 2 = 0)
  | .ldB32 x => x.fits && decide (x.ord < 2 ∧ x.scp < 10 ∧ x.addr.a % 2 = 0)
  | .ldB64 x => x.fits && decide (x.ord < 2 ∧ x.scp < 10 ∧ x.addr.a % 2 = 0 ∧ x.d % 2 = 0)
  | .ldB128 x => x.fits && decide (x.ord < 2 ∧ x.scp < 10 ∧ x.addr.a % 2 = 0 ∧ x.d % 4 = 0)
  | .ldS8 x => x.fits && decide (x.ord < 2 ∧ x.scp < 10 ∧ x.addr.a % 2 = 0)
  | .ldS16 x => x.fits && decide (x.ord < 2 ∧ x.scp < 10 ∧ x.addr.a % 2 = 0)
  | .stB8 x => x.fits && decide ((x.ord = 0 ∨ x.ord = 2) ∧ x.scp < 10 ∧ x.addr.a % 2 = 0)
  | .stB16 x => x.fits && decide ((x.ord = 0 ∨ x.ord = 2) ∧ x.scp < 10 ∧ x.addr.a % 2 = 0)
  | .stB32 x => x.fits && decide ((x.ord = 0 ∨ x.ord = 2) ∧ x.scp < 10 ∧ x.addr.a % 2 = 0)
  | .stB64 x => x.fits && decide ((x.ord = 0 ∨ x.ord = 2) ∧ x.scp < 10 ∧ x.addr.a % 2 = 0 ∧ x.d % 2 = 0)
  | .stB128 x => x.fits && decide ((x.ord = 0 ∨ x.ord = 2) ∧ x.scp < 10 ∧ x.addr.a % 2 = 0 ∧ x.d % 4 = 0)
  | .stS8 x => x.fits && decide ((x.ord = 0 ∨ x.ord = 2) ∧ x.scp < 10 ∧ x.addr.a % 2 = 0)
  | .stS16 x => x.fits && decide ((x.ord = 0 ∨ x.ord = 2) ∧ x.scp < 10 ∧ x.addr.a % 2 = 0)
  | .ldsB8 x => x.fits && decide (x.ord < 2 ∧ x.scp < 3)
  | .ldsB16 x => x.fits && decide (x.ord < 2 ∧ x.scp < 3)
  | .ldsB32 x => x.fits && decide (x.ord < 2 ∧ x.scp < 3)
  | .ldsB64 x => x.fits && decide (x.ord < 2 ∧ x.scp < 3 ∧ x.d % 2 = 0)
  | .ldsB128 x => x.fits && decide (x.ord < 2 ∧ x.scp < 3 ∧ x.d % 4 = 0)
  | .ldsS8 x => x.fits && decide (x.ord < 2 ∧ x.scp < 3)
  | .ldsS16 x => x.fits && decide (x.ord < 2 ∧ x.scp < 3)
  | .stsB8 x => x.fits && decide ((x.ord = 0 ∨ x.ord = 2) ∧ x.scp < 3)
  | .stsB16 x => x.fits && decide ((x.ord = 0 ∨ x.ord = 2) ∧ x.scp < 3)
  | .stsB32 x => x.fits && decide ((x.ord = 0 ∨ x.ord = 2) ∧ x.scp < 3)
  | .stsB64 x => x.fits && decide ((x.ord = 0 ∨ x.ord = 2) ∧ x.scp < 3 ∧ x.d % 2 = 0)
  | .stsB128 x => x.fits && decide ((x.ord = 0 ∨ x.ord = 2) ∧ x.scp < 3 ∧ x.d % 4 = 0)
  | .stsS8 x => x.fits && decide ((x.ord = 0 ∨ x.ord = 2) ∧ x.scp < 3)
  | .stsS16 x => x.fits && decide ((x.ord = 0 ∨ x.ord = 2) ∧ x.scp < 3)
  | .pref x => x.fits && decide (x.level < 2 ∧ x.addr.a % 2 = 0)
  | .clean x => x.fits && decide (x.addr.a % 2 = 0)
  | .inval x => x.fits && decide (x.addr.a % 2 = 0)
  | .tdiscard x => x.fits && x.addr.isIdent
  | .tdesc x => x.fits && decide (x.q < 2 ∧ x.b < 64 ∧ (x.q = 1 → x.b % 2 = 0))
  | .tread x => x.fits && decide (x.idx < 3 ∧ x.q < 2 ∧ (x.idx = 2 → x.d % 2 = 0))
  | .tquery x => x.fits && decide (x.idx < 8 ∧ x.q = 0)
  | .cpy x => x.fits && decide (x.dir < 4 ∧ x.a < 64 ∧ x.a % 2 = 0)
  | .cpyt x => x.fits && decide (x.dir = 0 ∧ x.a < 64)
  | .cpyv x => x.fits && decide (x.a % 2 = 0 ∧ x.b < 64 ∧ x.q < 2)
  | .mma x => x.fits
  | .mmag x => x.fits
  | .mzero x => x.fits
  | .gath x => x.fits && decide (x.i < 4)
  | .tld x => x.fits
  | .mcommit x => x.fits
  | .mwaitb x => x.fits && decide (x.n < 4)
  | .mdrain x => x.fits
  | .mdraina x => x.fits
  | .maccr x => x.fits
  | .maccw x => x.fits
  | .atomAdd x => x.fits && decide (x.scp < 10 ∧ x.addr.a % 2 = 0)
  | .atomMin x => x.fits && decide (x.scp < 10 ∧ x.addr.a % 2 = 0)
  | .atomMax x => x.fits && decide (x.scp < 10 ∧ x.addr.a % 2 = 0)
  | .atomAnd x => x.fits && decide (x.scp < 10 ∧ x.addr.a % 2 = 0)
  | .atomOr x => x.fits && decide (x.scp < 10 ∧ x.addr.a % 2 = 0)
  | .atomXor x => x.fits && decide (x.scp < 10 ∧ x.addr.a % 2 = 0)
  | .atomExch x => x.fits && decide (x.scp < 10 ∧ x.addr.a % 2 = 0)
  | .atomCas x => x.fits && decide (x.scp < 10 ∧ x.addr.a % 2 = 0)
  | .atom64Add x => x.fits && decide (x.scp < 10 ∧ x.addr.a % 2 = 0 ∧ x.d % 2 = 0) && x.b.even
  | .atom64Min x => x.fits && decide (x.scp < 10 ∧ x.addr.a % 2 = 0 ∧ x.d % 2 = 0) && x.b.even
  | .atom64Max x => x.fits && decide (x.scp < 10 ∧ x.addr.a % 2 = 0 ∧ x.d % 2 = 0) && x.b.even
  | .atom64And x => x.fits && decide (x.scp < 10 ∧ x.addr.a % 2 = 0 ∧ x.d % 2 = 0) && x.b.even
  | .atom64Or x => x.fits && decide (x.scp < 10 ∧ x.addr.a % 2 = 0 ∧ x.d % 2 = 0) && x.b.even
  | .atom64Xor x => x.fits && decide (x.scp < 10 ∧ x.addr.a % 2 = 0 ∧ x.d % 2 = 0) && x.b.even
  | .atom64Exch x => x.fits && decide (x.scp < 10 ∧ x.addr.a % 2 = 0 ∧ x.d % 2 = 0) && x.b.even
  | .atom64Cas x => x.fits && decide (x.scp < 10 ∧ x.addr.a % 2 = 0 ∧ x.d % 2 = 0) && x.b.even && x.n.even
  | .atomsAdd x => x.fits && decide (x.scp < 3)
  | .atomsMin x => x.fits && decide (x.scp < 3)
  | .atomsMax x => x.fits && decide (x.scp < 3)
  | .atomsAnd x => x.fits && decide (x.scp < 3)
  | .atomsOr x => x.fits && decide (x.scp < 3)
  | .atomsXor x => x.fits && decide (x.scp < 3)
  | .atomsExch x => x.fits && decide (x.scp < 3)
  | .atomsCas x => x.fits && decide (x.scp < 3)
  | .atomfFadd32 x => x.fits && decide (x.scp < 10 ∧ x.addr.a % 2 = 0)
  | .atomfFaddBf2 x => x.fits && decide (x.scp < 10 ∧ x.addr.a % 2 = 0)
  | .atomfFaddH2 x => x.fits && decide (x.scp < 10 ∧ x.addr.a % 2 = 0)
  | .atomfFmin32 x => x.fits && decide (x.scp < 10 ∧ x.addr.a % 2 = 0)
  | .atomfFmax32 x => x.fits && decide (x.scp < 10 ∧ x.addr.a % 2 = 0)
  | .atomfFadd64 x => x.fits && decide (x.scp < 10 ∧ x.addr.a % 2 = 0 ∧ x.d % 2 = 0) && x.b.even
  | .chunk x => x.fits && decide (x.scp < 10 ∧ x.addr.a % 2 = 0 ∧ x.d % 2 = 0)
  | .redAdd x => x.fits && decide ((x.ord = 0 ∨ x.ord = 2) ∧ x.scp < 10 ∧ x.addr.a % 2 = 0)
  | .redMin x => x.fits && decide ((x.ord = 0 ∨ x.ord = 2) ∧ x.scp < 10 ∧ x.addr.a % 2 = 0)
  | .redMax x => x.fits && decide ((x.ord = 0 ∨ x.ord = 2) ∧ x.scp < 10 ∧ x.addr.a % 2 = 0)
  | .redAnd x => x.fits && decide ((x.ord = 0 ∨ x.ord = 2) ∧ x.scp < 10 ∧ x.addr.a % 2 = 0)
  | .redOr x => x.fits && decide ((x.ord = 0 ∨ x.ord = 2) ∧ x.scp < 10 ∧ x.addr.a % 2 = 0)
  | .redXor x => x.fits && decide ((x.ord = 0 ∨ x.ord = 2) ∧ x.scp < 10 ∧ x.addr.a % 2 = 0)
  | .fence x => x.fits && decide (x.scp < 10)
  | .fenceX x => x.fits && decide (x.scp < 10 ∧ (0 < x.mask ∧ x.mask < 16))
  | .barArrive x => x.fits && decide (x.s < 10)
  | .barWait x => x.fits && decide (x.s < 10)
  | .barSync x => x.fits && decide (x.s < 10)
  | .mona x => x.fits && decide (x.scp < 10 ∧ x.addr.a % 2 = 0)
  | .mwait x => x.fits && decide (x.d < 95 ∧ x.ord < 2 ∧ x.scp < 10 ∧ (x.ord = 0 → x.scp = 0)) && x.addr.isTimeout
  | .waita x => x.fits && decide (x.ord < 2 ∧ x.scp < 3)
  | .send x => x.fits && decide (x.b < 96)
  | .tree x => x.fits && decide (x.a < 64 ∧ x.b < 96)
  | .treew x => x.fits && decide (x.a < 64 ∧ x.b < 96)
  | .beat x => x.fits
  | .beatd x => x.fits && decide (x.a % 2 = 0)
  | .rng x => x.fits && decide (x.d % 4 = 0 ∧ x.a % 4 = 0) && x.b.isReg && x.b.even
  | .time x => x.fits && decide (x.d % 2 = 0)
  | .trap x => x.fits && x.b.isTrapCode
  | .rtt x => x.fits
  | .rttSkip x => x.fits
  | .lmovR x => x.fits
  | .lmovW x => x.fits
  | .brk x => x.fits
  | .resume x => x.fits && decide (x.d < 96 ∧ x.a % 2 = 0)
  | .drop x => x.fits && decide (x.d < 96 ∧ x.a % 2 = 0)
  | .nop x => x.fits
  | .packetIssue g _ => decide (g < 384)
  | .countedComplete _ => true
  | .packetCacheFill _ => true
  | .brandFill _ => true
  | .pcTableEvict g => decide (g < 384)
  | .reconRelease g slot => decide (g < 384 ∧ slot < 32)
  | .teamForm cl => decide (cl < 96)
  | .teamFree _ => true
  | .shapeSpill g slot => decide (g < 384 ∧ slot < 32)
  | .spillReturn g => decide (g < 384)
  | .spillReload g slot => decide (g < 384 ∧ slot < 32)
  | .qtailWrite fn _ _ => decide (fn < 32)
  | .queueService dq => decide (dq < 512)
  | .ringWatchTimeout dq => decide (dq < 512)
  | .headWriteback dq => decide (dq < 512)
  | .headWritebackRetry fn _ => decide (fn < 32)
  | .queueEnable fn _ => decide (fn < 32)
  | .queueDisable fn _ => decide (fn < 32)
  | .queueRestart fn _ => decide (fn < 32)
  | .queueRestartSkip fn _ => decide (fn < 32)
  | .launchStart _ => true
  | .waitwCheck dq => decide (dq < 512)
  | .waitwTimeout dq => decide (dq < 512)
  | .signalStore dq => decide (dq < 512)
  | .graphLoop dq => decide (dq < 512)
  | .graphEnd dq => decide (dq < 512)
  | .replicationReceive _ => true
  | .startReady _ chip _ => decide (chip < 128)
  | .startReleaseReceive _ _ _ => true
  | .startBarrierIssue _ => true
  | .startBarrierTimeout _ => true
  | .startAbortReceive _ _ => true
  | .ctxCreate fn ctx => decide (fn < 32 ∧ ctx < 256)
  | .ctxReload fn ctx => decide (fn < 32 ∧ ctx < 256)
  | .ctxDestroy fn ctx => decide (fn < 32 ∧ ctx < 256)
  | .ctxCmdNone fn ctx => decide (fn < 32 ∧ ctx < 256)
  | .standPlace _ => true
  | .partitionWrite _ _ _ => true
  | .epochBoundary => true
  | .chunkRequest _ => true
  | .clusterLend _ => true
  | .clusterReclaim gcl => decide (gcl < 96)
  | .reclaimHandover gcl => decide (gcl < 96)
  | .intervalBoundary ctx => decide (ctx < 256)
  | .mergeCountReceive chip ctx _ _ => decide (chip < 128 ∧ ctx < 256)
  | .mergeMinimumSend ctx => decide (ctx < 256)
  | .mergeResultReceive ctx _ _ => decide (ctx < 256)
  | .loopStep ctx => decide (ctx < 256)
  | .umpireRound => true
  | .clockStepApply gcl => decide (gcl < 96)
  | .intervalWrite fn ctx _ => decide (fn < 32 ∧ ctx < 256)
  | .loopSave fn ctx => decide (fn < 32 ∧ ctx < 256)
  | .loopClear fn ctx => decide (fn < 32 ∧ ctx < 256)
  | .actuatorLimitWrite fn ctx _ _ => decide (fn < 32 ∧ ctx < 256)
  | .btFieldWrite fn ctx _ _ => decide (fn < 32 ∧ ctx < 256)
  | .storeAck _ => true
  | .landingFaultPark _ => true
  | .holdQueueRoom _ => true
  | .invalidatePage fn => decide (fn < 32)
  | .invalidateTag fn => decide (fn < 32)
  | .invalidateFunction fn => decide (fn < 32)
  | .invalidateDone fn => decide (fn < 32)
  | .copyComplete _ => true
  | .ringAppend _ => true
  | .sendStatus _ _ => true
  | .treeContribution _ => true
  | .matrixOpComplete _ => true
  | .batchComplete _ => true
  | .operandFault _ => true
  | .splitkPartArrive _ => true
  | .watchTrigger g slot lane => decide (g < 384 ∧ slot < 32 ∧ lane < 32)
  | .mwaitTimeout g slot lane => decide (g < 384 ∧ slot < 32 ∧ lane < 32)
  | .hostWrite _ _ => true
  | .hostRead _ _ => true
  | .peerAccess _ => true
  | .trapDelivery g slot => decide (g < 384 ∧ slot < 32)
  | .faultNotice _ => true
  | .ghostDelivery g slot => decide (g < 384 ∧ slot < 32)
  | .kill _ _ => true
  | .switchOut g => decide (g < 384)
  | .sliceEnd g => decide (g < 384)
  | .budgetOverrun g => decide (g < 384)
  | .swapIn g => decide (g < 384)
  | .saveWriteDone g => decide (g < 384)
  | .completionPoint _ => true
  | .replicaDone _ chip _ => decide (chip < 128)
  | .causeEntryClear _ _ => true
  | .vfInterruptInject _ => true
  | .reportRingEnable fn => decide (fn < 32)
  | .partitionReset _ => true
  | .resetDrainEnd _ => true
  | .vfFlr fn => decide (fn < 32)
  | .vfDisable => true
  | .vfEnable _ => true
  | .pfReset _ => true
  | .guestTimeApply _ => true
  | .linkDown _ => true
  | .linkUp _ _ => true
  | .timebaseSync _ => true
  | .checkpointSave _ => true
  | .checkpointRestore _ => true
  | .checkpointDone _ => true
  | .expanderDown port => decide (port < 4)
  | .debugStop ctx => decide (ctx < 256)
  | .debugRun ctx => decide (ctx < 256)
  | .debugStep ctx => decide (ctx < 256)
  | .debugRegRead ctx => decide (ctx < 256)
  | .debugRegWrite ctx _ => decide (ctx < 256)
  | .debugDrainTimeout ctx => decide (ctx < 256)
  | .debugArm _ _ => true
  | .freeze => true
  | .eccCorrected => true
  | .eccUncorrectable _ => true
  | .unitFence _ _ => true
  | .patrolScrub => true
  | .powerLimitCross _ => true
  | .thermalShutdown => true
  | .spdmRequest _ => true
  | .bringUp => true
  | .registerWrite fn _ _ => decide (fn < 32)
  | .expanderUp port _ => decide (port < 4)
  | .thermalLimitReached => true
  | .firmwareUpdateStaged _ => true
  | .ctxCommandDone fn => decide (fn < 32)
  | .loopSaveDone ctx => decide (ctx < 256)
  | .tdiscardDone _ => true
  | .landingsAnswered _ => true

end Sys2Proof
end

