-- ==== Sys2Proof/Decode.lean ====
section
/-! DEFINITION. Reading an instruction from its words and writing it back (05 R109 to R114, 15 R328). -/
namespace Sys2Proof

/-- An operand field of the X format: a number of seven bits, or the literal that 127 calls for (R111). -/
inductive XF where
  | num (n : Nat)
  | lit (w : W)
  deriving DecidableEq, Repr

/-- The fields of one instruction, by format. -/
inductive Raw where
  | r (maj op c d a : Nat) (b : Src)
  | rx (maj op c d a : Nat) (b e : Src) (pe sf df rnd : Nat)
  | m (maj op c ord scp d : Nat) (addr : Addr)
  | ma (maj op c ord scp d : Nat) (addr : Addr) (b n : Src)
  | br (op c disp : Nat)
  | x (maj op c idx cv q : Nat) (a b : XF)
  | s (maj op c imm : Nat)
  deriving DecidableEq, Repr

/-- An X operand as its field. -/
def XSrc.xf : XSrc → XF
  | .s n => .num n
  | .imm n => .num (n + 64)
  | .lit w => .lit w
/-- An X field as an operand (R111). -/
def XF.src : XF → XSrc
  | .num n => if n < 64 then .s n else .imm (n - 64)
  | .lit w => .lit w
/-- An X field as a V register. -/
def XF.asV : XF → Option Nat
  | .num n => some n
  | .lit _ => none

/-- The fields of CPY and CPYT: without .W, Q and B are 0 (R270). -/
def xcpyRaw (op : Nat) (x : XCpy) : Raw :=
  match x.w with
  | none => .x 0x28 op x.c x.dir 0 0 (.num x.a) (.num 0)
  | some b => .x 0x28 op x.c x.dir 0 1 (.num x.a) b.xf
/-- The fields of MACCR and MACCW: Q selects the index operand (R295). -/
def xaccRaw (op : Nat) (x : XAcc) : Raw :=
  match x.idx with
  | .v n => .x 0x2D op x.c x.i 0 1 (.num x.a) (.num n)
  | .x b => .x 0x2D op x.c x.i 0 0 (.num x.a) b.xf

/-- The fields of an instruction; a step of the device has none. -/
def Instr.raw : Instr → Option Raw
  | .mov x => some (.r 1 0 x.c x.d 0 x.b)
  | .movS x => some (.r 1 0 x.c x.d 1 x.b)
  | .sel x => some (.rx 1 1 x.c x.d x.a x.b (.v 0) x.pe 0 0 0)
  | .vidxr x => some (.r 1 2 x.c x.d x.a x.b)
  | .vidxw x => some (.r 1 3 x.c x.d x.a x.b)
  | .getV x => some (.r 1 4 x.c x.d x.a (.v 0))
  | .getS x => some (.r 1 4 x.c x.d x.a (.s 0))
  | .put x => some (.r 1 5 x.c x.d 0 x.b)
  | .iadd x => some (.r 2 0 x.c x.d x.a x.b)
  | .isub x => some (.r 2 1 x.c x.d x.a x.b)
  | .iadds x => some (.r 2 2 x.c x.d x.a x.b)
  | .isubs x => some (.r 2 3 x.c x.d x.a x.b)
  | .ineg x => some (.r 2 4 x.c x.d x.a (.v 0))
  | .iabs x => some (.r 2 5 x.c x.d x.a (.v 0))
  | .imin x => some (.r 2 6 x.c x.d x.a x.b)
  | .imax x => some (.r 2 7 x.c x.d x.a x.b)
  | .imul x => some (.r 3 0 x.c x.d x.a x.b)
  | .imulh x => some (.r 3 1 x.c x.d x.a x.b)
  | .imulhu x => some (.r 3 2 x.c x.d x.a x.b)
  | .imad x => some (.rx 3 3 x.c x.d x.a x.b x.e 0 0 0 0)
  | .imadh x => some (.rx 3 4 x.c x.d x.a x.b x.e 0 0 0 0)
  | .and x => some (.r 4 0 x.c x.d x.a x.b)
  | .or x => some (.r 4 1 x.c x.d x.a x.b)
  | .xor x => some (.r 4 2 x.c x.d x.a x.b)
  | .andn x => some (.r 4 3 x.c x.d x.a x.b)
  | .orn x => some (.r 4 4 x.c x.d x.a x.b)
  | .xnor x => some (.r 4 5 x.c x.d x.a x.b)
  | .shl x => some (.r 5 0 x.c x.d x.a x.b)
  | .shr x => some (.r 5 1 x.c x.d x.a x.b)
  | .sar x => some (.r 5 2 x.c x.d x.a x.b)
  | .rol x => some (.r 5 3 x.c x.d x.a x.b)
  | .ror x => some (.r 5 4 x.c x.d x.a x.b)
  | .bfe x => some (.rx 6 0 x.c x.d x.a x.b x.e 0 0 0 0)
  | .bfeu x => some (.rx 6 1 x.c x.d x.a x.b x.e 0 0 0 0)
  | .bfi x => some (.rx 6 2 x.c x.d x.a x.b x.e 0 0 0 0)
  | .popc x => some (.r 6 3 x.c x.d x.a (.v 0))
  | .clz x => some (.r 6 4 x.c x.d x.a (.v 0))
  | .brev x => some (.r 6 5 x.c x.d x.a (.v 0))
  | .prmtB x => some (.rx 6 6 x.c x.d x.a x.b x.e 0 0 0 0)
  | .prmtN x => some (.rx 6 7 x.c x.d x.a x.b x.e 0 0 0 0)
  | .icmpEq x => some (.r 7 0 x.c x.d x.a x.b)
  | .icmpNe x => some (.r 7 1 x.c x.d x.a x.b)
  | .icmpLt x => some (.r 7 2 x.c x.d x.a x.b)
  | .icmpLe x => some (.r 7 3 x.c x.d x.a x.b)
  | .icmpGt x => some (.r 7 4 x.c x.d x.a x.b)
  | .icmpGe x => some (.r 7 5 x.c x.d x.a x.b)
  | .icmpLtu x => some (.r 7 6 x.c x.d x.a x.b)
  | .icmpGeu x => some (.r 7 7 x.c x.d x.a x.b)
  | .pand x => some (.r 8 0 x.c x.d x.a x.b)
  | .por x => some (.r 8 1 x.c x.d x.a x.b)
  | .pxor x => some (.r 8 2 x.c x.d x.a x.b)
  | .pnot x => some (.r 8 3 x.c x.d x.a (.v 0))
  | .pmov x => some (.r 8 4 x.c x.d x.a (.v 0))
  | .p2v x => some (.r 8 5 x.c x.d x.a x.b)
  | .v2p x => some (.r 8 6 x.c x.d x.a x.b)
  | .aff x => some (.r 9 0 x.c x.d x.a x.b)
  | .shape x => some (.r 9 1 x.c x.d x.a (.v 0))
  | .expand x => some (.r 9 2 x.c x.d x.a (.v 0))
  | .squeeze x => some (.r 9 3 x.c x.d x.a (.v 0))
  | .shflIdx x => some (.r 12 0 x.c x.d x.a x.b)
  | .shflUp x => some (.r 12 1 x.c x.d x.a x.b)
  | .shflDn x => some (.r 12 2 x.c x.d x.a x.b)
  | .shflXor x => some (.r 12 3 x.c x.d x.a x.b)
  | .voteAny x => some (.r 12 4 x.c x.d x.a (.v 0))
  | .voteAll x => some (.r 12 5 x.c x.d x.a (.v 0))
  | .voteBal x => some (.r 12 6 x.c x.d x.a (.v 0))
  | .elect x => some (.r 12 7 x.c x.d 0 (.v 0))
  | .redxAdd x => some (.r 13 0 x.c x.d x.a (.v 0))
  | .redxMin x => some (.r 13 1 x.c x.d x.a (.v 0))
  | .redxMax x => some (.r 13 2 x.c x.d x.a (.v 0))
  | .redxMinu x => some (.r 13 3 x.c x.d x.a (.v 0))
  | .redxMaxu x => some (.r 13 4 x.c x.d x.a (.v 0))
  | .redxAnd x => some (.r 13 5 x.c x.d x.a (.v 0))
  | .redxOr x => some (.r 13 6 x.c x.d x.a (.v 0))
  | .redxFadd x => some (.r 13 7 x.c x.d x.a (.v 0))
  | .bra x => some (.br 0 x.c (toPat x.disp 21))
  | .brxV x => some (.br 1 x.c (x.a + 0))
  | .brxS x => some (.br 1 x.c (x.a + 128))
  | .call x => some (.br 2 x.c (toPat x.disp 21))
  | .callxV x => some (.br 3 x.c (x.a + 0))
  | .callxS x => some (.br 3 x.c (x.a + 128))
  | .ret x => some (.br 4 x.c 0)
  | .recon x => some (.br 5 x.c 0)
  | .yield x => some (.br 6 x.c 0)
  | .exit x => some (.br 7 x.c 0)
  | .join x => some (.r 29 0 x.c 0 x.a x.b)
  | .leave x => some (.r 29 1 x.c 0 0 (.v 0))
  | .tinfo x => some (.r 29 2 x.c x.d 0 x.b)
  | .fadd x => some (.r 16 0 x.c x.d x.a x.b)
  | .fsub x => some (.r 16 1 x.c x.d x.a x.b)
  | .fmul x => some (.r 16 2 x.c x.d x.a x.b)
  | .fmin x => some (.r 16 3 x.c x.d x.a x.b)
  | .fmax x => some (.r 16 4 x.c x.d x.a x.b)
  | .ffma x => some (.rx 17 0 x.c x.d x.a x.b x.e 0 0 0 0)
  | .ffms x => some (.rx 17 1 x.c x.d x.a x.b x.e 0 0 0 0)
  | .fnma x => some (.rx 17 2 x.c x.d x.a x.b x.e 0 0 0 0)
  | .fcmpEq x => some (.r 18 0 x.c x.d x.a x.b)
  | .fcmpNe x => some (.r 18 1 x.c x.d x.a x.b)
  | .fcmpLt x => some (.r 18 2 x.c x.d x.a x.b)
  | .fcmpLe x => some (.r 18 3 x.c x.d x.a x.b)
  | .fcmpGt x => some (.r 18 4 x.c x.d x.a x.b)
  | .fcmpGe x => some (.r 18 5 x.c x.d x.a x.b)
  | .fcmpUn x => some (.r 18 6 x.c x.d x.a x.b)
  | .fcmpOr x => some (.r 18 7 x.c x.d x.a x.b)
  | .frcp x => some (.r 19 0 x.c x.d x.a (.v 0))
  | .frsq x => some (.r 19 1 x.c x.d x.a (.v 0))
  | .fsqrt x => some (.r 19 2 x.c x.d x.a (.v 0))
  | .fexp2 x => some (.r 19 3 x.c x.d x.a (.v 0))
  | .flog2 x => some (.r 19 4 x.c x.d x.a (.v 0))
  | .fsin x => some (.r 19 5 x.c x.d x.a (.v 0))
  | .fcos x => some (.r 19 6 x.c x.d x.a (.v 0))
  | .ftanh x => some (.r 19 7 x.c x.d x.a (.v 0))
  | .dadd x => some (.r 20 0 x.c x.d x.a x.b)
  | .dmul x => some (.r 20 1 x.c x.d x.a x.b)
  | .dfma x => some (.rx 20 2 x.c x.d x.a x.b x.e 0 0 0 0)
  | .dmin x => some (.r 20 3 x.c x.d x.a x.b)
  | .dmax x => some (.r 20 4 x.c x.d x.a x.b)
  | .hadd2 x => some (.r 21 0 x.c x.d x.a x.b)
  | .hmul2 x => some (.r 21 1 x.c x.d x.a x.b)
  | .hfma2 x => some (.rx 21 2 x.c x.d x.a x.b x.e 0 0 0 0)
  | .hmin2 x => some (.r 21 3 x.c x.d x.a x.b)
  | .hmax2 x => some (.r 21 4 x.c x.d x.a x.b)
  | .badd2 x => some (.r 22 0 x.c x.d x.a x.b)
  | .bmul2 x => some (.r 22 1 x.c x.d x.a x.b)
  | .bfma2 x => some (.rx 22 2 x.c x.d x.a x.b x.e 0 0 0 0)
  | .bdot2 x => some (.r 22 3 x.c x.d x.a x.b)
  | .cvt x => some (.rx 23 0 x.c x.d x.a (.v 0) (.v 0) 0 x.sf x.df x.rnd)
  | .t8unpk x => some (.r 24 0 x.c x.d x.a x.b)
  | .t6unpk x => some (.r 24 1 x.c x.d x.a x.b)
  | .i4unpk x => some (.r 24 2 x.c x.d x.a x.b)
  | .npk x => some (.r 24 3 x.c x.d x.a x.b)
  | .ldB8 x => some (.m 32 0 x.c x.ord x.scp x.d x.addr)
  | .ldB16 x => some (.m 32 1 x.c x.ord x.scp x.d x.addr)
  | .ldB32 x => some (.m 32 2 x.c x.ord x.scp x.d x.addr)
  | .ldB64 x => some (.m 32 3 x.c x.ord x.scp x.d x.addr)
  | .ldB128 x => some (.m 32 4 x.c x.ord x.scp x.d x.addr)
  | .ldS8 x => some (.m 32 5 x.c x.ord x.scp x.d x.addr)
  | .ldS16 x => some (.m 32 6 x.c x.ord x.scp x.d x.addr)
  | .stB8 x => some (.m 33 0 x.c x.ord x.scp x.d x.addr)
  | .stB16 x => some (.m 33 1 x.c x.ord x.scp x.d x.addr)
  | .stB32 x => some (.m 33 2 x.c x.ord x.scp x.d x.addr)
  | .stB64 x => some (.m 33 3 x.c x.ord x.scp x.d x.addr)
  | .stB128 x => some (.m 33 4 x.c x.ord x.scp x.d x.addr)
  | .stS8 x => some (.m 33 5 x.c x.ord x.scp x.d x.addr)
  | .stS16 x => some (.m 33 6 x.c x.ord x.scp x.d x.addr)
  | .ldsB8 x => some (.m 34 0 x.c x.ord x.scp x.d x.addr)
  | .ldsB16 x => some (.m 34 1 x.c x.ord x.scp x.d x.addr)
  | .ldsB32 x => some (.m 34 2 x.c x.ord x.scp x.d x.addr)
  | .ldsB64 x => some (.m 34 3 x.c x.ord x.scp x.d x.addr)
  | .ldsB128 x => some (.m 34 4 x.c x.ord x.scp x.d x.addr)
  | .ldsS8 x => some (.m 34 5 x.c x.ord x.scp x.d x.addr)
  | .ldsS16 x => some (.m 34 6 x.c x.ord x.scp x.d x.addr)
  | .stsB8 x => some (.m 35 0 x.c x.ord x.scp x.d x.addr)
  | .stsB16 x => some (.m 35 1 x.c x.ord x.scp x.d x.addr)
  | .stsB32 x => some (.m 35 2 x.c x.ord x.scp x.d x.addr)
  | .stsB64 x => some (.m 35 3 x.c x.ord x.scp x.d x.addr)
  | .stsB128 x => some (.m 35 4 x.c x.ord x.scp x.d x.addr)
  | .stsS8 x => some (.m 35 5 x.c x.ord x.scp x.d x.addr)
  | .stsS16 x => some (.m 35 6 x.c x.ord x.scp x.d x.addr)
  | .pref x => some (.m 36 0 x.c 0 0 x.level x.addr)
  | .clean x => some (.m 36 1 x.c 0 0 0 x.addr)
  | .inval x => some (.m 36 2 x.c 0 0 0 x.addr)
  | .tdiscard x => some (.m 36 3 x.c 0 0 0 x.addr)
  | .tdesc x => some (.x 37 0 x.c 0 0 x.q x.id.xf (.num x.b))
  | .tread x => some (.x 37 1 x.c x.idx 0 x.q (.num x.d) x.id.xf)
  | .tquery x => some (.x 37 2 x.c x.idx 0 x.q (.num x.d) x.id.xf)
  | .cpy x => some (xcpyRaw 0 x)
  | .cpyt x => some (xcpyRaw 1 x)
  | .cpyv x => some (.x 40 2 x.c 0 0 x.q (.num x.a) (.num x.b))
  | .mma x => some (.x 44 0 x.c x.i x.cv 0 x.a.xf x.b.xf)
  | .mmag x => some (.x 44 1 x.c x.i x.cv 0 x.a.xf x.b.xf)
  | .mzero x => some (.x 44 2 x.c x.i x.cv 0 x.a.xf (.num 0))
  | .gath x => some (.x 45 0 x.c x.i x.cv 0 (.num x.a) x.b.xf)
  | .tld x => some (.x 45 1 x.c x.i x.cv 0 x.a.xf x.b.xf)
  | .mcommit x => some (.x 45 2 x.c 0 x.cv 0 (.num 0) (.num 0))
  | .mwaitb x => some (.x 45 3 x.c x.n 0 0 (.num 0) (.num 0))
  | .mdrain x => some (.x 45 4 x.c x.i x.cv 0 x.a.xf x.b.xf)
  | .mdraina x => some (.x 45 5 x.c x.i x.cv x.q x.a.xf x.b.xf)
  | .maccr x => some (xaccRaw 6 x)
  | .maccw x => some (xaccRaw 7 x)
  | .atomAdd x => some (.ma 48 0 x.c x.ord x.scp x.d x.addr x.b (.v 0))
  | .atomMin x => some (.ma 48 1 x.c x.ord x.scp x.d x.addr x.b (.v 0))
  | .atomMax x => some (.ma 48 2 x.c x.ord x.scp x.d x.addr x.b (.v 0))
  | .atomAnd x => some (.ma 48 3 x.c x.ord x.scp x.d x.addr x.b (.v 0))
  | .atomOr x => some (.ma 48 4 x.c x.ord x.scp x.d x.addr x.b (.v 0))
  | .atomXor x => some (.ma 48 5 x.c x.ord x.scp x.d x.addr x.b (.v 0))
  | .atomExch x => some (.ma 48 6 x.c x.ord x.scp x.d x.addr x.b (.v 0))
  | .atomCas x => some (.ma 48 7 x.c x.ord x.scp x.d x.addr x.b x.n)
  | .atom64Add x => some (.ma 49 0 x.c x.ord x.scp x.d x.addr x.b (.v 0))
  | .atom64Min x => some (.ma 49 1 x.c x.ord x.scp x.d x.addr x.b (.v 0))
  | .atom64Max x => some (.ma 49 2 x.c x.ord x.scp x.d x.addr x.b (.v 0))
  | .atom64And x => some (.ma 49 3 x.c x.ord x.scp x.d x.addr x.b (.v 0))
  | .atom64Or x => some (.ma 49 4 x.c x.ord x.scp x.d x.addr x.b (.v 0))
  | .atom64Xor x => some (.ma 49 5 x.c x.ord x.scp x.d x.addr x.b (.v 0))
  | .atom64Exch x => some (.ma 49 6 x.c x.ord x.scp x.d x.addr x.b (.v 0))
  | .atom64Cas x => some (.ma 49 7 x.c x.ord x.scp x.d x.addr x.b x.n)
  | .atomsAdd x => some (.ma 50 0 x.c x.ord x.scp x.d x.addr x.b (.v 0))
  | .atomsMin x => some (.ma 50 1 x.c x.ord x.scp x.d x.addr x.b (.v 0))
  | .atomsMax x => some (.ma 50 2 x.c x.ord x.scp x.d x.addr x.b (.v 0))
  | .atomsAnd x => some (.ma 50 3 x.c x.ord x.scp x.d x.addr x.b (.v 0))
  | .atomsOr x => some (.ma 50 4 x.c x.ord x.scp x.d x.addr x.b (.v 0))
  | .atomsXor x => some (.ma 50 5 x.c x.ord x.scp x.d x.addr x.b (.v 0))
  | .atomsExch x => some (.ma 50 6 x.c x.ord x.scp x.d x.addr x.b (.v 0))
  | .atomsCas x => some (.ma 50 7 x.c x.ord x.scp x.d x.addr x.b x.n)
  | .atomfFadd32 x => some (.ma 51 0 x.c x.ord x.scp x.d x.addr x.b (.v 0))
  | .atomfFaddBf2 x => some (.ma 51 1 x.c x.ord x.scp x.d x.addr x.b (.v 0))
  | .atomfFaddH2 x => some (.ma 51 2 x.c x.ord x.scp x.d x.addr x.b (.v 0))
  | .atomfFmin32 x => some (.ma 51 3 x.c x.ord x.scp x.d x.addr x.b (.v 0))
  | .atomfFmax32 x => some (.ma 51 4 x.c x.ord x.scp x.d x.addr x.b (.v 0))
  | .atomfFadd64 x => some (.ma 51 5 x.c x.ord x.scp x.d x.addr x.b (.v 0))
  | .chunk x => some (.m 52 0 x.c x.ord x.scp x.d x.addr)
  | .redAdd x => some (.m 53 0 x.c x.ord x.scp x.d x.addr)
  | .redMin x => some (.m 53 1 x.c x.ord x.scp x.d x.addr)
  | .redMax x => some (.m 53 2 x.c x.ord x.scp x.d x.addr)
  | .redAnd x => some (.m 53 3 x.c x.ord x.scp x.d x.addr)
  | .redOr x => some (.m 53 4 x.c x.ord x.scp x.d x.addr)
  | .redXor x => some (.m 53 5 x.c x.ord x.scp x.d x.addr)
  | .fence x => some (.m 57 0 x.c 0 x.scp 0 (.v 0))
  | .fenceX x => some (.m 57 1 x.c 0 x.scp x.mask (.v 0))
  | .barArrive x => some (.s 56 0 x.c x.s)
  | .barWait x => some (.s 56 1 x.c x.s)
  | .barSync x => some (.s 56 2 x.c x.s)
  | .mona x => some (.m 58 0 x.c 0 x.scp 0 x.addr)
  | .mwait x => some (.m 58 1 x.c x.ord x.scp x.d x.addr)
  | .waita x => some (.m 58 2 x.c x.ord x.scp x.d x.addr)
  | .send x => some (.x 59 0 x.c 0 0 0 (.num x.a) (.num x.b))
  | .tree x => some (.x 59 1 x.c x.i 0 0 (.num x.a) (.num x.b))
  | .treew x => some (.x 59 2 x.c x.i 0 0 (.num x.a) (.num x.b))
  | .beat x => some (.r 60 0 x.c 0 0 x.b)
  | .beatd x => some (.r 60 1 x.c 0 x.a x.b)
  | .rng x => some (.r 60 2 x.c x.d x.a x.b)
  | .time x => some (.r 60 3 x.c x.d 0 x.b)
  | .trap x => some (.r 61 0 x.c 0 0 x.b)
  | .rtt x => some (.r 61 1 x.c 0 0 (.imm 0))
  | .rttSkip x => some (.r 61 1 x.c 0 0 (.imm 1))
  | .lmovR x => some (.r 61 2 x.c x.d x.a x.b)
  | .lmovW x => some (.r 61 3 x.c x.d x.a x.b)
  | .brk x => some (.r 61 4 x.c 0 0 x.b)
  | .resume x => some (.r 61 5 x.c x.d x.a (.v 0))
  | .drop x => some (.r 61 6 x.c x.d x.a (.v 0))
  | .nop x => some (.s 62 0 x.c 0)
  | .packetIssue _ _ => none
  | .countedComplete _ => none
  | .packetCacheFill _ => none
  | .brandFill _ => none
  | .pcTableEvict _ => none
  | .reconRelease _ _ => none
  | .teamForm _ => none
  | .teamFree _ => none
  | .shapeSpill _ _ => none
  | .spillReturn _ => none
  | .spillReload _ _ => none
  | .qtailWrite _ _ _ => none
  | .queueService _ => none
  | .ringWatchTimeout _ => none
  | .headWriteback _ => none
  | .headWritebackRetry _ _ => none
  | .queueEnable _ _ => none
  | .queueDisable _ _ => none
  | .queueRestart _ _ => none
  | .queueRestartSkip _ _ => none
  | .launchStart _ => none
  | .waitwCheck _ => none
  | .waitwTimeout _ => none
  | .signalStore _ => none
  | .graphLoop _ => none
  | .graphEnd _ => none
  | .replicationReceive _ => none
  | .startReady _ _ _ => none
  | .startReleaseReceive _ _ _ => none
  | .startBarrierIssue _ => none
  | .startBarrierTimeout _ => none
  | .startAbortReceive _ _ => none
  | .ctxCreate _ _ => none
  | .ctxReload _ _ => none
  | .ctxDestroy _ _ => none
  | .ctxCmdNone _ _ => none
  | .standPlace _ => none
  | .partitionWrite _ _ _ => none
  | .epochBoundary => none
  | .chunkRequest _ => none
  | .clusterLend _ => none
  | .clusterReclaim _ => none
  | .reclaimHandover _ => none
  | .intervalBoundary _ => none
  | .mergeCountReceive _ _ _ _ => none
  | .mergeMinimumSend _ => none
  | .mergeResultReceive _ _ _ => none
  | .loopStep _ => none
  | .umpireRound => none
  | .clockStepApply _ => none
  | .intervalWrite _ _ _ => none
  | .loopSave _ _ => none
  | .loopClear _ _ => none
  | .actuatorLimitWrite _ _ _ _ => none
  | .btFieldWrite _ _ _ _ => none
  | .storeAck _ => none
  | .landingFaultPark _ => none
  | .holdQueueRoom _ => none
  | .invalidatePage _ => none
  | .invalidateTag _ => none
  | .invalidateFunction _ => none
  | .invalidateDone _ => none
  | .copyComplete _ => none
  | .ringAppend _ => none
  | .sendStatus _ _ => none
  | .treeContribution _ => none
  | .matrixOpComplete _ => none
  | .batchComplete _ => none
  | .operandFault _ => none
  | .splitkPartArrive _ => none
  | .watchTrigger _ _ _ => none
  | .mwaitTimeout _ _ _ => none
  | .hostWrite _ _ => none
  | .hostRead _ _ => none
  | .peerAccess _ => none
  | .trapDelivery _ _ => none
  | .faultNotice _ => none
  | .ghostDelivery _ _ => none
  | .kill _ _ => none
  | .switchOut _ => none
  | .sliceEnd _ => none
  | .budgetOverrun _ => none
  | .swapIn _ => none
  | .saveWriteDone _ => none
  | .completionPoint _ => none
  | .replicaDone _ _ _ => none
  | .causeEntryClear _ _ => none
  | .vfInterruptInject _ => none
  | .reportRingEnable _ => none
  | .partitionReset _ => none
  | .resetDrainEnd _ => none
  | .vfFlr _ => none
  | .vfDisable => none
  | .vfEnable _ => none
  | .pfReset _ => none
  | .guestTimeApply _ => none
  | .linkDown _ => none
  | .linkUp _ _ => none
  | .timebaseSync _ => none
  | .checkpointSave _ => none
  | .checkpointRestore _ => none
  | .checkpointDone _ => none
  | .expanderDown _ => none
  | .debugStop _ => none
  | .debugRun _ => none
  | .debugStep _ => none
  | .debugRegRead _ => none
  | .debugRegWrite _ _ => none
  | .debugDrainTimeout _ => none
  | .debugArm _ _ => none
  | .freeze => none
  | .eccCorrected => none
  | .eccUncorrectable _ => none
  | .unitFence _ _ => none
  | .patrolScrub => none
  | .powerLimitCross _ => none
  | .thermalShutdown => none
  | .spdmRequest _ => none
  | .bringUp => none
  | .registerWrite _ _ _ => none
  | .expanderUp _ _ => none
  | .thermalLimitReached => none
  | .firmwareUpdateStaged _ => none
  | .ctxCommandDone _ => none
  | .loopSaveDone _ => none
  | .tdiscardDone _ => none
  | .landingsAnswered _ => none

/-- The R-format instructions without an extension word (R114); K·B and A fields that a form fixes are compared. -/
def ofR (k c d a : Nat) (b : Src) : Option Instr :=
  match k with
  | 8 => if a = 0 then some (.mov ⟨c, d, b⟩) else if a = 1 then some (.movS ⟨c, d, b⟩) else none
  | 10 => some (.vidxr ⟨c, d, a, b⟩)
  | 11 => some (.vidxw ⟨c, d, a, b⟩)
  | 12 => if b = .v 0 then some (.getV ⟨c, d, a⟩) else if b = .s 0 then some (.getS ⟨c, d, a⟩) else none
  | 13 => if a = 0 then some (.put ⟨c, d, b⟩) else none
  | 16 => some (.iadd ⟨c, d, a, b⟩)
  | 17 => some (.isub ⟨c, d, a, b⟩)
  | 18 => some (.iadds ⟨c, d, a, b⟩)
  | 19 => some (.isubs ⟨c, d, a, b⟩)
  | 20 => if b = .v 0 then some (.ineg ⟨c, d, a⟩) else none
  | 21 => if b = .v 0 then some (.iabs ⟨c, d, a⟩) else none
  | 22 => some (.imin ⟨c, d, a, b⟩)
  | 23 => some (.imax ⟨c, d, a, b⟩)
  | 24 => some (.imul ⟨c, d, a, b⟩)
  | 25 => some (.imulh ⟨c, d, a, b⟩)
  | 26 => some (.imulhu ⟨c, d, a, b⟩)
  | 32 => some (.and ⟨c, d, a, b⟩)
  | 33 => some (.or ⟨c, d, a, b⟩)
  | 34 => some (.xor ⟨c, d, a, b⟩)
  | 35 => some (.andn ⟨c, d, a, b⟩)
  | 36 => some (.orn ⟨c, d, a, b⟩)
  | 37 => some (.xnor ⟨c, d, a, b⟩)
  | 40 => some (.shl ⟨c, d, a, b⟩)
  | 41 => some (.shr ⟨c, d, a, b⟩)
  | 42 => some (.sar ⟨c, d, a, b⟩)
  | 43 => some (.rol ⟨c, d, a, b⟩)
  | 44 => some (.ror ⟨c, d, a, b⟩)
  | 51 => if b = .v 0 then some (.popc ⟨c, d, a⟩) else none
  | 52 => if b = .v 0 then some (.clz ⟨c, d, a⟩) else none
  | 53 => if b = .v 0 then some (.brev ⟨c, d, a⟩) else none
  | 56 => some (.icmpEq ⟨c, d, a, b⟩)
  | 57 => some (.icmpNe ⟨c, d, a, b⟩)
  | 58 => some (.icmpLt ⟨c, d, a, b⟩)
  | 59 => some (.icmpLe ⟨c, d, a, b⟩)
  | 60 => some (.icmpGt ⟨c, d, a, b⟩)
  | 61 => some (.icmpGe ⟨c, d, a, b⟩)
  | 62 => some (.icmpLtu ⟨c, d, a, b⟩)
  | 63 => some (.icmpGeu ⟨c, d, a, b⟩)
  | 64 => some (.pand ⟨c, d, a, b⟩)
  | 65 => some (.por ⟨c, d, a, b⟩)
  | 66 => some (.pxor ⟨c, d, a, b⟩)
  | 67 => if b = .v 0 then some (.pnot ⟨c, d, a⟩) else none
  | 68 => if b = .v 0 then some (.pmov ⟨c, d, a⟩) else none
  | 69 => some (.p2v ⟨c, d, a, b⟩)
  | 70 => some (.v2p ⟨c, d, a, b⟩)
  | 72 => some (.aff ⟨c, d, a, b⟩)
  | 73 => if b = .v 0 then some (.shape ⟨c, d, a⟩) else none
  | 74 => if b = .v 0 then some (.expand ⟨c, d, a⟩) else none
  | 75 => if b = .v 0 then some (.squeeze ⟨c, d, a⟩) else none
  | 96 => some (.shflIdx ⟨c, d, a, b⟩)
  | 97 => some (.shflUp ⟨c, d, a, b⟩)
  | 98 => some (.shflDn ⟨c, d, a, b⟩)
  | 99 => some (.shflXor ⟨c, d, a, b⟩)
  | 100 => if b = .v 0 then some (.voteAny ⟨c, d, a⟩) else none
  | 101 => if b = .v 0 then some (.voteAll ⟨c, d, a⟩) else none
  | 102 => if b = .v 0 then some (.voteBal ⟨c, d, a⟩) else none
  | 103 => if a = 0 ∧ b = .v 0 then some (.elect ⟨c, d⟩) else none
  | 104 => if b = .v 0 then some (.redxAdd ⟨c, d, a⟩) else none
  | 105 => if b = .v 0 then some (.redxMin ⟨c, d, a⟩) else none
  | 106 => if b = .v 0 then some (.redxMax ⟨c, d, a⟩) else none
  | 107 => if b = .v 0 then some (.redxMinu ⟨c, d, a⟩) else none
  | 108 => if b = .v 0 then some (.redxMaxu ⟨c, d, a⟩) else none
  | 109 => if b = .v 0 then some (.redxAnd ⟨c, d, a⟩) else none
  | 110 => if b = .v 0 then some (.redxOr ⟨c, d, a⟩) else none
  | 111 => if b = .v 0 then some (.redxFadd ⟨c, d, a⟩) else none
  | 232 => if d = 0 then some (.join ⟨c, a, b⟩) else none
  | 233 => if d = 0 ∧ a = 0 ∧ b = .v 0 then some (.leave ⟨c⟩) else none
  | 234 => if a = 0 then some (.tinfo ⟨c, d, b⟩) else none
  | 128 => some (.fadd ⟨c, d, a, b⟩)
  | 129 => some (.fsub ⟨c, d, a, b⟩)
  | 130 => some (.fmul ⟨c, d, a, b⟩)
  | 131 => some (.fmin ⟨c, d, a, b⟩)
  | 132 => some (.fmax ⟨c, d, a, b⟩)
  | 144 => some (.fcmpEq ⟨c, d, a, b⟩)
  | 145 => some (.fcmpNe ⟨c, d, a, b⟩)
  | 146 => some (.fcmpLt ⟨c, d, a, b⟩)
  | 147 => some (.fcmpLe ⟨c, d, a, b⟩)
  | 148 => some (.fcmpGt ⟨c, d, a, b⟩)
  | 149 => some (.fcmpGe ⟨c, d, a, b⟩)
  | 150 => some (.fcmpUn ⟨c, d, a, b⟩)
  | 151 => some (.fcmpOr ⟨c, d, a, b⟩)
  | 152 => if b = .v 0 then some (.frcp ⟨c, d, a⟩) else none
  | 153 => if b = .v 0 then some (.frsq ⟨c, d, a⟩) else none
  | 154 => if b = .v 0 then some (.fsqrt ⟨c, d, a⟩) else none
  | 155 => if b = .v 0 then some (.fexp2 ⟨c, d, a⟩) else none
  | 156 => if b = .v 0 then some (.flog2 ⟨c, d, a⟩) else none
  | 157 => if b = .v 0 then some (.fsin ⟨c, d, a⟩) else none
  | 158 => if b = .v 0 then some (.fcos ⟨c, d, a⟩) else none
  | 159 => if b = .v 0 then some (.ftanh ⟨c, d, a⟩) else none
  | 160 => some (.dadd ⟨c, d, a, b⟩)
  | 161 => some (.dmul ⟨c, d, a, b⟩)
  | 163 => some (.dmin ⟨c, d, a, b⟩)
  | 164 => some (.dmax ⟨c, d, a, b⟩)
  | 168 => some (.hadd2 ⟨c, d, a, b⟩)
  | 169 => some (.hmul2 ⟨c, d, a, b⟩)
  | 171 => some (.hmin2 ⟨c, d, a, b⟩)
  | 172 => some (.hmax2 ⟨c, d, a, b⟩)
  | 176 => some (.badd2 ⟨c, d, a, b⟩)
  | 177 => some (.bmul2 ⟨c, d, a, b⟩)
  | 179 => some (.bdot2 ⟨c, d, a, b⟩)
  | 192 => some (.t8unpk ⟨c, d, a, b⟩)
  | 193 => some (.t6unpk ⟨c, d, a, b⟩)
  | 194 => some (.i4unpk ⟨c, d, a, b⟩)
  | 195 => some (.npk ⟨c, d, a, b⟩)
  | 480 => if d = 0 ∧ a = 0 then some (.beat ⟨c, b⟩) else none
  | 481 => if d = 0 then some (.beatd ⟨c, a, b⟩) else none
  | 482 => some (.rng ⟨c, d, a, b⟩)
  | 483 => if a = 0 then some (.time ⟨c, d, b⟩) else none
  | 488 => if d = 0 ∧ a = 0 then some (.trap ⟨c, b⟩) else none
  | 489 => if d = 0 ∧ a = 0 ∧ b = .imm 0 then some (.rtt ⟨c⟩) else if d = 0 ∧ a = 0 ∧ b = .imm 1 then some (.rttSkip ⟨c⟩) else none
  | 490 => some (.lmovR ⟨c, d, a, b⟩)
  | 491 => some (.lmovW ⟨c, d, a, b⟩)
  | 492 => if d = 0 ∧ a = 0 then some (.brk ⟨c, b⟩) else none
  | 493 => if b = .v 0 then some (.resume ⟨c, d, a⟩) else none
  | 494 => if b = .v 0 then some (.drop ⟨c, d, a⟩) else none
  | _ => none

/-- The R-format instructions with an extension word (R110); a field an instruction does not use must be 0. -/
def ofRX (k c d a : Nat) (b e : Src) (pe sf df rnd : Nat) : Option Instr :=
  match k with
  | 9 => if e = .v 0 ∧ sf = 0 ∧ df = 0 ∧ rnd = 0 then some (.sel ⟨c, d, a, b, pe⟩) else none
  | 27 => if pe = 0 ∧ sf = 0 ∧ df = 0 ∧ rnd = 0 then some (.imad ⟨c, d, a, b, e⟩) else none
  | 28 => if pe = 0 ∧ sf = 0 ∧ df = 0 ∧ rnd = 0 then some (.imadh ⟨c, d, a, b, e⟩) else none
  | 48 => if pe = 0 ∧ sf = 0 ∧ df = 0 ∧ rnd = 0 then some (.bfe ⟨c, d, a, b, e⟩) else none
  | 49 => if pe = 0 ∧ sf = 0 ∧ df = 0 ∧ rnd = 0 then some (.bfeu ⟨c, d, a, b, e⟩) else none
  | 50 => if pe = 0 ∧ sf = 0 ∧ df = 0 ∧ rnd = 0 then some (.bfi ⟨c, d, a, b, e⟩) else none
  | 54 => if pe = 0 ∧ sf = 0 ∧ df = 0 ∧ rnd = 0 then some (.prmtB ⟨c, d, a, b, e⟩) else none
  | 55 => if pe = 0 ∧ sf = 0 ∧ df = 0 ∧ rnd = 0 then some (.prmtN ⟨c, d, a, b, e⟩) else none
  | 136 => if pe = 0 ∧ sf = 0 ∧ df = 0 ∧ rnd = 0 then some (.ffma ⟨c, d, a, b, e⟩) else none
  | 137 => if pe = 0 ∧ sf = 0 ∧ df = 0 ∧ rnd = 0 then some (.ffms ⟨c, d, a, b, e⟩) else none
  | 138 => if pe = 0 ∧ sf = 0 ∧ df = 0 ∧ rnd = 0 then some (.fnma ⟨c, d, a, b, e⟩) else none
  | 162 => if pe = 0 ∧ sf = 0 ∧ df = 0 ∧ rnd = 0 then some (.dfma ⟨c, d, a, b, e⟩) else none
  | 170 => if pe = 0 ∧ sf = 0 ∧ df = 0 ∧ rnd = 0 then some (.hfma2 ⟨c, d, a, b, e⟩) else none
  | 178 => if pe = 0 ∧ sf = 0 ∧ df = 0 ∧ rnd = 0 then some (.bfma2 ⟨c, d, a, b, e⟩) else none
  | 184 => if b = .v 0 ∧ e = .v 0 ∧ pe = 0 then some (.cvt ⟨c, d, a, sf, df, rnd⟩) else none
  | _ => none

/-- The M-format instructions without a data selector (R111). -/
def ofM (k c ord scp d : Nat) (addr : Addr) : Option Instr :=
  match k with
  | 256 => some (.ldB8 ⟨c, ord, scp, d, addr⟩)
  | 257 => some (.ldB16 ⟨c, ord, scp, d, addr⟩)
  | 258 => some (.ldB32 ⟨c, ord, scp, d, addr⟩)
  | 259 => some (.ldB64 ⟨c, ord, scp, d, addr⟩)
  | 260 => some (.ldB128 ⟨c, ord, scp, d, addr⟩)
  | 261 => some (.ldS8 ⟨c, ord, scp, d, addr⟩)
  | 262 => some (.ldS16 ⟨c, ord, scp, d, addr⟩)
  | 264 => some (.stB8 ⟨c, ord, scp, d, addr⟩)
  | 265 => some (.stB16 ⟨c, ord, scp, d, addr⟩)
  | 266 => some (.stB32 ⟨c, ord, scp, d, addr⟩)
  | 267 => some (.stB64 ⟨c, ord, scp, d, addr⟩)
  | 268 => some (.stB128 ⟨c, ord, scp, d, addr⟩)
  | 269 => some (.stS8 ⟨c, ord, scp, d, addr⟩)
  | 270 => some (.stS16 ⟨c, ord, scp, d, addr⟩)
  | 272 => some (.ldsB8 ⟨c, ord, scp, d, addr⟩)
  | 273 => some (.ldsB16 ⟨c, ord, scp, d, addr⟩)
  | 274 => some (.ldsB32 ⟨c, ord, scp, d, addr⟩)
  | 275 => some (.ldsB64 ⟨c, ord, scp, d, addr⟩)
  | 276 => some (.ldsB128 ⟨c, ord, scp, d, addr⟩)
  | 277 => some (.ldsS8 ⟨c, ord, scp, d, addr⟩)
  | 278 => some (.ldsS16 ⟨c, ord, scp, d, addr⟩)
  | 280 => some (.stsB8 ⟨c, ord, scp, d, addr⟩)
  | 281 => some (.stsB16 ⟨c, ord, scp, d, addr⟩)
  | 282 => some (.stsB32 ⟨c, ord, scp, d, addr⟩)
  | 283 => some (.stsB64 ⟨c, ord, scp, d, addr⟩)
  | 284 => some (.stsB128 ⟨c, ord, scp, d, addr⟩)
  | 285 => some (.stsS8 ⟨c, ord, scp, d, addr⟩)
  | 286 => some (.stsS16 ⟨c, ord, scp, d, addr⟩)
  | 288 => if ord = 0 ∧ scp = 0 then some (.pref ⟨c, d, addr⟩) else none
  | 289 => if ord = 0 ∧ scp = 0 ∧ d = 0 then some (.clean ⟨c, addr⟩) else none
  | 290 => if ord = 0 ∧ scp = 0 ∧ d = 0 then some (.inval ⟨c, addr⟩) else none
  | 291 => if ord = 0 ∧ scp = 0 ∧ d = 0 then some (.tdiscard ⟨c, addr⟩) else none
  | 416 => some (.chunk ⟨c, ord, scp, d, addr⟩)
  | 424 => some (.redAdd ⟨c, ord, scp, d, addr⟩)
  | 425 => some (.redMin ⟨c, ord, scp, d, addr⟩)
  | 426 => some (.redMax ⟨c, ord, scp, d, addr⟩)
  | 427 => some (.redAnd ⟨c, ord, scp, d, addr⟩)
  | 428 => some (.redOr ⟨c, ord, scp, d, addr⟩)
  | 429 => some (.redXor ⟨c, ord, scp, d, addr⟩)
  | 456 => if ord = 0 ∧ d = 0 ∧ addr = .v 0 then some (.fence ⟨c, scp⟩) else none
  | 457 => if ord = 0 ∧ addr = .v 0 then some (.fenceX ⟨c, scp, d⟩) else none
  | 464 => if ord = 0 ∧ d = 0 then some (.mona ⟨c, scp, addr⟩) else none
  | 465 => some (.mwait ⟨c, ord, scp, d, addr⟩)
  | 466 => some (.waita ⟨c, ord, scp, d, addr⟩)
  | _ => none

/-- The atomics, with their data selector (R328); C and KC are 0 except in CAS. -/
def ofMA (k c ord scp d : Nat) (addr : Addr) (b n : Src) : Option Instr :=
  match k with
  | 384 => if n = .v 0 then some (.atomAdd ⟨c, ord, scp, d, addr, b⟩) else none
  | 385 => if n = .v 0 then some (.atomMin ⟨c, ord, scp, d, addr, b⟩) else none
  | 386 => if n = .v 0 then some (.atomMax ⟨c, ord, scp, d, addr, b⟩) else none
  | 387 => if n = .v 0 then some (.atomAnd ⟨c, ord, scp, d, addr, b⟩) else none
  | 388 => if n = .v 0 then some (.atomOr ⟨c, ord, scp, d, addr, b⟩) else none
  | 389 => if n = .v 0 then some (.atomXor ⟨c, ord, scp, d, addr, b⟩) else none
  | 390 => if n = .v 0 then some (.atomExch ⟨c, ord, scp, d, addr, b⟩) else none
  | 391 => some (.atomCas ⟨c, ord, scp, d, addr, b, n⟩)
  | 392 => if n = .v 0 then some (.atom64Add ⟨c, ord, scp, d, addr, b⟩) else none
  | 393 => if n = .v 0 then some (.atom64Min ⟨c, ord, scp, d, addr, b⟩) else none
  | 394 => if n = .v 0 then some (.atom64Max ⟨c, ord, scp, d, addr, b⟩) else none
  | 395 => if n = .v 0 then some (.atom64And ⟨c, ord, scp, d, addr, b⟩) else none
  | 396 => if n = .v 0 then some (.atom64Or ⟨c, ord, scp, d, addr, b⟩) else none
  | 397 => if n = .v 0 then some (.atom64Xor ⟨c, ord, scp, d, addr, b⟩) else none
  | 398 => if n = .v 0 then some (.atom64Exch ⟨c, ord, scp, d, addr, b⟩) else none
  | 399 => some (.atom64Cas ⟨c, ord, scp, d, addr, b, n⟩)
  | 400 => if n = .v 0 then some (.atomsAdd ⟨c, ord, scp, d, addr, b⟩) else none
  | 401 => if n = .v 0 then some (.atomsMin ⟨c, ord, scp, d, addr, b⟩) else none
  | 402 => if n = .v 0 then some (.atomsMax ⟨c, ord, scp, d, addr, b⟩) else none
  | 403 => if n = .v 0 then some (.atomsAnd ⟨c, ord, scp, d, addr, b⟩) else none
  | 404 => if n = .v 0 then some (.atomsOr ⟨c, ord, scp, d, addr, b⟩) else none
  | 405 => if n = .v 0 then some (.atomsXor ⟨c, ord, scp, d, addr, b⟩) else none
  | 406 => if n = .v 0 then some (.atomsExch ⟨c, ord, scp, d, addr, b⟩) else none
  | 407 => some (.atomsCas ⟨c, ord, scp, d, addr, b, n⟩)
  | 408 => if n = .v 0 then some (.atomfFadd32 ⟨c, ord, scp, d, addr, b⟩) else none
  | 409 => if n = .v 0 then some (.atomfFaddBf2 ⟨c, ord, scp, d, addr, b⟩) else none
  | 410 => if n = .v 0 then some (.atomfFaddH2 ⟨c, ord, scp, d, addr, b⟩) else none
  | 411 => if n = .v 0 then some (.atomfFmin32 ⟨c, ord, scp, d, addr, b⟩) else none
  | 412 => if n = .v 0 then some (.atomfFmax32 ⟨c, ord, scp, d, addr, b⟩) else none
  | 413 => if n = .v 0 then some (.atomfFadd64 ⟨c, ord, scp, d, addr, b⟩) else none
  | _ => none

/-- The B-format instructions (R169, R170). -/
def ofB (op c disp : Nat) : Option Instr :=
  match op with
  | 0 => some (.bra ⟨c, sx disp 21⟩)
  | 1 => if disp < 128 then some (.brxV ⟨c, disp⟩) else if disp < 192 then some (.brxS ⟨c, disp - 128⟩) else none
  | 2 => some (.call ⟨c, sx disp 21⟩)
  | 3 => if disp < 128 then some (.callxV ⟨c, disp⟩) else if disp < 192 then some (.callxS ⟨c, disp - 128⟩) else none
  | 4 => if disp = 0 then some (.ret ⟨c⟩) else none
  | 5 => if disp = 0 then some (.recon ⟨c⟩) else none
  | 6 => if disp = 0 then some (.yield ⟨c⟩) else none
  | 7 => if disp = 0 then some (.exit ⟨c⟩) else none
  | _ => none

/-- The X-format instructions (R266, R270, R295, R343). -/
def ofX (k c idx cv q : Nat) (a b : XF) : Option Instr :=
  match k, a, b with
  | 592, a, .num b => if idx = 0 ∧ cv = 0 then some (.tdesc ⟨c, a.src, b, q⟩) else none
  | 593, .num a, b => if cv = 0 then some (.tread ⟨c, idx, a, b.src, q⟩) else none
  | 594, .num a, b => if cv = 0 then some (.tquery ⟨c, idx, a, b.src, q⟩) else none
  | 640, .num a, b => if cv = 0 then (if q = 0 then (if b = .num 0 then some (.cpy ⟨c, idx, a, none⟩) else none) else some (.cpy ⟨c, idx, a, some b.src⟩)) else none
  | 641, .num a, b => if cv = 0 then (if q = 0 then (if b = .num 0 then some (.cpyt ⟨c, idx, a, none⟩) else none) else some (.cpyt ⟨c, idx, a, some b.src⟩)) else none
  | 642, .num a, .num b => if idx = 0 ∧ cv = 0 then some (.cpyv ⟨c, a, b, q⟩) else none
  | 704, a, b => if q = 0 then some (.mma ⟨c, idx, cv, a.src, b.src⟩) else none
  | 705, a, b => if q = 0 then some (.mmag ⟨c, idx, cv, a.src, b.src⟩) else none
  | 706, a, b => if b = .num 0 ∧ q = 0 then some (.mzero ⟨c, idx, cv, a.src⟩) else none
  | 720, .num a, b => if q = 0 then some (.gath ⟨c, idx, cv, a, b.src⟩) else none
  | 721, a, b => if q = 0 then some (.tld ⟨c, idx, cv, a.src, b.src⟩) else none
  | 722, a, b => if idx = 0 ∧ a = .num 0 ∧ b = .num 0 ∧ q = 0 then some (.mcommit ⟨c, cv⟩) else none
  | 723, a, b => if cv = 0 ∧ a = .num 0 ∧ b = .num 0 ∧ q = 0 then some (.mwaitb ⟨c, idx⟩) else none
  | 724, a, b => if q = 0 then some (.mdrain ⟨c, idx, cv, a.src, b.src⟩) else none
  | 725, a, b => some (.mdraina ⟨c, idx, cv, a.src, b.src, q⟩)
  | 726, .num a, b => if cv = 0 then (if q = 1 then b.asV.map (fun n => .maccr ⟨c, idx, a, .v n⟩) else some (.maccr ⟨c, idx, a, .x b.src⟩)) else none
  | 727, .num a, b => if cv = 0 then (if q = 1 then b.asV.map (fun n => .maccw ⟨c, idx, a, .v n⟩) else some (.maccw ⟨c, idx, a, .x b.src⟩)) else none
  | 944, .num a, .num b => if idx = 0 ∧ cv = 0 ∧ q = 0 then some (.send ⟨c, a, b⟩) else none
  | 945, .num a, .num b => if cv = 0 ∧ q = 0 then some (.tree ⟨c, idx, a, b⟩) else none
  | 946, .num a, .num b => if cv = 0 ∧ q = 0 then some (.treew ⟨c, idx, a, b⟩) else none
  | _, _, _ => none

/-- The S-format instructions (R338, R114). -/
def ofS (maj op c imm : Nat) : Option Instr :=
  match maj, op with
  | 56, 0 => some (.barArrive ⟨c, imm⟩)
  | 56, 1 => some (.barWait ⟨c, imm⟩)
  | 56, 2 => some (.barSync ⟨c, imm⟩)
  | 62, 0 => if imm = 0 then some (.nop ⟨c⟩) else none
  | _, _ => none

/-- The instruction that stands for the fields. -/
def Raw.toInstr : Raw → Option Instr
  | .r maj op c d a b => ofR (maj * 8 + op) c d a b
  | .rx maj op c d a b e pe sf df rnd => ofRX (maj * 8 + op) c d a b e pe sf df rnd
  | .m maj op c ord scp d addr => ofM (maj * 8 + op) c ord scp d addr
  | .ma maj op c ord scp d addr b n => ofMA (maj * 8 + op) c ord scp d addr b n
  | .br op c disp => ofB op c disp
  | .x maj op c idx cv q a b => ofX (maj * 16 + op) c idx cv q a b
  | .s maj op c imm => ofS maj op c imm

/-- Which of the operand fields A and B of an X-format instruction are decoded under R111, so that 127 calls for a literal. -/
def xOps (maj op q : Nat) : Bool × Bool :=
  if maj = 0x25 then (if op = 0 then (true, false) else (false, true))
  else if maj = 0x28 then (if op = 2 then (false, false) else (false, decide (q = 1)))
  else if maj = 0x2C then (if op = 2 then (true, false) else (true, true))
  else if maj = 0x2D then
    (if op = 0 then (false, true)
     else if op = 1 ∨ op = 4 ∨ op = 5 then (true, true)
     else if op = 6 ∨ op = 7 then (false, decide (q = 0))
     else (false, false))
  else (false, false)

/-- An instruction whose R-format word is followed by an extension word (R110). -/
def hasExt (maj op : Nat) : Bool :=
  decide ((maj = 1 ∧ op = 1) ∨ (maj = 3 ∧ (op = 3 ∨ op = 4)) ∨ (maj = 6 ∧ (op = 0 ∨ op = 1 ∨ op = 2 ∨ op = 6 ∨ op = 7))
    ∨ (maj = 0x11 ∧ op < 3) ∨ (maj = 0x14 ∧ op = 2) ∨ (maj = 0x15 ∧ op = 2) ∨ (maj = 0x16 ∧ op = 2) ∨ (maj = 0x17 ∧ op = 0))

/-- The formats of the major map (R114). -/
inductive Fmt where
  | r | m | ma | b | x | s
  deriving DecidableEq, Repr

/-- The format of a major opcode; none where it is reserved (R114). -/
def fmtOf (maj : Nat) : Option Fmt :=
  if (1 ≤ maj ∧ maj ≤ 9) ∨ maj = 0xC ∨ maj = 0xD ∨ (0x10 ≤ maj ∧ maj ≤ 0x18) ∨ maj = 0x1D ∨ maj = 0x3C ∨ maj = 0x3D then some .r
  else if maj = 0x1C then some .b
  else if (0x20 ≤ maj ∧ maj ≤ 0x24) ∨ maj = 0x34 ∨ maj = 0x35 ∨ maj = 0x39 ∨ maj = 0x3A then some .m
  else if 0x30 ≤ maj ∧ maj ≤ 0x33 then some .ma
  else if maj = 0x25 ∨ maj = 0x28 ∨ maj = 0x2C ∨ maj = 0x2D ∨ maj = 0x3B then some .x
  else if maj = 0x38 ∨ maj = 0x3E then some .s
  else none

/-- An operand field of the R format with its kind bit (R109), taking a literal from the words that follow. -/
def takeSrc (k f : Nat) (ws : List W) : Option (Src × List W) :=
  if k = 0 then some (.v f, ws)
  else if f < 64 then some (.s f, ws)
  else if f = 96 then
    match ws with
    | w :: t => some (.lit w, t)
    | [] => none
  else some (.imm (sx f 6), ws)
/-- The kind bit of an operand. -/
def Src.k : Src → Nat
  | .v _ => 0
  | .s _ => 1
  | .imm _ => 1
  | .lit _ => 1
/-- The seven bits of an operand. -/
def Src.f : Src → Nat
  | .v n => n
  | .s n => n
  | .imm i => 64 + toPat i 6
  | .lit _ => 96
/-- The literal of an operand. -/
def Src.lits : Src → List W
  | .v _ => []
  | .s _ => []
  | .imm _ => []
  | .lit w => [w]

/-- The address of the M format (R111), taking its literal from the words that follow. -/
def takeAddr (am a : Nat) (ws : List W) : Option (Addr × List W) :=
  if am = 0 then some (.v a, ws)
  else if am = 1 then some (.s a, ws)
  else match ws with
    | l :: t => if am = 2 then some (.sl a l, t) else some (.vl a l, t)
    | [] => none

/-- An operand field of the X format. -/
def takeXF (isOp : Bool) (f : Nat) (ws : List W) : Option (XF × List W) :=
  if isOp && decide (f = 127) then
    match ws with
    | w :: t => some (.lit w, t)
    | [] => none
  else some (.num f, ws)
/-- The seven bits of an X operand. -/
def XF.f : XF → Nat
  | .num n => n
  | .lit _ => 127
/-- The literal of an X operand. -/
def XF.lits : XF → List W
  | .num _ => []
  | .lit w => [w]

/-- The fields of the first word, an extension word or a selector, and the literals, in the order of R111 and R328. Answers the fields and the words left over. -/
def parse : List W → Option (Raw × List W)
  | [] => none
  | w0 :: ws =>
    let w := w0.toNat
    let c := bits w 31 1
    let maj := bits w 25 6
    let op := bits w 22 3
    match fmtOf maj with
    | none => none
    | some .r =>
      if hasExt maj op then
        match ws with
        | [] => none
        | e0 :: ws =>
          let e := e0.toNat
          if bits e 26 6 = 0 then
            match takeSrc (bits w 21 1) (bits w 0 7) ws with
            | none => none
            | some (b, ws) =>
              match takeSrc (bits e 7 1) (bits e 0 7) ws with
              | none => none
              | some (es, ws) => some (.rx maj op c (bits w 14 7) (bits w 7 7) b es (bits e 8 7) (bits e 15 4) (bits e 19 4) (bits e 23 3), ws)
          else none
      else
        match takeSrc (bits w 21 1) (bits w 0 7) ws with
        | none => none
        | some (b, ws) => some (.r maj op c (bits w 14 7) (bits w 7 7) b, ws)
    | some .m =>
      match takeAddr (bits w 0 2) (bits w 2 7) ws with
      | none => none
      | some (ad, ws) => some (.m maj op c (bits w 20 2) (bits w 16 4) (bits w 9 7) ad, ws)
    | some .ma =>
      match takeAddr (bits w 0 2) (bits w 2 7) ws with
      | none => none
      | some (_, []) => none
      | some (ad, sel :: ws) =>
        let s := sel.toNat
        if bits s 16 16 = 0 then
          match takeSrc (bits s 7 1) (bits s 0 7) ws with
          | none => none
          | some (b, ws) =>
            match takeSrc (bits s 15 1) (bits s 8 7) ws with
            | none => none
            | some (n, ws) => some (.ma maj op c (bits w 20 2) (bits w 16 4) (bits w 9 7) ad b n, ws)
        else none
    | some .b => some (.br (bits w 21 4) c (bits w 0 21), ws)
    | some .x =>
      let op := bits w 21 4
      let q := bits w 0 1
      let (oa, ob) := xOps maj op q
      match takeXF oa (bits w 8 7) ws with
      | none => none
      | some (a, ws) =>
        match takeXF ob (bits w 1 7) ws with
        | none => none
        | some (b, ws) => some (.x maj op c (bits w 18 3) (bits w 15 3) q a b, ws)
    | some .s => some (.s maj (bits w 17 8) c (bits w 0 17), ws)

/-- The words of the fields, the inverse of parse. -/
def Raw.words : Raw → List W
  | .r maj op c d a b =>
    BitVec.ofNat 32 (c * 2 ^ 31 + maj * 2 ^ 25 + op * 2 ^ 22 + b.k * 2 ^ 21 + d * 2 ^ 14 + a * 2 ^ 7 + b.f) :: b.lits
  | .rx maj op c d a b e pe sf df rnd =>
    BitVec.ofNat 32 (c * 2 ^ 31 + maj * 2 ^ 25 + op * 2 ^ 22 + b.k * 2 ^ 21 + d * 2 ^ 14 + a * 2 ^ 7 + b.f)
      :: BitVec.ofNat 32 (rnd * 2 ^ 23 + df * 2 ^ 19 + sf * 2 ^ 15 + pe * 2 ^ 8 + e.k * 2 ^ 7 + e.f) :: (b.lits ++ e.lits)
  | .m maj op c ord scp d addr =>
    BitVec.ofNat 32 (c * 2 ^ 31 + maj * 2 ^ 25 + op * 2 ^ 22 + ord * 2 ^ 20 + scp * 2 ^ 16 + d * 2 ^ 9 + addr.a * 2 ^ 2 + addr.am) :: addr.lits
  | .ma maj op c ord scp d addr b n =>
    BitVec.ofNat 32 (c * 2 ^ 31 + maj * 2 ^ 25 + op * 2 ^ 22 + ord * 2 ^ 20 + scp * 2 ^ 16 + d * 2 ^ 9 + addr.a * 2 ^ 2 + addr.am)
      :: (addr.lits ++ BitVec.ofNat 32 (n.k * 2 ^ 15 + n.f * 2 ^ 8 + b.k * 2 ^ 7 + b.f) :: (b.lits ++ n.lits))
  | .br op c disp => [BitVec.ofNat 32 (c * 2 ^ 31 + 0x1C * 2 ^ 25 + op * 2 ^ 21 + disp)]
  | .x maj op c idx cv q a b =>
    BitVec.ofNat 32 (c * 2 ^ 31 + maj * 2 ^ 25 + op * 2 ^ 21 + idx * 2 ^ 18 + cv * 2 ^ 15 + a.f * 2 ^ 8 + b.f * 2 + q) :: (a.lits ++ b.lits)
  | .s maj op c imm => [BitVec.ofNat 32 (c * 2 ^ 31 + maj * 2 ^ 25 + op * 2 ^ 17 + imm)]

/-- The words of an instruction (none for a step of the device, which no word encodes). -/
def Instr.encode (i : Instr) : List W :=
  match i.raw with
  | some r => r.words
  | none => []

/-- An instruction of a packet, as against a step of the device. -/
def Instr.isCode (i : Instr) : Bool := i.raw.isSome

/-- Read one instruction from the front of a list of words: the instruction and how many words it takes. None is an offence of R112. -/
def decode (ws : List W) : Option (Instr × Nat) :=
  match parse ws with
  | none => none
  | some (r, rest) =>
    match r.toInstr with
    | none => none
    | some i => if i.wf then some (i, ws.length - rest.length) else none

/-- A word of the opcode table: bit 0 is the least significant bit of the first word. Every bit above nbits is 0, up to the three words an instruction can take. -/
def decodeTableWord (nbits w : Nat) : Option Instr :=
  let v := w % 2 ^ nbits
  (decode [BitVec.ofNat 32 v, BitVec.ofNat 32 (v / 2 ^ 32), BitVec.ofNat 32 (v / 2 ^ 64)]).map (·.1)

end Sys2Proof
end

