-- ==== Sys2Proof/Machine/Ev.lean ====
section
/-! DEFINITION. The steps of the device (95) with their parameters, as State holds those that wait: one for each constructor of Instr that no word encodes. -/
namespace Sys2Proof

/-- A step of the device that waits to be taken. -/
inductive Ev where
  | packetIssue (g : Nat) (n : Nat)
  | countedComplete (id : Nat)
  | packetCacheFill (id : Nat)
  | brandFill (id : Nat)
  | pcTableEvict (g : Nat)
  | reconRelease (g : Nat) (slot : Nat)
  | teamForm (cl : Nat)
  | teamFree (id : Nat)
  | shapeSpill (g : Nat) (slot : Nat)
  | spillReturn (g : Nat)
  | spillReload (g : Nat) (slot : Nat)
  | qtailWrite (fn : Nat) (q : Nat) (v : W)
  | queueService (dq : Nat)
  | ringWatchTimeout (dq : Nat)
  | headWriteback (dq : Nat)
  | headWritebackRetry (fn : Nat) (q : Nat)
  | queueEnable (fn : Nat) (q : Nat)
  | queueDisable (fn : Nat) (q : Nat)
  | queueRestart (fn : Nat) (q : Nat)
  | queueRestartSkip (fn : Nat) (q : Nat)
  | launchStart (key : Nat)
  | waitwCheck (dq : Nat)
  | waitwTimeout (dq : Nat)
  | signalStore (dq : Nat)
  | graphLoop (dq : Nat)
  | graphEnd (dq : Nat)
  | replicationReceive (r : Replica)
  | startReady (key : Nat) (chip : Nat) (gen : Nat)
  | startReleaseReceive (key : Nat) (gen : Nat) (t : Nat)
  | startBarrierIssue (key : Nat)
  | startBarrierTimeout (key : Nat)
  | startAbortReceive (key : Nat) (gen : Nat)
  | ctxCreate (fn : Nat) (ctx : Nat)
  | ctxReload (fn : Nat) (ctx : Nat)
  | ctxDestroy (fn : Nat) (ctx : Nat)
  | ctxCmdNone (fn : Nat) (ctx : Nat)
  | standPlace (key : Nat)
  | partitionWrite (p : Nat) (reg : Nat) (v : W)
  | epochBoundary
  | chunkRequest (id : Nat)
  | clusterLend (p : Nat)
  | clusterReclaim (gcl : Nat)
  | reclaimHandover (gcl : Nat)
  | intervalBoundary (ctx : Nat)
  | mergeCountReceive (chip : Nat) (ctx : Nat) (k : Nat) (count : Nat)
  | mergeMinimumSend (ctx : Nat)
  | mergeResultReceive (ctx : Nat) (k : Nat) (res : Nat)
  | loopStep (ctx : Nat)
  | umpireRound
  | clockStepApply (gcl : Nat)
  | intervalWrite (fn : Nat) (ctx : Nat) (v : W)
  | loopSave (fn : Nat) (ctx : Nat)
  | loopClear (fn : Nat) (ctx : Nat)
  | actuatorLimitWrite (fn : Nat) (ctx : Nat) (k : Nat) (v : W)
  | btFieldWrite (fn : Nat) (ctx : Nat) (reg : Nat) (v : W)
  | storeAck (id : Nat)
  | landingFaultPark (id : Nat)
  | holdQueueRoom (stack : Nat)
  | invalidatePage (fn : Nat)
  | invalidateTag (fn : Nat)
  | invalidateFunction (fn : Nat)
  | invalidateDone (fn : Nat)
  | copyComplete (id : Nat)
  | ringAppend (m : RingMsg)
  | sendStatus (id : Nat) (status : Nat)
  | treeContribution (t : TreeMsg)
  | matrixOpComplete (team : Nat)
  | batchComplete (team : Nat)
  | operandFault (team : Nat)
  | splitkPartArrive (id : Nat)
  | watchTrigger (g : Nat) (slot : Nat) (lane : Nat)
  | mwaitTimeout (g : Nat) (slot : Nat) (lane : Nat)
  | hostWrite (pa : Nat) (bytes : List Byte)
  | hostRead (pa : Nat) (n : Nat)
  | peerAccess (r : PeerReq)
  | trapDelivery (g : Nat) (slot : Nat)
  | faultNotice (id : Nat)
  | ghostDelivery (g : Nat) (slot : Nat)
  | kill (key : Nat) (cause : Nat)
  | switchOut (g : Nat)
  | sliceEnd (g : Nat)
  | budgetOverrun (g : Nat)
  | swapIn (g : Nat)
  | saveWriteDone (g : Nat)
  | completionPoint (key : Nat)
  | replicaDone (key : Nat) (chip : Nat) (gen : Nat)
  | causeEntryClear (n : Nat) (v : W)
  | vfInterruptInject (v : W)
  | reportRingEnable (fn : Nat)
  | partitionReset (v : W)
  | resetDrainEnd (p : Nat)
  | vfFlr (fn : Nat)
  | vfDisable
  | vfEnable (n : Nat)
  | pfReset (conv : Bool)
  | guestTimeApply (f : Nat)
  | linkDown (n : Nat)
  | linkUp (n : Nat) (lanes : Nat)
  | timebaseSync (t : DW)
  | checkpointSave (v : W)
  | checkpointRestore (v : W)
  | checkpointDone (err : Nat)
  | expanderDown (port : Nat)
  | debugStop (ctx : Nat)
  | debugRun (ctx : Nat)
  | debugStep (ctx : Nat)
  | debugRegRead (ctx : Nat)
  | debugRegWrite (ctx : Nat) (v : W)
  | debugDrainTimeout (ctx : Nat)
  | debugArm (p : Nat) (v : W)
  | freeze
  | eccCorrected
  | eccUncorrectable (place : EccPlace)
  | unitFence (kind : Nat) (unit : Nat)
  | patrolScrub
  | powerLimitCross (above : Bool)
  | thermalShutdown
  | spdmRequest (bytes : List Byte)
  | bringUp
  | registerWrite (fn : Nat) (off : Nat) (v : W)
  | expanderUp (port : Nat) (size : Nat)
  | thermalLimitReached
  | firmwareUpdateStaged (img : FwImage)
  | ctxCommandDone (fn : Nat)
  | loopSaveDone (ctx : Nat)
  | tdiscardDone (id : Nat)
  | landingsAnswered (id : Nat)
  deriving DecidableEq, Repr

end Sys2Proof
end

