-- ==== Sys2Proof/Machine/Num.lean ====
section
/-! DEFINITION. Numbers (chapter 08): exact values, the formats, round_to and val, and the exact sums of chapter 09. -/
namespace Sys2Proof.Machine

/-- The sticky flags a computation raises (R184): bit 0 invalid, bit 1 overflow, bit 2 inexact. -/
abbrev Flags := BitVec 3
def fInv : Flags := 1
def fOvf : Flags := 6
def fInx : Flags := 4

/-- An exact value: a NaN, an infinity, or m × 2^e; neg is the sign, which a zero keeps (R183). -/
inductive Num where
  | nan (sig : Bool)
  | inf (neg : Bool)
  | fin (neg : Bool) (m : Nat) (e : Int)
  deriving DecidableEq, Repr

/-- 2 to a natural number, as an integer. -/
def p2 (n : Nat) : Int := ((2 ^ n : Nat) : Int)

/-- The signed significand. -/
def signed (neg : Bool) (m : Nat) : Int := if neg then -(m : Int) else (m : Int)

/-- Layout of a binary format (R180): exponent bits, fraction bits. -/
structure Bin where
  eb : Nat
  fb : Nat
  deriving DecidableEq, Repr
def fp32 : Bin := ⟨8, 23⟩
def fp16 : Bin := ⟨5, 10⟩
def bf16 : Bin := ⟨8, 7⟩
def fp64 : Bin := ⟨11, 52⟩
def Bin.bias (f : Bin) : Nat := 2 ^ (f.eb - 1) - 1
def Bin.width (f : Bin) : Nat := f.eb + f.fb + 1
/-- Canonical NaN (R180). -/
def Bin.cnan (f : Bin) : Nat := (2 ^ f.eb - 1) * 2 ^ f.fb + 2 ^ (f.fb - 1)
def Bin.signBit (f : Bin) (neg : Bool) : Nat := if neg then 2 ^ (f.eb + f.fb) else 0
def Bin.infinity (f : Bin) (neg : Bool) : Nat := f.signBit neg + (2 ^ f.eb - 1) * 2 ^ f.fb
def Bin.maxf (f : Bin) (neg : Bool) : Nat := f.infinity neg - 1
def Bin.zero (f : Bin) (neg : Bool) : Nat := f.signBit neg

/-- val of a binary format (R180, R181). -/
def Bin.val (f : Bin) (b : Nat) : Num :=
  let frac := bits b 0 f.fb
  let ex := bits b f.fb f.eb
  let neg := decide (bits b (f.eb + f.fb) 1 = 1)
  if ex = 2 ^ f.eb - 1 then
    (if frac = 0 then .inf neg else .nan (decide (frac < 2 ^ (f.fb - 1))))
  else if ex = 0 then .fin neg frac (1 - (f.bias : Int) - (f.fb : Int))
  else .fin neg (2 ^ f.fb + frac) ((ex : Int) - (f.bias : Int) - (f.fb : Int))

/-- The five rounding modes (R185). -/
inductive Rnd where
  | rne | rz | rp | rm | rna
  deriving DecidableEq, Repr
/-- The mode of a code (R185). -/
def rndOf : Nat → Rnd
  | 0 => .rne
  | 1 => .rz
  | 2 => .rp
  | 3 => .rm
  | _ => .rna

/-- Choose between lo and lo + 1 units of magnitude, given the remainder r of 2^s parts (r not 0): true for the larger magnitude (R185). -/
def roundUp (mode : Rnd) (neg : Bool) (loOdd : Bool) (r s : Nat) : Bool :=
  match mode with
  | .rz => false
  | .rp => !neg
  | .rm => neg
  | .rna => decide (2 ^ s ≤ 2 * r)
  | .rne => decide (2 ^ s < 2 * r) || (decide (2 * r = 2 ^ s) && loOdd)

/-- m × 2^e in units of 2^q, rounded; and whether it was inexact. -/
def toGrid (mode : Rnd) (neg : Bool) (m : Nat) (e q : Int) : Nat × Bool :=
  if q ≤ e then (m * 2 ^ (e - q).toNat, false)
  else
    let s := (q - e).toNat
    let lo := m / 2 ^ s
    let r := m % 2 ^ s
    if r = 0 then (lo, false)
    else (if roundUp mode neg (decide (lo % 2 = 1)) r s then lo + 1 else lo, true)

/-- The grid spacing exponent q of R186 for a non-zero magnitude. -/
def Bin.grid (f : Bin) (m : Nat) (e : Int) : Int :=
  max ((m.log2 : Int) + e) (1 - (f.bias : Int)) - (f.fb : Int)

/-- The encoding of y × 2^q, with y on the grid and not above the largest finite value. -/
def Bin.encode (f : Bin) (neg : Bool) (y : Nat) (q : Int) : Nat :=
  if y = 0 then f.zero neg
  else
    let n := y.log2
    if n < f.fb then f.signBit neg + y
    else f.signBit neg + ((n : Int) + q + (f.bias : Int)).toNat * 2 ^ f.fb + (y * 2 ^ f.fb / 2 ^ n - 2 ^ f.fb)

/-- round_to of a finite value for a binary format (R186). -/
def Bin.roundFin (f : Bin) (mode : Rnd) (neg : Bool) (m : Nat) (e : Int) : Nat × Flags :=
  if m = 0 then (f.zero neg, 0)
  else
    let q := f.grid m e
    let (y, inx) := toGrid mode neg m e q
    if (y.log2 : Int) + q > (f.bias : Int) ∧ y ≠ 0 then
      (match mode with
        | .rne => f.infinity neg
        | .rna => f.infinity neg
        | .rz => f.maxf neg
        | .rp => if neg then f.maxf true else f.infinity false
        | .rm => if neg then f.infinity true else f.maxf false, fOvf)
    else (f.encode neg y q, if inx then fInx else 0)

/-- round_to for a binary format (R186). A NaN operand raises nothing here; the operation raises invalid for a signalling one (R182). -/
def Bin.round (f : Bin) (mode : Rnd) : Num → Nat × Flags
  | .nan _ => (f.cnan, 0)
  | .inf neg => (f.infinity neg, 0)
  | .fin neg m e => f.roundFin mode neg m e

/-! Exact arithmetic -/

def Num.isNan : Num → Bool
  | .nan _ => true
  | _ => false
def Num.isSig : Num → Bool
  | .nan s => s
  | _ => false
def Num.isZero : Num → Bool
  | .fin _ 0 _ => true
  | _ => false
def Num.isInf : Num → Bool
  | .inf _ => true
  | _ => false
def Num.neg : Num → Num
  | .nan s => .nan s
  | .inf n => .inf (!n)
  | .fin n m e => .fin (!n) m e
def Num.isNeg : Num → Bool
  | .nan _ => false
  | .inf n => n
  | .fin n _ _ => n

/-- An exact product: none where it is a NaN or 0 × ∞. -/
def Num.mul : Num → Num → Option Num
  | .nan _, _ => none
  | _, .nan _ => none
  | .inf a, .inf b => some (.inf (a != b))
  | .inf a, .fin b m _ => if m = 0 then none else some (.inf (a != b))
  | .fin b m _, .inf a => if m = 0 then none else some (.inf (a != b))
  | .fin a m e, .fin b n g => some (.fin (a != b) (m * n) (e + g))

/-- The smallest exponent of a list of finite values. -/
def minExp : List Num → Int
  | [] => 0
  | [.fin _ _ e] => e
  | .fin _ _ e :: t => min e (minExp t)
  | _ :: t => minExp t

/-- A finite value in units of 2^g. -/
def Num.units (g : Int) : Num → Int
  | .fin neg m e => signed neg (m * 2 ^ (e - g).toNat)
  | _ => 0

/-- An exact sum of finite values and infinities, with the zero sign of R183 under a mode; none for ∞ − ∞. -/
def sumNum (mode : Rnd) (ts : List Num) : Option Num :=
  if ts.any (fun t => t == .inf false) && ts.any (fun t => t == .inf true) then none
  else if ts.any (fun t => t == .inf false) then some (.inf false)
  else if ts.any (fun t => t == .inf true) then some (.inf true)
  else
    let g := minExp ts
    let u := (ts.map (Num.units g)).foldl (· + ·) 0
    if u = 0 then
      let allNeg := ts.all fun t => t.isZero && t.isNeg
      let allPos := ts.all fun t => t.isZero && !t.isNeg
      some (.fin (if allNeg then true else if allPos then false else decide (mode = .rm)) 0 0)
    else some (.fin (decide (u < 0)) u.natAbs g)

/-- The sum of exact products and addends, rounded once (R201, R193, R211). -/
def fusedSum (f : Bin) (mode : Rnd) (prods : List (Num × Num)) (adds : List Num) : Nat × Flags :=
  let ops := prods.foldr (fun p l => p.1 :: p.2 :: l) adds
  let inv0 : Flags := if ops.any Num.isSig then fInv else 0
  let zi := prods.any fun p => (p.1.isZero && p.2.isInf) || (p.1.isInf && p.2.isZero)
  if zi then (f.cnan, fInv)
  else if ops.any Num.isNan then (f.cnan, inv0)
  else
    match sumNum mode (prods.filterMap (fun p => p.1.mul p.2) ++ adds) with
    | none => (f.cnan, fInv)
    | some x => f.round mode x

/-- a + b in a binary format (R203). -/
def fadd (f : Bin) (a b : Nat) : Nat × Flags := fusedSum f .rne [] [f.val a, f.val b]
/-- a − b in a binary format: b negated, then added. -/
def fsub (f : Bin) (a b : Nat) : Nat × Flags := fusedSum f .rne [] [f.val a, (f.val b).neg]
/-- a × b in a binary format. -/
def fmul (f : Bin) (a b : Nat) : Nat × Flags := fusedSum f .rne [(f.val a, f.val b)] []
/-- ±(a × b) ± c in a binary format, rounded once (R204). -/
def ffma (f : Bin) (negProd negAdd : Bool) (a b c : Nat) : Nat × Flags :=
  let x := f.val a
  let z := f.val c
  fusedSum f .rne [(if negProd then x.neg else x, f.val b)] [if negAdd then z.neg else z]

/-- Exact comparison of two numbers that are no NaN: less than, with −0 = +0. -/
def Num.lt : Num → Num → Bool
  | .inf a, .inf b => a && !b
  | .inf a, .fin _ _ _ => a
  | .fin _ _ _, .inf b => !b
  | .fin a m e, .fin b n g =>
    let h := min e g
    decide (Num.units h (.fin a m e) < Num.units h (.fin b n g))
  | _, _ => false
def Num.eqv : Num → Num → Bool
  | .inf a, .inf b => a == b
  | .fin a m e, .fin b n g =>
    let h := min e g
    decide (Num.units h (.fin a m e) = Num.units h (.fin b n g))
  | _, _ => false
/-- The order of R202, with −0 below +0. -/
def Num.below (x y : Num) : Bool :=
  if x.isZero && y.isZero then x.isNeg && !y.isNeg else x.lt y

/-- Minimum or maximum of two patterns (R202). -/
def fminmax (f : Bin) (isMax : Bool) (a b : Nat) : Nat × Flags :=
  let x := f.val a
  let y := f.val b
  let inv : Flags := if x.isSig || y.isSig then fInv else 0
  if x.isNan && y.isNan then (f.cnan, inv)
  else if x.isNan then (b, inv)
  else if y.isNan then (a, inv)
  else if isMax then (if x.below y then b else a, 0)
  else (if y.below x then b else a, 0)

/-- The eight conditions of FCMP (R205) by OP. -/
def fcmp (f : Bin) (op a b : Nat) : Bool × Flags :=
  let x := f.val a
  let y := f.val b
  let un := x.isNan || y.isNan
  let fl : Flags := if x.isSig || y.isSig then fInv else 0
  let r := match op with
    | 0 => !un && x.eqv y
    | 1 => un || !(x.eqv y)
    | 2 => !un && x.lt y
    | 3 => !un && !(y.lt x)
    | 4 => !un && y.lt x
    | 5 => !un && !(x.lt y)
    | 6 => un
    | _ => !un
  (r, fl)

/-! The tapered and integer formats (R187 to R191) -/

/-- The run of bits equal to bit i of x, downwards from bit i: its length. -/
def runLen (x : Nat) (b : Nat) : Nat → Nat
  | 0 => if bits x 0 1 = b then 1 else 0
  | i + 1 => if bits x (i + 1) 1 = b then runLen x b i + 1 else 0

/-- Decode of a tapered magnitude of n bits with eb exponent bits (R189, R190): m × 2^e. -/
def taperMag (n eb c : Nat) : Nat × Int :=
  let b := bits c (n - 1) 1
  let run := runLen c b (n - 1)
  let k : Int := if b = 1 then (run : Int) - 1 else -(run : Int)
  let left := n - run - 1
  let ebits := min eb left
  let e := bits c (left - ebits) ebits
  let fb := left - ebits
  (2 ^ fb + bits c 0 fb, 2 * k + (e : Int) - (fb : Int))

/-- Width of a tapered magnitude and its exponent bits: T8 (code 4), T6 (code 5). -/
def taperN (fmt : Nat) : Nat := if fmt = 4 then 7 else 5
def taperE (fmt : Nat) : Nat := if fmt = 4 then 1 else 0

/-- val of T8 or T6 (R189, R190); NaR is read as a quiet NaN. -/
def taperVal (fmt b : Nat) : Num :=
  let n := taperN fmt
  let neg := decide (bits b n 1 = 1)
  let c := bits b 0 n
  if c = 0 then (if neg then .nan false else .fin false 0 0)
  else
    let (m, e) := taperMag n (taperE fmt) c
    .fin neg m e

/-- The magnitude of a tapered code, code 0 being zero. -/
def taperAbs (fmt c : Nat) : Num :=
  if c = 0 then .fin false 0 0
  else
    let (m, e) := taperMag (taperN fmt) (taperE fmt) c
    .fin false m e

/-- The largest code among c, c−1, … 0 whose value is at or below x. -/
def taperFloor (fmt : Nat) (x : Num) : Nat → Nat
  | 0 => 0
  | c + 1 => if x.lt (taperAbs fmt (c + 1)) then taperFloor fmt x c else c + 1

/-- Twice a finite value. -/
def Num.dbl : Num → Num
  | .fin n m e => .fin n m (e + 1)
  | x => x

/-- round_to for T8 and T6 (R187). -/
def taperRound (fmt : Nat) (mode : Rnd) (x : Num) : Nat × Flags :=
  let n := taperN fmt
  let top := 2 ^ n - 1
  match x with
  | .nan sig => (2 ^ n, if sig then fInv else 0)
  | .inf _ => (2 ^ n, fInv)
  | .fin neg m e =>
    let ax := Num.fin false m e
    let sign (c : Nat) : Nat := if neg && decide (c ≠ 0) then 2 ^ n + c else c
    if (taperAbs fmt top).lt ax then (sign top, fOvf)
    else
      let lo := taperFloor fmt ax top
      if ax.eqv (taperAbs fmt lo) then (sign lo, 0)
      else
        let mid := (sumNum .rne [taperAbs fmt lo, taperAbs fmt (lo + 1)]).getD (.fin false 0 0)
        let two := ax.dbl
        let up := match mode with
          | .rz => false
          | .rp => !neg
          | .rm => neg
          | .rna => !(two.lt mid)
          | .rne => mid.lt two || (mid.eqv two && decide (lo % 2 = 1))
        (sign (if up then lo + 1 else lo), fInx)

/-- Width and signedness of an integer format (R188): INT8 6, INT4 7, INT32 8, UINT8 9, UINT4 10. -/
def intW (fmt : Nat) : Nat := if fmt = 6 ∨ fmt = 9 then 8 else if fmt = 8 then 32 else 4
def intS (fmt : Nat) : Bool := decide (fmt < 9)
def intLo (fmt : Nat) : Int := if intS fmt then -p2 (intW fmt - 1) else 0
def intHi (fmt : Nat) : Int := if intS fmt then p2 (intW fmt - 1) - 1 else p2 (intW fmt) - 1

/-- round_to for the integer formats (R188), as the pattern of the format's width. -/
def intRound (fmt : Nat) (mode : Rnd) (x : Num) : Nat × Flags :=
  let w := intW fmt
  match x with
  | .nan _ => (0, fInv)
  | .inf neg => (toPat (if neg then intLo fmt else intHi fmt) w, fInv)
  | .fin neg m e =>
    let (y, inx) := toGrid mode neg m e 0
    let v := signed neg y
    if v < intLo fmt then (toPat (intLo fmt) w, fInv)
    else if intHi fmt < v then (toPat (intHi fmt) w, fInv)
    else (toPat v w, if inx then fInx else 0)

/-- val of an integer pattern (R191). -/
def intVal (fmt b : Nat) : Num :=
  let w := intW fmt
  let v : Int := if intS fmt then sx b w else ((b % 2 ^ w : Nat) : Int)
  .fin (decide (v < 0)) v.natAbs 0

/-- The binary formats by code (R25): 0 FP32, 1 FP16, 2 BF16, 3 FP64. -/
def binOf (fmt : Nat) : Bin := if fmt = 0 then fp32 else if fmt = 1 then fp16 else if fmt = 2 then bf16 else fp64

/-- val(b, f) for the format codes 0 to 10 (R116, R191). -/
def valF (fmt b : Nat) : Num :=
  if fmt < 4 then (binOf fmt).val b else if fmt < 6 then taperVal fmt b else intVal fmt b

/-- round_to(x, f, m) for the format codes 0 to 10 (R116, R186 to R188). -/
def roundF (fmt : Nat) (mode : Rnd) (x : Num) : Nat × Flags :=
  if fmt < 4 then (binOf fmt).round mode x else if fmt < 6 then taperRound fmt mode x else intRound fmt mode x

/-- Bits of an element of a format. -/
def fmtBits (fmt : Nat) : Nat :=
  if fmt = 0 ∨ fmt = 8 then 32 else if fmt = 1 ∨ fmt = 2 then 16 else if fmt = 3 then 64
  else if fmt = 4 ∨ fmt = 6 ∨ fmt = 9 then 8 else if fmt = 5 then 6 else 4

/-- Conversion of a pattern, with the invalid flag of a signalling source (R213, R182). -/
def convert (sf df : Nat) (mode : Rnd) (b : Nat) : Nat × Flags :=
  let x := valF sf b
  let (r, fl) := roundF df mode x
  (r, if x.isSig then fl ||| fInv else fl)

/-- x × 2^n exactly. -/
def Num.scale (x : Num) (n : Int) : Num :=
  match x with
  | .fin neg m e => .fin neg m (e + n)
  | y => y

/-- Operand decode (R192): val(x) × 2^SB, and with a group scale × val(s) × 2^SBs, rounded once RNE to FP32, or to FP64 for FP64. No flag. -/
def decodeElem (fmt b : Nat) (sb : Int) (scale : Option (Nat × Int)) : Nat :=
  let f := if fmt = 3 then fp64 else fp32
  let x := (valF fmt b).scale sb
  match scale with
  | none => (f.round .rne x).1
  | some (s, ss) =>
    match x.mul ((bf16.val s).scale ss) with
    | none => f.cnan
    | some y => (f.round .rne y).1

/-! Square root and the special functions (R206 to R208) -/

/-- Integer square root by binary digits, from bit k down. -/
def isqrtFrom (n r : Nat) : Nat → Nat
  | 0 => if (r + 1) * (r + 1) ≤ n then r + 1 else r
  | k + 1 => if (r + 2 ^ (k + 1)) * (r + 2 ^ (k + 1)) ≤ n then isqrtFrom n (r + 2 ^ (k + 1)) k else isqrtFrom n r k
def isqrt (n : Nat) : Nat := isqrtFrom n 0 (n.log2 / 2 + 1)

/-- √x correctly rounded to FP32, for a positive finite value (R207). -/
def fsqrtFin (m : Nat) (e : Int) : Nat × Flags :=
  let e0 := e - 60
  let sh : Nat := if e0 % 2 = 0 then 60 else 61
  let n := m * 2 ^ sh
  let r := isqrt n
  let sticky := if r * r = n then 0 else 1
  fp32.roundFin .rne false (2 * r + sticky) ((e - (sh : Int)) / 2 - 1)

/-- The distance check |c − 1/x| ≤ 2^q, as |c·x − 1| ≤ 2^q·|x|, for finite non-zero x and finite c of one sign (R207, FRCP). -/
def rcpOk (q : Int) (m : Nat) (e : Int) (cm : Nat) (ce : Int) : Bool :=
  let g := min (min (ce + e) 0) (q + e)
  let prod := Num.units g (.fin false (cm * m) (ce + e))
  let one := Num.units g (.fin false 1 0)
  let tol := Num.units g (.fin false m (q + e))
  decide ((prod - one).natAbs ≤ tol.natAbs)

/-- FRCP of a finite non-zero number (R207): exact when 1 / x is an FP32 value, else a free value within 1 ulp; an infinity for a magnitude below 2^−128 alone. -/
def frcpFin (x : W) (neg : Bool) (m : Nat) (e : Int) : Nat × Flags :=
  let pow := m.log2
  if m = 2 ^ pow then
    let r := fp32.roundFin .rne neg 1 (-(e + (pow : Int)))
    if e + (pow : Int) = -128 then (fp32.maxf neg, fInx) else r
  else
    -- 1 / x in units: floor of 2^(60+pow) / m, with a sticky bit: a number strictly between two FP32 values
    let a := 2 * (2 ^ (60 + pow) / m) + 1
    let ae : Int := -(60 + (pow : Int)) - e - 1
    let r := fp32.roundFin .rne neg a ae
    if r.2 = fOvf then r
    else
      let q := fp32.grid a ae
      let c := (Config.fspec 0 x).toNat
      match fp32.val c with
      | .fin cn cm ce => if cn = neg ∧ cm ≠ 0 ∧ rcpOk q m e cm ce then (c, fInx) else (r.1, fInx)
      | _ => (r.1, fInx)

/-- FRSQ of a positive finite number (R207): exact for 2^(2n), else a free value within 2 ulp. -/
def frsqFin (x : W) (m : Nat) (e : Int) : Nat × Flags :=
  let pow := m.log2
  if m = 2 ^ pow ∧ (e + (pow : Int)) % 2 = 0 then fp32.roundFin .rne false 1 (-((e + (pow : Int)) / 2))
  else
    -- 1/√(m 2^e): floor of √(2^k / m) scaled, with a sticky bit
    let sh : Nat := if (e + (pow : Int)) % 2 = 0 then 80 + pow else 81 + pow
    let r := isqrt (2 ^ sh / m)
    let a := 2 * r + 1
    let ae : Int := -(((sh : Int) + e) / 2) - 1
    let near := fp32.roundFin .rne false a ae
    let q := fp32.grid a ae
    let c := (Config.fspec 1 x).toNat
    match fp32.val c with
    | .fin false cm ce =>
      -- (c − 2u)²·x ≤ 1 ≤ (c + 2u)²·x
      let g := min ce (q + 1)
      let cu := Num.units g (.fin false cm ce)
      let u2 := Num.units g (.fin false 1 (q + 1))
      let lo := max (cu - u2) 0
      let hi := cu + u2
      let ok (v : Int) (below : Bool) : Bool :=
        let pe := g + g + e
        let h := min pe 0
        let a := Num.units h (.fin false (v.natAbs * v.natAbs * m) pe)
        let b := Num.units h (.fin false 1 0)
        if below then decide (a ≤ b) else decide (b ≤ a)
      if ok lo true && ok hi false then (c, if decide (Num.eqv (.fin false (cm * cm * m) (ce + ce + e)) (.fin false 1 0)) then 0 else fInx) else (near.1, fInx)
    | _ => (near.1, fInx)

/-- The floor of a finite value. -/
def Num.floor : Num → Int
  | .fin neg m e =>
    if 0 ≤ e then signed neg (m * 2 ^ e.toNat)
    else
      let s := (-e).toNat
      signed neg m / p2 s
  | _ => 0
/-- Is a finite value an integer? -/
def Num.isInt : Num → Bool
  | .fin _ m e => decide (0 ≤ e) || decide (m % 2 ^ (-e).toNat = 0)
  | _ => false

/-! Exact values in units of 2^−256, for the bounds of R207 -/

def fxOne : Int := p2 256
/-- 2π and ln 2. -/
def twoPiFx : Int := 0x6487ed5110b4611a62633145c06e0e68948127044533e63a0105df531d89cd912
def ln2Fx : Int := 0xb17217f7d1cf79abc9e3b39803f2f6af40f343267298b62d8a0d175b8baafa2b
/-- n terms of a power series from term t of degree k on: of exp at z, or, with −z² for z, of sin or cos. -/
def fxSeries (z : Int) (trig : Bool) : Nat → Nat → Int → Int
  | 0, _, _ => 0
  | n + 1, k, t => t + fxSeries z trig n (if trig then k + 2 else k + 1) (t * z / fxOne / ((if trig then (k + 1) * (k + 2) else k + 1 : Nat) : Int))
def expFx (z : Int) : Int := fxSeries z false 72 0 fxOne
def sinFx (z : Int) : Int := fxSeries (-(z * z / fxOne)) true 40 1 z
def cosFx (z : Int) : Int := fxSeries (-(z * z / fxOne)) true 40 0 fxOne
/-- An angle less the multiple of 2π next to it. -/
def reduceFx (z : Int) : Int := z - (2 * z + twoPiFx) / (2 * twoPiFx) * twoPiFx
/-- n binary digits of log2 of a number from 1 to below 2, after those of acc. -/
def log2Digits : Nat → Int → Int → Int
  | 0, _, acc => acc
  | n + 1, y, acc =>
    let z := y * y / fxOne
    if 2 * fxOne ≤ z then log2Digits n (z / 2) (2 * acc + 1) else log2Digits n z (2 * acc)
/-- A number of units of 2^g. -/
def Num.ofInt (v : Int) (g : Int) : Num := .fin (decide (v < 0)) v.natAbs g
def Num.mag : Num → Num
  | .fin _ m e => .fin false m e
  | y => y
/-- A free value of a special function within a bound of its exact value f; outside the bound, f rounded (log 6). f and tol carry the error of their computing, which tol includes. -/
def freeNear (op : Nat) (x : W) (f tol : Num) : Nat × Flags :=
  let c := (Config.fspec op x).toNat
  let near := ((fp32.round .rne f).1, fInx)
  match fp32.val c, f, tol with
  | .fin cn cm ce, .fin fn fm fe, .fin _ tm te =>
    let g := min ce (min fe te)
    if (Num.units g (.fin cn cm ce) - Num.units g (.fin fn fm fe)).natAbs ≤ (Num.units g (.fin false tm te)).natAbs then (c, fInx) else near
  | _, _, _ => near
/-- 2 ulp of a number of m × 2^e, widened by 2^−40 of itself (R186, R207). -/
def twoUlp (m : Nat) (e : Int) : Num := .fin false (2 ^ 40 + 1) (max ((m.log2 : Int) + e) (-126) - 23 + 1 - 40)
/-- A finite value in units of 2^−256: exact for every FP32 value. -/
def Num.fx (v : Num) : Int := Num.units (-256) v

/-- FEXP2 of a finite non-zero number (R207). -/
def fexp2Fin (x : W) (v : Num) : Nat × Flags :=
  let fl := v.floor
  if 128 ≤ fl then (fp32.infinity false, fOvf)
  else if v.isInt ∧ -149 ≤ fl then fp32.roundFin .rne false 1 fl
  else if v.lt (.fin true 150 0) then (fp32.zero false, fInx)
  else
    let m := (expFx ((v.fx - fl * fxOne) * ln2Fx / fxOne)).natAbs
    freeNear 3 x (.fin false m (fl - 256)) (twoUlp m (fl - 256))

/-- FLOG2 of a positive finite number (R207): exact for 2^n; within 2^−22 of the exact value from 0.5 to 2, and within 2 ulp elsewhere. -/
def flog2Fin (x : W) (m : Nat) (e : Int) : Nat × Flags :=
  let n := (m.log2 : Int) + e
  if m = 2 ^ m.log2 then fp32.round .rne (Num.ofInt n 0)
  else
    let f := n * p2 96 + log2Digits 96 (Num.units (-256) (.fin false m (-(m.log2 : Int)))) 0
    freeNear 4 x (Num.ofInt f (-96)) (if n = 0 ∨ n = -1 then .fin false (2 ^ 40 + 1) (-62) else twoUlp f.natAbs (-96))

/-- FSIN and FCOS (R207): within 2^−22 of the exact value, the argument reduced modulo 2π. -/
def ftrigFin (op : Nat) (x : W) (v : Num) : Nat × Flags :=
  let z := reduceFx v.fx
  freeNear op x (Num.ofInt (if op = 5 then sinFx z else cosFx z) (-256)) (.fin false (2 ^ 40 + 1) (-62))

/-- FTANH of a finite number from 2^−12 to below 9.125 in magnitude (R207): within 2 ulp of (e^2x − 1) ÷ (e^2x + 1). -/
def ftanhFin (x : W) (neg : Bool) (v : Num) : Nat × Flags :=
  let y := 2 * v.mag.fx
  let n := y / ln2Fx
  let w := expFx (y - n * ln2Fx) * p2 n.toNat
  let t := ((w - fxOne) * fxOne / (w + fxOne)).natAbs
  freeNear 7 x (.fin neg t (-256)) (twoUlp t (-256))

/-- The eight special functions (R206 to R208) by OP. -/
def fspec (op : Nat) (x : W) : W × Flags :=
  let v := fp32.val x.toNat
  let nan : Nat × Flags := (fp32.cnan, 0)
  let nanInv : Nat × Flags := (fp32.cnan, fInv)
  let small := !(Num.lt (.fin false 1 (-12)) v.mag) && !(Num.eqv (.fin false 1 (-12)) v.mag)
  let r : Nat × Flags :=
    match v with
    | .nan sig => (fp32.cnan, if sig then fInv else 0)
    | .inf neg =>
      (match op, neg with
        | 0, n => (fp32.zero n, 0)
        | 1, false => (fp32.zero false, 0)
        | 1, true => nanInv
        | 2, false => (fp32.infinity false, 0)
        | 2, true => nanInv
        | 3, false => (fp32.infinity false, 0)
        | 3, true => (fp32.zero false, 0)
        | 4, false => (fp32.infinity false, 0)
        | 7, n => (fp32.signBit n + 0x3F800000, 0)
        | _, _ => nan)
    | .fin neg m e =>
      if m = 0 then
        (match op with
          | 0 => (fp32.infinity neg, 0)
          | 1 => (fp32.infinity neg, 0)
          | 2 => (fp32.zero neg, 0)
          | 3 => (0x3F800000, 0)
          | 4 => (fp32.infinity true, 0)
          | 5 => (fp32.zero neg, 0)
          | 6 => (0x3F800000, 0)
          | _ => (fp32.zero neg, 0))
      else
        (match op with
          | 0 => frcpFin x neg m e
          | 1 => if neg then nanInv else frsqFin x m e
          | 2 => if neg then nanInv else fsqrtFin m e
          | 3 => fexp2Fin x v
          | 4 => if neg then nan else flog2Fin x m e
          | 5 => if small then (x.toNat, fInx) else ftrigFin 5 x v
          | 6 => ftrigFin 6 x v
          | _ =>
            if small then (x.toNat, fInx)
            else if !(Num.lt (.fin false m e) (.fin false 73 (-3))) then (fp32.signBit neg + 0x3F800000, fInx)
            else ftanhFin x neg v)
  (BitVec.ofNat 32 r.1, r.2)

/-! Packed and mixed forms (R210, R211) -/

/-- One element of a packed register. -/
def half (w : W) (i : Nat) : Nat := bits w.toNat (16 * i) 16
/-- Two elements computed apart, the flags united (R210). -/
def packed (g : Nat → Nat × Flags) : W × Flags :=
  let r0 := g 0
  let r1 := g 1
  (BitVec.ofNat 32 (r0.1 + 65536 * r1.1), r0.2 ||| r1.2)
/-- BDOT2 (R211). -/
def bdot2 (a b c : W) : W × Flags :=
  let r := fusedSum fp32 .rne [(bf16.val (half a 0), bf16.val (half b 0)), (bf16.val (half a 1), bf16.val (half b 1))] [fp32.val c.toNat]
  (BitVec.ofNat 32 r.1, r.2)

/-- A 32-bit result. -/
def w32 (r : Nat × Flags) : W × Flags := (BitVec.ofNat 32 r.1, r.2)
/-- A 64-bit result. -/
def w64 (r : Nat × Flags) : DW × Flags := (BitVec.ofNat 64 r.1, r.2)

end Sys2Proof.Machine
end

