-- ==== Sys2Proof/Machine/Regs.lean ====
section
/-! DEFINITION. What an instruction names: its registers (05 R113), the V and P registers it writes (17 R361), whether it is counted (R103), its pipe (R114), whether it transfers control (R108). -/
namespace Sys2Proof

/-- Registers a GET into V names (R151). -/
def getRegs (d a : Nat) : List RegRef := vRegs d (if getWide a then 2 else 1)
/-- Registers a GET into S names (R151). -/
def getRegsS (d a : Nat) : List RegRef := sRegs d (if getWide a then 2 else 1)
/-- The predicate in operand B (R160). -/
def bSrcP : Src → List RegRef
  | .v n => pSrc n
  | .s _ => []
  | .imm _ => []
  | .lit _ => []
/-- The register of a TDISCARD identifier. -/
def Addr.sRef : Addr → List RegRef
  | .v _ => []
  | .s a => [.s a]
  | .sl _ _ => []
  | .vl _ _ => []
/-- The register of an MWAIT timeout. -/
def Addr.tRegs : Addr → List RegRef
  | .v a => [.v a]
  | .s a => [.s a]
  | .sl _ _ => []
  | .vl _ _ => []
/-- The register of a completion word's value (R270). -/
def xwRegs : Option XSrc → List RegRef
  | none => []
  | some b => b.regs

/-- The registers an instruction names, in order (R113). -/
def Instr.regs : Instr → List RegRef
  | .mov x => [.v x.d] ++ x.b.regs
  | .movS x => [.s x.d] ++ x.b.regs
  | .sel x => [.v x.d, .v x.a] ++ x.b.regs ++ pSrc x.pe
  | .vidxr x => [.v x.d, .v x.a] ++ x.b.regs
  | .vidxw x => [.v x.d, .v x.a] ++ x.b.regs
  | .getV x => getRegs x.d x.a
  | .getS x => getRegsS x.d x.a
  | .put x => x.b.regs
  | .iadd x => [.v x.d, .v x.a] ++ x.b.regs
  | .isub x => [.v x.d, .v x.a] ++ x.b.regs
  | .iadds x => [.v x.d, .v x.a] ++ x.b.regs
  | .isubs x => [.v x.d, .v x.a] ++ x.b.regs
  | .ineg x => [.v x.d, .v x.a]
  | .iabs x => [.v x.d, .v x.a]
  | .imin x => [.v x.d, .v x.a] ++ x.b.regs
  | .imax x => [.v x.d, .v x.a] ++ x.b.regs
  | .imul x => [.v x.d, .v x.a] ++ x.b.regs
  | .imulh x => [.v x.d, .v x.a] ++ x.b.regs
  | .imulhu x => [.v x.d, .v x.a] ++ x.b.regs
  | .imad x => [.v x.d, .v x.a] ++ x.b.regs ++ x.e.regs
  | .imadh x => [.v x.d, .v x.a] ++ x.b.regs ++ x.e.regs
  | .and x => [.v x.d, .v x.a] ++ x.b.regs
  | .or x => [.v x.d, .v x.a] ++ x.b.regs
  | .xor x => [.v x.d, .v x.a] ++ x.b.regs
  | .andn x => [.v x.d, .v x.a] ++ x.b.regs
  | .orn x => [.v x.d, .v x.a] ++ x.b.regs
  | .xnor x => [.v x.d, .v x.a] ++ x.b.regs
  | .shl x => [.v x.d, .v x.a] ++ x.b.regs
  | .shr x => [.v x.d, .v x.a] ++ x.b.regs
  | .sar x => [.v x.d, .v x.a] ++ x.b.regs
  | .rol x => [.v x.d, .v x.a] ++ x.b.regs
  | .ror x => [.v x.d, .v x.a] ++ x.b.regs
  | .bfe x => [.v x.d, .v x.a] ++ x.b.regs ++ x.e.regs
  | .bfeu x => [.v x.d, .v x.a] ++ x.b.regs ++ x.e.regs
  | .bfi x => [.v x.d, .v x.a] ++ x.b.regs ++ x.e.regs
  | .popc x => [.v x.d, .v x.a]
  | .clz x => [.v x.d, .v x.a]
  | .brev x => [.v x.d, .v x.a]
  | .prmtB x => [.v x.d, .v x.a] ++ x.b.regs ++ x.e.regs
  | .prmtN x => [.v x.d, .v x.a] ++ x.b.regs ++ x.e.regs
  | .icmpEq x => [.p x.d, .v x.a] ++ x.b.regs
  | .icmpNe x => [.p x.d, .v x.a] ++ x.b.regs
  | .icmpLt x => [.p x.d, .v x.a] ++ x.b.regs
  | .icmpLe x => [.p x.d, .v x.a] ++ x.b.regs
  | .icmpGt x => [.p x.d, .v x.a] ++ x.b.regs
  | .icmpGe x => [.p x.d, .v x.a] ++ x.b.regs
  | .icmpLtu x => [.p x.d, .v x.a] ++ x.b.regs
  | .icmpGeu x => [.p x.d, .v x.a] ++ x.b.regs
  | .pand x => [.p x.d] ++ pSrc x.a ++ bSrcP x.b
  | .por x => [.p x.d] ++ pSrc x.a ++ bSrcP x.b
  | .pxor x => [.p x.d] ++ pSrc x.a ++ bSrcP x.b
  | .pnot x => [.p x.d] ++ pSrc x.a
  | .pmov x => [.p x.d] ++ pSrc x.a
  | .p2v x => [.v x.d, .p x.a] ++ x.b.regs
  | .v2p x => [.p x.d, .v x.a] ++ x.b.regs
  | .aff x => [.v x.d, .v x.a] ++ x.b.regs
  | .shape x => [.v x.d, .v x.a]
  | .expand x => vRegs x.d (x.a + 1)
  | .squeeze x => vRegs x.d (x.a + 1)
  | .shflIdx x => [.v x.d, .v x.a] ++ x.b.regs
  | .shflUp x => [.v x.d, .v x.a] ++ x.b.regs
  | .shflDn x => [.v x.d, .v x.a] ++ x.b.regs
  | .shflXor x => [.v x.d, .v x.a] ++ x.b.regs
  | .voteAny x => [.p x.d] ++ pSrc x.a
  | .voteAll x => [.p x.d] ++ pSrc x.a
  | .voteBal x => [.v x.d] ++ pSrc x.a
  | .elect x => [.p x.d]
  | .redxAdd x => [.v x.d, .v x.a]
  | .redxMin x => [.v x.d, .v x.a]
  | .redxMax x => [.v x.d, .v x.a]
  | .redxMinu x => [.v x.d, .v x.a]
  | .redxMaxu x => [.v x.d, .v x.a]
  | .redxAnd x => [.v x.d, .v x.a]
  | .redxOr x => [.v x.d, .v x.a]
  | .redxFadd x => [.v x.d, .v x.a]
  | .bra _ => []
  | .brxV x => [.v x.a]
  | .brxS x => [.s x.a]
  | .call _ => []
  | .callxV x => [.v x.a]
  | .callxS x => [.s x.a]
  | .ret _ => []
  | .recon _ => []
  | .yield _ => []
  | .exit _ => []
  | .join x => [.v x.a] ++ x.b.regs
  | .leave _ => []
  | .tinfo x => [.v x.d] ++ x.b.regs
  | .fadd x => [.v x.d, .v x.a] ++ x.b.regs
  | .fsub x => [.v x.d, .v x.a] ++ x.b.regs
  | .fmul x => [.v x.d, .v x.a] ++ x.b.regs
  | .fmin x => [.v x.d, .v x.a] ++ x.b.regs
  | .fmax x => [.v x.d, .v x.a] ++ x.b.regs
  | .ffma x => [.v x.d, .v x.a] ++ x.b.regs ++ x.e.regs
  | .ffms x => [.v x.d, .v x.a] ++ x.b.regs ++ x.e.regs
  | .fnma x => [.v x.d, .v x.a] ++ x.b.regs ++ x.e.regs
  | .fcmpEq x => [.p x.d, .v x.a] ++ x.b.regs
  | .fcmpNe x => [.p x.d, .v x.a] ++ x.b.regs
  | .fcmpLt x => [.p x.d, .v x.a] ++ x.b.regs
  | .fcmpLe x => [.p x.d, .v x.a] ++ x.b.regs
  | .fcmpGt x => [.p x.d, .v x.a] ++ x.b.regs
  | .fcmpGe x => [.p x.d, .v x.a] ++ x.b.regs
  | .fcmpUn x => [.p x.d, .v x.a] ++ x.b.regs
  | .fcmpOr x => [.p x.d, .v x.a] ++ x.b.regs
  | .frcp x => [.v x.d, .v x.a]
  | .frsq x => [.v x.d, .v x.a]
  | .fsqrt x => [.v x.d, .v x.a]
  | .fexp2 x => [.v x.d, .v x.a]
  | .flog2 x => [.v x.d, .v x.a]
  | .fsin x => [.v x.d, .v x.a]
  | .fcos x => [.v x.d, .v x.a]
  | .ftanh x => [.v x.d, .v x.a]
  | .dadd x => vRegs x.d 2 ++ vRegs x.a 2 ++ x.b.regs2
  | .dmul x => vRegs x.d 2 ++ vRegs x.a 2 ++ x.b.regs2
  | .dfma x => vRegs x.d 2 ++ vRegs x.a 2 ++ x.b.regs2 ++ x.e.regs2
  | .dmin x => vRegs x.d 2 ++ vRegs x.a 2 ++ x.b.regs2
  | .dmax x => vRegs x.d 2 ++ vRegs x.a 2 ++ x.b.regs2
  | .hadd2 x => [.v x.d, .v x.a] ++ x.b.regs
  | .hmul2 x => [.v x.d, .v x.a] ++ x.b.regs
  | .hfma2 x => [.v x.d, .v x.a] ++ x.b.regs ++ x.e.regs
  | .hmin2 x => [.v x.d, .v x.a] ++ x.b.regs
  | .hmax2 x => [.v x.d, .v x.a] ++ x.b.regs
  | .badd2 x => [.v x.d, .v x.a] ++ x.b.regs
  | .bmul2 x => [.v x.d, .v x.a] ++ x.b.regs
  | .bfma2 x => [.v x.d, .v x.a] ++ x.b.regs ++ x.e.regs
  | .bdot2 x => [.v x.d, .v x.a] ++ x.b.regs
  | .cvt x => vRegs x.d (if x.df = 3 then 2 else 1) ++ vRegs x.a (if x.sf = 3 then 2 else 1)
  | .t8unpk x => [.v x.d, .v x.a] ++ x.b.regs
  | .t6unpk x => [.v x.d, .v x.a] ++ x.b.regs
  | .i4unpk x => [.v x.d, .v x.a] ++ x.b.regs
  | .npk x => [.v x.d, .v x.a] ++ x.b.regs
  | .ldB8 x => vRegs x.d 1 ++ x.addr.regs2
  | .ldB16 x => vRegs x.d 1 ++ x.addr.regs2
  | .ldB32 x => vRegs x.d 1 ++ x.addr.regs2
  | .ldB64 x => vRegs x.d 2 ++ x.addr.regs2
  | .ldB128 x => vRegs x.d 4 ++ x.addr.regs2
  | .ldS8 x => vRegs x.d 1 ++ x.addr.regs2
  | .ldS16 x => vRegs x.d 1 ++ x.addr.regs2
  | .stB8 x => vRegs x.d 1 ++ x.addr.regs2
  | .stB16 x => vRegs x.d 1 ++ x.addr.regs2
  | .stB32 x => vRegs x.d 1 ++ x.addr.regs2
  | .stB64 x => vRegs x.d 2 ++ x.addr.regs2
  | .stB128 x => vRegs x.d 4 ++ x.addr.regs2
  | .stS8 x => vRegs x.d 1 ++ x.addr.regs2
  | .stS16 x => vRegs x.d 1 ++ x.addr.regs2
  | .ldsB8 x => vRegs x.d 1 ++ x.addr.regs
  | .ldsB16 x => vRegs x.d 1 ++ x.addr.regs
  | .ldsB32 x => vRegs x.d 1 ++ x.addr.regs
  | .ldsB64 x => vRegs x.d 2 ++ x.addr.regs
  | .ldsB128 x => vRegs x.d 4 ++ x.addr.regs
  | .ldsS8 x => vRegs x.d 1 ++ x.addr.regs
  | .ldsS16 x => vRegs x.d 1 ++ x.addr.regs
  | .stsB8 x => vRegs x.d 1 ++ x.addr.regs
  | .stsB16 x => vRegs x.d 1 ++ x.addr.regs
  | .stsB32 x => vRegs x.d 1 ++ x.addr.regs
  | .stsB64 x => vRegs x.d 2 ++ x.addr.regs
  | .stsB128 x => vRegs x.d 4 ++ x.addr.regs
  | .stsS8 x => vRegs x.d 1 ++ x.addr.regs
  | .stsS16 x => vRegs x.d 1 ++ x.addr.regs
  | .pref x => x.addr.regs2
  | .clean x => x.addr.regs2
  | .inval x => x.addr.regs2
  | .tdiscard x => x.addr.sRef
  | .tdesc x => x.id.regs ++ (if x.q = 1 then sRegs x.b 2 else [.s x.b])
  | .tread x => x.id.regs ++ vRegs x.d (if x.idx = 2 then 2 else 1)
  | .tquery x => x.id.regs ++ [.v x.d]
  | .cpy x => sRegs x.a (if x.w.isSome then 6 else 5) ++ xwRegs x.w
  | .cpyt x => sRegs x.a (if x.w.isSome then 9 else 8) ++ xwRegs x.w
  | .cpyv x => vRegs x.a 3 ++ sRegs x.b (if x.q = 1 then 3 else 1)
  | .mma x => [.acc x.i] ++ x.a.regs ++ x.b.regs
  | .mmag x => [.acc x.i] ++ x.a.regs ++ x.b.regs
  | .mzero x => [.acc x.i] ++ x.a.regs
  | .gath x => [.v x.a] ++ x.b.regs
  | .tld x => [.tile x.i] ++ x.a.regs ++ x.b.regs
  | .mcommit _ => []
  | .mwaitb _ => []
  | .mdrain x => [.acc x.i] ++ x.a.regs ++ x.b.regs
  | .mdraina x => [.acc x.i] ++ x.a.regs ++ x.b.regs
  | .maccr x => [.acc x.i, .v x.a] ++ x.idx.regs
  | .maccw x => [.acc x.i, .v x.a] ++ x.idx.regs
  | .atomAdd x => vRegs x.d 1 ++ x.addr.regs2 ++ x.b.regs
  | .atomMin x => vRegs x.d 1 ++ x.addr.regs2 ++ x.b.regs
  | .atomMax x => vRegs x.d 1 ++ x.addr.regs2 ++ x.b.regs
  | .atomAnd x => vRegs x.d 1 ++ x.addr.regs2 ++ x.b.regs
  | .atomOr x => vRegs x.d 1 ++ x.addr.regs2 ++ x.b.regs
  | .atomXor x => vRegs x.d 1 ++ x.addr.regs2 ++ x.b.regs
  | .atomExch x => vRegs x.d 1 ++ x.addr.regs2 ++ x.b.regs
  | .atomCas x => vRegs x.d 1 ++ x.addr.regs2 ++ x.b.regs ++ x.n.regs
  | .atom64Add x => vRegs x.d 2 ++ x.addr.regs2 ++ x.b.regs2
  | .atom64Min x => vRegs x.d 2 ++ x.addr.regs2 ++ x.b.regs2
  | .atom64Max x => vRegs x.d 2 ++ x.addr.regs2 ++ x.b.regs2
  | .atom64And x => vRegs x.d 2 ++ x.addr.regs2 ++ x.b.regs2
  | .atom64Or x => vRegs x.d 2 ++ x.addr.regs2 ++ x.b.regs2
  | .atom64Xor x => vRegs x.d 2 ++ x.addr.regs2 ++ x.b.regs2
  | .atom64Exch x => vRegs x.d 2 ++ x.addr.regs2 ++ x.b.regs2
  | .atom64Cas x => vRegs x.d 2 ++ x.addr.regs2 ++ x.b.regs2 ++ x.n.regs2
  | .atomsAdd x => vRegs x.d 1 ++ x.addr.regs ++ x.b.regs
  | .atomsMin x => vRegs x.d 1 ++ x.addr.regs ++ x.b.regs
  | .atomsMax x => vRegs x.d 1 ++ x.addr.regs ++ x.b.regs
  | .atomsAnd x => vRegs x.d 1 ++ x.addr.regs ++ x.b.regs
  | .atomsOr x => vRegs x.d 1 ++ x.addr.regs ++ x.b.regs
  | .atomsXor x => vRegs x.d 1 ++ x.addr.regs ++ x.b.regs
  | .atomsExch x => vRegs x.d 1 ++ x.addr.regs ++ x.b.regs
  | .atomsCas x => vRegs x.d 1 ++ x.addr.regs ++ x.b.regs ++ x.n.regs
  | .atomfFadd32 x => vRegs x.d 1 ++ x.addr.regs2 ++ x.b.regs
  | .atomfFaddBf2 x => vRegs x.d 1 ++ x.addr.regs2 ++ x.b.regs
  | .atomfFaddH2 x => vRegs x.d 1 ++ x.addr.regs2 ++ x.b.regs
  | .atomfFmin32 x => vRegs x.d 1 ++ x.addr.regs2 ++ x.b.regs
  | .atomfFmax32 x => vRegs x.d 1 ++ x.addr.regs2 ++ x.b.regs
  | .atomfFadd64 x => vRegs x.d 2 ++ x.addr.regs2 ++ x.b.regs2
  | .chunk x => vRegs x.d 2 ++ x.addr.regs2
  | .redAdd x => [.v x.d] ++ x.addr.regs2
  | .redMin x => [.v x.d] ++ x.addr.regs2
  | .redMax x => [.v x.d] ++ x.addr.regs2
  | .redAnd x => [.v x.d] ++ x.addr.regs2
  | .redOr x => [.v x.d] ++ x.addr.regs2
  | .redXor x => [.v x.d] ++ x.addr.regs2
  | .fence _ => []
  | .fenceX _ => []
  | .barArrive _ => []
  | .barWait _ => []
  | .barSync _ => []
  | .mona x => x.addr.regs2
  | .mwait x => [.p x.d, .p (x.d + 1)] ++ x.addr.tRegs
  | .waita x => [.v x.d] ++ x.addr.regs
  | .send x => vRegs x.a 4 ++ [.p x.b]
  | .tree x => sRegs x.a 3 ++ [.p x.b]
  | .treew x => sRegs x.a 3 ++ [.p x.b]
  | .beat x => x.b.regs
  | .beatd x => vRegs x.a 2 ++ x.b.regs
  | .rng x => vRegs x.d 4 ++ vRegs x.a 4 ++ x.b.regs2
  | .time x => vRegs x.d 2 ++ x.b.regs
  | .trap _ => []
  | .rtt _ => []
  | .rttSkip _ => []
  | .lmovR x => [.v x.d, .v x.a] ++ x.b.regs
  | .lmovW x => [.v x.d, .v x.a] ++ x.b.regs
  | .brk x => x.b.regs
  | .resume x => [.p x.d] ++ vRegs x.a 2
  | .drop x => [.p x.d] ++ vRegs x.a 2
  | .nop _ => []
  | .packetIssue _ _ => []
  | .countedComplete _ => []
  | .packetCacheFill _ => []
  | .brandFill _ => []
  | .pcTableEvict _ => []
  | .reconRelease _ _ => []
  | .teamForm _ => []
  | .teamFree _ => []
  | .shapeSpill _ _ => []
  | .spillReturn _ => []
  | .spillReload _ _ => []
  | .qtailWrite _ _ _ => []
  | .queueService _ => []
  | .ringWatchTimeout _ => []
  | .headWriteback _ => []
  | .headWritebackRetry _ _ => []
  | .queueEnable _ _ => []
  | .queueDisable _ _ => []
  | .queueRestart _ _ => []
  | .queueRestartSkip _ _ => []
  | .launchStart _ => []
  | .waitwCheck _ => []
  | .waitwTimeout _ => []
  | .signalStore _ => []
  | .graphLoop _ => []
  | .graphEnd _ => []
  | .replicationReceive _ => []
  | .startReady _ _ _ => []
  | .startReleaseReceive _ _ _ => []
  | .startBarrierIssue _ => []
  | .startBarrierTimeout _ => []
  | .startAbortReceive _ _ => []
  | .ctxCreate _ _ => []
  | .ctxReload _ _ => []
  | .ctxDestroy _ _ => []
  | .ctxCmdNone _ _ => []
  | .standPlace _ => []
  | .partitionWrite _ _ _ => []
  | .epochBoundary => []
  | .chunkRequest _ => []
  | .clusterLend _ => []
  | .clusterReclaim _ => []
  | .reclaimHandover _ => []
  | .intervalBoundary _ => []
  | .mergeCountReceive _ _ _ _ => []
  | .mergeMinimumSend _ => []
  | .mergeResultReceive _ _ _ => []
  | .loopStep _ => []
  | .umpireRound => []
  | .clockStepApply _ => []
  | .intervalWrite _ _ _ => []
  | .loopSave _ _ => []
  | .loopClear _ _ => []
  | .actuatorLimitWrite _ _ _ _ => []
  | .btFieldWrite _ _ _ _ => []
  | .storeAck _ => []
  | .landingFaultPark _ => []
  | .holdQueueRoom _ => []
  | .invalidatePage _ => []
  | .invalidateTag _ => []
  | .invalidateFunction _ => []
  | .invalidateDone _ => []
  | .copyComplete _ => []
  | .ringAppend _ => []
  | .sendStatus _ _ => []
  | .treeContribution _ => []
  | .matrixOpComplete _ => []
  | .batchComplete _ => []
  | .operandFault _ => []
  | .splitkPartArrive _ => []
  | .watchTrigger _ _ _ => []
  | .mwaitTimeout _ _ _ => []
  | .hostWrite _ _ => []
  | .hostRead _ _ => []
  | .peerAccess _ => []
  | .trapDelivery _ _ => []
  | .faultNotice _ => []
  | .ghostDelivery _ _ => []
  | .kill _ _ => []
  | .switchOut _ => []
  | .sliceEnd _ => []
  | .budgetOverrun _ => []
  | .swapIn _ => []
  | .saveWriteDone _ => []
  | .completionPoint _ => []
  | .replicaDone _ _ _ => []
  | .causeEntryClear _ _ => []
  | .vfInterruptInject _ => []
  | .reportRingEnable _ => []
  | .partitionReset _ => []
  | .resetDrainEnd _ => []
  | .vfFlr _ => []
  | .vfDisable => []
  | .vfEnable _ => []
  | .pfReset _ => []
  | .guestTimeApply _ => []
  | .linkDown _ => []
  | .linkUp _ _ => []
  | .timebaseSync _ => []
  | .checkpointSave _ => []
  | .checkpointRestore _ => []
  | .checkpointDone _ => []
  | .expanderDown _ => []
  | .debugStop _ => []
  | .debugRun _ => []
  | .debugStep _ => []
  | .debugRegRead _ => []
  | .debugRegWrite _ _ => []
  | .debugDrainTimeout _ => []
  | .debugArm _ _ => []
  | .freeze => []
  | .eccCorrected => []
  | .eccUncorrectable _ => []
  | .unitFence _ _ => []
  | .patrolScrub => []
  | .powerLimitCross _ => []
  | .thermalShutdown => []
  | .spdmRequest _ => []
  | .bringUp => []
  | .registerWrite _ _ _ => []
  | .expanderUp _ _ => []
  | .thermalLimitReached => []
  | .firmwareUpdateStaged _ => []
  | .ctxCommandDone _ => []
  | .loopSaveDone _ => []
  | .tdiscardDone _ => []
  | .landingsAnswered _ => []

/-- The V and P registers an instruction writes by name (R361). -/
def Instr.writes : Instr → List RegRef
  | .mov x => [.v x.d]
  | .movS _ => []
  | .sel x => [.v x.d]
  | .vidxr x => [.v x.d]
  | .vidxw _ => []
  | .getV x => getRegs x.d x.a
  | .getS _ => []
  | .put _ => []
  | .iadd x => [.v x.d]
  | .isub x => [.v x.d]
  | .iadds x => [.v x.d]
  | .isubs x => [.v x.d]
  | .ineg x => [.v x.d]
  | .iabs x => [.v x.d]
  | .imin x => [.v x.d]
  | .imax x => [.v x.d]
  | .imul x => [.v x.d]
  | .imulh x => [.v x.d]
  | .imulhu x => [.v x.d]
  | .imad x => [.v x.d]
  | .imadh x => [.v x.d]
  | .and x => [.v x.d]
  | .or x => [.v x.d]
  | .xor x => [.v x.d]
  | .andn x => [.v x.d]
  | .orn x => [.v x.d]
  | .xnor x => [.v x.d]
  | .shl x => [.v x.d]
  | .shr x => [.v x.d]
  | .sar x => [.v x.d]
  | .rol x => [.v x.d]
  | .ror x => [.v x.d]
  | .bfe x => [.v x.d]
  | .bfeu x => [.v x.d]
  | .bfi x => [.v x.d]
  | .popc x => [.v x.d]
  | .clz x => [.v x.d]
  | .brev x => [.v x.d]
  | .prmtB x => [.v x.d]
  | .prmtN x => [.v x.d]
  | .icmpEq x => [.p x.d]
  | .icmpNe x => [.p x.d]
  | .icmpLt x => [.p x.d]
  | .icmpLe x => [.p x.d]
  | .icmpGt x => [.p x.d]
  | .icmpGe x => [.p x.d]
  | .icmpLtu x => [.p x.d]
  | .icmpGeu x => [.p x.d]
  | .pand x => [.p x.d]
  | .por x => [.p x.d]
  | .pxor x => [.p x.d]
  | .pnot x => [.p x.d]
  | .pmov x => [.p x.d]
  | .p2v x => [.v x.d]
  | .v2p _ => []
  | .aff x => [.v x.d]
  | .shape x => [.v x.d]
  | .expand x => vRegs x.d (x.a + 1)
  | .squeeze x => vRegs x.d (x.a + 1)
  | .shflIdx x => [.v x.d]
  | .shflUp x => [.v x.d]
  | .shflDn x => [.v x.d]
  | .shflXor x => [.v x.d]
  | .voteAny x => [.p x.d]
  | .voteAll x => [.p x.d]
  | .voteBal x => [.v x.d]
  | .elect x => [.p x.d]
  | .redxAdd x => [.v x.d]
  | .redxMin x => [.v x.d]
  | .redxMax x => [.v x.d]
  | .redxMinu x => [.v x.d]
  | .redxMaxu x => [.v x.d]
  | .redxAnd x => [.v x.d]
  | .redxOr x => [.v x.d]
  | .redxFadd x => [.v x.d]
  | .bra _ => []
  | .brxV _ => []
  | .brxS _ => []
  | .call _ => []
  | .callxV _ => []
  | .callxS _ => []
  | .ret _ => []
  | .recon _ => []
  | .yield _ => []
  | .exit _ => []
  | .join _ => []
  | .leave _ => []
  | .tinfo x => [.v x.d]
  | .fadd x => [.v x.d]
  | .fsub x => [.v x.d]
  | .fmul x => [.v x.d]
  | .fmin x => [.v x.d]
  | .fmax x => [.v x.d]
  | .ffma x => [.v x.d]
  | .ffms x => [.v x.d]
  | .fnma x => [.v x.d]
  | .fcmpEq x => [.p x.d]
  | .fcmpNe x => [.p x.d]
  | .fcmpLt x => [.p x.d]
  | .fcmpLe x => [.p x.d]
  | .fcmpGt x => [.p x.d]
  | .fcmpGe x => [.p x.d]
  | .fcmpUn x => [.p x.d]
  | .fcmpOr x => [.p x.d]
  | .frcp x => [.v x.d]
  | .frsq x => [.v x.d]
  | .fsqrt x => [.v x.d]
  | .fexp2 x => [.v x.d]
  | .flog2 x => [.v x.d]
  | .fsin x => [.v x.d]
  | .fcos x => [.v x.d]
  | .ftanh x => [.v x.d]
  | .dadd x => vRegs x.d 2
  | .dmul x => vRegs x.d 2
  | .dfma x => vRegs x.d 2
  | .dmin x => vRegs x.d 2
  | .dmax x => vRegs x.d 2
  | .hadd2 x => [.v x.d]
  | .hmul2 x => [.v x.d]
  | .hfma2 x => [.v x.d]
  | .hmin2 x => [.v x.d]
  | .hmax2 x => [.v x.d]
  | .badd2 x => [.v x.d]
  | .bmul2 x => [.v x.d]
  | .bfma2 x => [.v x.d]
  | .bdot2 x => [.v x.d]
  | .cvt x => vRegs x.d (if x.df = 3 then 2 else 1)
  | .t8unpk x => [.v x.d]
  | .t6unpk x => [.v x.d]
  | .i4unpk x => [.v x.d]
  | .npk x => [.v x.d]
  | .ldB8 x => vRegs x.d 1
  | .ldB16 x => vRegs x.d 1
  | .ldB32 x => vRegs x.d 1
  | .ldB64 x => vRegs x.d 2
  | .ldB128 x => vRegs x.d 4
  | .ldS8 x => vRegs x.d 1
  | .ldS16 x => vRegs x.d 1
  | .stB8 _ => []
  | .stB16 _ => []
  | .stB32 _ => []
  | .stB64 _ => []
  | .stB128 _ => []
  | .stS8 _ => []
  | .stS16 _ => []
  | .ldsB8 x => vRegs x.d 1
  | .ldsB16 x => vRegs x.d 1
  | .ldsB32 x => vRegs x.d 1
  | .ldsB64 x => vRegs x.d 2
  | .ldsB128 x => vRegs x.d 4
  | .ldsS8 x => vRegs x.d 1
  | .ldsS16 x => vRegs x.d 1
  | .stsB8 _ => []
  | .stsB16 _ => []
  | .stsB32 _ => []
  | .stsB64 _ => []
  | .stsB128 _ => []
  | .stsS8 _ => []
  | .stsS16 _ => []
  | .pref _ => []
  | .clean _ => []
  | .inval _ => []
  | .tdiscard _ => []
  | .tdesc _ => []
  | .tread x => vRegs x.d (if x.idx = 2 then 2 else 1)
  | .tquery x => [.v x.d]
  | .cpy _ => []
  | .cpyt _ => []
  | .cpyv _ => []
  | .mma _ => []
  | .mmag _ => []
  | .mzero _ => []
  | .gath _ => []
  | .tld _ => []
  | .mcommit _ => []
  | .mwaitb _ => []
  | .mdrain _ => []
  | .mdraina _ => []
  | .maccr x => [.v x.a]
  | .maccw _ => []
  | .atomAdd x => vRegs x.d 1
  | .atomMin x => vRegs x.d 1
  | .atomMax x => vRegs x.d 1
  | .atomAnd x => vRegs x.d 1
  | .atomOr x => vRegs x.d 1
  | .atomXor x => vRegs x.d 1
  | .atomExch x => vRegs x.d 1
  | .atomCas x => vRegs x.d 1
  | .atom64Add x => vRegs x.d 2
  | .atom64Min x => vRegs x.d 2
  | .atom64Max x => vRegs x.d 2
  | .atom64And x => vRegs x.d 2
  | .atom64Or x => vRegs x.d 2
  | .atom64Xor x => vRegs x.d 2
  | .atom64Exch x => vRegs x.d 2
  | .atom64Cas x => vRegs x.d 2
  | .atomsAdd x => vRegs x.d 1
  | .atomsMin x => vRegs x.d 1
  | .atomsMax x => vRegs x.d 1
  | .atomsAnd x => vRegs x.d 1
  | .atomsOr x => vRegs x.d 1
  | .atomsXor x => vRegs x.d 1
  | .atomsExch x => vRegs x.d 1
  | .atomsCas x => vRegs x.d 1
  | .atomfFadd32 x => vRegs x.d 1
  | .atomfFaddBf2 x => vRegs x.d 1
  | .atomfFaddH2 x => vRegs x.d 1
  | .atomfFmin32 x => vRegs x.d 1
  | .atomfFmax32 x => vRegs x.d 1
  | .atomfFadd64 x => vRegs x.d 2
  | .chunk x => vRegs x.d 2
  | .redAdd _ => []
  | .redMin _ => []
  | .redMax _ => []
  | .redAnd _ => []
  | .redOr _ => []
  | .redXor _ => []
  | .fence _ => []
  | .fenceX _ => []
  | .barArrive _ => []
  | .barWait _ => []
  | .barSync _ => []
  | .mona _ => []
  | .mwait x => [.p x.d, .p (x.d + 1)]
  | .waita x => [.v x.d]
  | .send x => [.v (x.a + 3), .p x.b]
  | .tree x => [.p x.b]
  | .treew x => [.p x.b]
  | .beat _ => []
  | .beatd _ => []
  | .rng x => vRegs x.d 4
  | .time x => vRegs x.d 2
  | .trap _ => []
  | .rtt _ => []
  | .rttSkip _ => []
  | .lmovR x => [.v x.d]
  | .lmovW _ => []
  | .brk _ => []
  | .resume x => [.p x.d]
  | .drop x => [.p x.d]
  | .nop _ => []
  | .packetIssue _ _ => []
  | .countedComplete _ => []
  | .packetCacheFill _ => []
  | .brandFill _ => []
  | .pcTableEvict _ => []
  | .reconRelease _ _ => []
  | .teamForm _ => []
  | .teamFree _ => []
  | .shapeSpill _ _ => []
  | .spillReturn _ => []
  | .spillReload _ _ => []
  | .qtailWrite _ _ _ => []
  | .queueService _ => []
  | .ringWatchTimeout _ => []
  | .headWriteback _ => []
  | .headWritebackRetry _ _ => []
  | .queueEnable _ _ => []
  | .queueDisable _ _ => []
  | .queueRestart _ _ => []
  | .queueRestartSkip _ _ => []
  | .launchStart _ => []
  | .waitwCheck _ => []
  | .waitwTimeout _ => []
  | .signalStore _ => []
  | .graphLoop _ => []
  | .graphEnd _ => []
  | .replicationReceive _ => []
  | .startReady _ _ _ => []
  | .startReleaseReceive _ _ _ => []
  | .startBarrierIssue _ => []
  | .startBarrierTimeout _ => []
  | .startAbortReceive _ _ => []
  | .ctxCreate _ _ => []
  | .ctxReload _ _ => []
  | .ctxDestroy _ _ => []
  | .ctxCmdNone _ _ => []
  | .standPlace _ => []
  | .partitionWrite _ _ _ => []
  | .epochBoundary => []
  | .chunkRequest _ => []
  | .clusterLend _ => []
  | .clusterReclaim _ => []
  | .reclaimHandover _ => []
  | .intervalBoundary _ => []
  | .mergeCountReceive _ _ _ _ => []
  | .mergeMinimumSend _ => []
  | .mergeResultReceive _ _ _ => []
  | .loopStep _ => []
  | .umpireRound => []
  | .clockStepApply _ => []
  | .intervalWrite _ _ _ => []
  | .loopSave _ _ => []
  | .loopClear _ _ => []
  | .actuatorLimitWrite _ _ _ _ => []
  | .btFieldWrite _ _ _ _ => []
  | .storeAck _ => []
  | .landingFaultPark _ => []
  | .holdQueueRoom _ => []
  | .invalidatePage _ => []
  | .invalidateTag _ => []
  | .invalidateFunction _ => []
  | .invalidateDone _ => []
  | .copyComplete _ => []
  | .ringAppend _ => []
  | .sendStatus _ _ => []
  | .treeContribution _ => []
  | .matrixOpComplete _ => []
  | .batchComplete _ => []
  | .operandFault _ => []
  | .splitkPartArrive _ => []
  | .watchTrigger _ _ _ => []
  | .mwaitTimeout _ _ _ => []
  | .hostWrite _ _ => []
  | .hostRead _ _ => []
  | .peerAccess _ => []
  | .trapDelivery _ _ => []
  | .faultNotice _ => []
  | .ghostDelivery _ _ => []
  | .kill _ _ => []
  | .switchOut _ => []
  | .sliceEnd _ => []
  | .budgetOverrun _ => []
  | .swapIn _ => []
  | .saveWriteDone _ => []
  | .completionPoint _ => []
  | .replicaDone _ _ _ => []
  | .causeEntryClear _ _ => []
  | .vfInterruptInject _ => []
  | .reportRingEnable _ => []
  | .partitionReset _ => []
  | .resetDrainEnd _ => []
  | .vfFlr _ => []
  | .vfDisable => []
  | .vfEnable _ => []
  | .pfReset _ => []
  | .guestTimeApply _ => []
  | .linkDown _ => []
  | .linkUp _ _ => []
  | .timebaseSync _ => []
  | .checkpointSave _ => []
  | .checkpointRestore _ => []
  | .checkpointDone _ => []
  | .expanderDown _ => []
  | .debugStop _ => []
  | .debugRun _ => []
  | .debugStep _ => []
  | .debugRegRead _ => []
  | .debugRegWrite _ _ => []
  | .debugDrainTimeout _ => []
  | .debugArm _ _ => []
  | .freeze => []
  | .eccCorrected => []
  | .eccUncorrectable _ => []
  | .unitFence _ _ => []
  | .patrolScrub => []
  | .powerLimitCross _ => []
  | .thermalShutdown => []
  | .spdmRequest _ => []
  | .bringUp => []
  | .registerWrite _ _ _ => []
  | .expanderUp _ _ => []
  | .thermalLimitReached => []
  | .firmwareUpdateStaged _ => []
  | .ctxCommandDone _ => []
  | .loopSaveDone _ => []
  | .tdiscardDone _ => []
  | .landingsAnswered _ => []

/-- Counted instructions (R103). -/
def Instr.counted : Instr → Bool
  | .mov _ => false
  | .movS _ => false
  | .sel _ => false
  | .vidxr _ => false
  | .vidxw _ => false
  | .getV _ => false
  | .getS _ => false
  | .put _ => false
  | .iadd _ => false
  | .isub _ => false
  | .iadds _ => false
  | .isubs _ => false
  | .ineg _ => false
  | .iabs _ => false
  | .imin _ => false
  | .imax _ => false
  | .imul _ => false
  | .imulh _ => false
  | .imulhu _ => false
  | .imad _ => false
  | .imadh _ => false
  | .and _ => false
  | .or _ => false
  | .xor _ => false
  | .andn _ => false
  | .orn _ => false
  | .xnor _ => false
  | .shl _ => false
  | .shr _ => false
  | .sar _ => false
  | .rol _ => false
  | .ror _ => false
  | .bfe _ => false
  | .bfeu _ => false
  | .bfi _ => false
  | .popc _ => false
  | .clz _ => false
  | .brev _ => false
  | .prmtB _ => false
  | .prmtN _ => false
  | .icmpEq _ => false
  | .icmpNe _ => false
  | .icmpLt _ => false
  | .icmpLe _ => false
  | .icmpGt _ => false
  | .icmpGe _ => false
  | .icmpLtu _ => false
  | .icmpGeu _ => false
  | .pand _ => false
  | .por _ => false
  | .pxor _ => false
  | .pnot _ => false
  | .pmov _ => false
  | .p2v _ => false
  | .v2p _ => false
  | .aff _ => false
  | .shape _ => false
  | .expand _ => false
  | .squeeze _ => false
  | .shflIdx _ => false
  | .shflUp _ => false
  | .shflDn _ => false
  | .shflXor _ => false
  | .voteAny _ => false
  | .voteAll _ => false
  | .voteBal _ => false
  | .elect _ => false
  | .redxAdd _ => false
  | .redxMin _ => false
  | .redxMax _ => false
  | .redxMinu _ => false
  | .redxMaxu _ => false
  | .redxAnd _ => false
  | .redxOr _ => false
  | .redxFadd _ => false
  | .bra _ => false
  | .brxV _ => false
  | .brxS _ => false
  | .call _ => false
  | .callxV _ => false
  | .callxS _ => false
  | .ret _ => false
  | .recon _ => false
  | .yield _ => false
  | .exit _ => false
  | .join _ => false
  | .leave _ => false
  | .tinfo _ => false
  | .fadd _ => false
  | .fsub _ => false
  | .fmul _ => false
  | .fmin _ => false
  | .fmax _ => false
  | .ffma _ => false
  | .ffms _ => false
  | .fnma _ => false
  | .fcmpEq _ => false
  | .fcmpNe _ => false
  | .fcmpLt _ => false
  | .fcmpLe _ => false
  | .fcmpGt _ => false
  | .fcmpGe _ => false
  | .fcmpUn _ => false
  | .fcmpOr _ => false
  | .frcp _ => false
  | .frsq _ => false
  | .fsqrt _ => false
  | .fexp2 _ => false
  | .flog2 _ => false
  | .fsin _ => false
  | .fcos _ => false
  | .ftanh _ => false
  | .dadd _ => false
  | .dmul _ => false
  | .dfma _ => false
  | .dmin _ => false
  | .dmax _ => false
  | .hadd2 _ => false
  | .hmul2 _ => false
  | .hfma2 _ => false
  | .hmin2 _ => false
  | .hmax2 _ => false
  | .badd2 _ => false
  | .bmul2 _ => false
  | .bfma2 _ => false
  | .bdot2 _ => false
  | .cvt _ => false
  | .t8unpk _ => false
  | .t6unpk _ => false
  | .i4unpk _ => false
  | .npk _ => false
  | .ldB8 _ => true
  | .ldB16 _ => true
  | .ldB32 _ => true
  | .ldB64 _ => true
  | .ldB128 _ => true
  | .ldS8 _ => true
  | .ldS16 _ => true
  | .stB8 _ => false
  | .stB16 _ => false
  | .stB32 _ => false
  | .stB64 _ => false
  | .stB128 _ => false
  | .stS8 _ => false
  | .stS16 _ => false
  | .ldsB8 _ => true
  | .ldsB16 _ => true
  | .ldsB32 _ => true
  | .ldsB64 _ => true
  | .ldsB128 _ => true
  | .ldsS8 _ => true
  | .ldsS16 _ => true
  | .stsB8 _ => false
  | .stsB16 _ => false
  | .stsB32 _ => false
  | .stsB64 _ => false
  | .stsB128 _ => false
  | .stsS8 _ => false
  | .stsS16 _ => false
  | .pref _ => false
  | .clean _ => false
  | .inval _ => false
  | .tdiscard _ => false
  | .tdesc _ => false
  | .tread _ => true
  | .tquery _ => true
  | .cpy _ => false
  | .cpyt _ => false
  | .cpyv _ => false
  | .mma _ => false
  | .mmag _ => false
  | .mzero _ => false
  | .gath _ => true
  | .tld _ => true
  | .mcommit _ => false
  | .mwaitb _ => false
  | .mdrain _ => false
  | .mdraina _ => false
  | .maccr _ => true
  | .maccw _ => false
  | .atomAdd _ => true
  | .atomMin _ => true
  | .atomMax _ => true
  | .atomAnd _ => true
  | .atomOr _ => true
  | .atomXor _ => true
  | .atomExch _ => true
  | .atomCas _ => true
  | .atom64Add _ => true
  | .atom64Min _ => true
  | .atom64Max _ => true
  | .atom64And _ => true
  | .atom64Or _ => true
  | .atom64Xor _ => true
  | .atom64Exch _ => true
  | .atom64Cas _ => true
  | .atomsAdd _ => true
  | .atomsMin _ => true
  | .atomsMax _ => true
  | .atomsAnd _ => true
  | .atomsOr _ => true
  | .atomsXor _ => true
  | .atomsExch _ => true
  | .atomsCas _ => true
  | .atomfFadd32 _ => true
  | .atomfFaddBf2 _ => true
  | .atomfFaddH2 _ => true
  | .atomfFmin32 _ => true
  | .atomfFmax32 _ => true
  | .atomfFadd64 _ => true
  | .chunk _ => true
  | .redAdd _ => false
  | .redMin _ => false
  | .redMax _ => false
  | .redAnd _ => false
  | .redOr _ => false
  | .redXor _ => false
  | .fence _ => false
  | .fenceX _ => false
  | .barArrive _ => false
  | .barWait _ => false
  | .barSync _ => false
  | .mona _ => false
  | .mwait _ => false
  | .waita _ => false
  | .send _ => false
  | .tree _ => true
  | .treew _ => false
  | .beat _ => false
  | .beatd _ => false
  | .rng _ => false
  | .time _ => false
  | .trap _ => false
  | .rtt _ => false
  | .rttSkip _ => false
  | .lmovR _ => false
  | .lmovW _ => false
  | .brk _ => false
  | .resume _ => false
  | .drop _ => false
  | .nop _ => false
  | .packetIssue _ _ => false
  | .countedComplete _ => false
  | .packetCacheFill _ => false
  | .brandFill _ => false
  | .pcTableEvict _ => false
  | .reconRelease _ _ => false
  | .teamForm _ => false
  | .teamFree _ => false
  | .shapeSpill _ _ => false
  | .spillReturn _ => false
  | .spillReload _ _ => false
  | .qtailWrite _ _ _ => false
  | .queueService _ => false
  | .ringWatchTimeout _ => false
  | .headWriteback _ => false
  | .headWritebackRetry _ _ => false
  | .queueEnable _ _ => false
  | .queueDisable _ _ => false
  | .queueRestart _ _ => false
  | .queueRestartSkip _ _ => false
  | .launchStart _ => false
  | .waitwCheck _ => false
  | .waitwTimeout _ => false
  | .signalStore _ => false
  | .graphLoop _ => false
  | .graphEnd _ => false
  | .replicationReceive _ => false
  | .startReady _ _ _ => false
  | .startReleaseReceive _ _ _ => false
  | .startBarrierIssue _ => false
  | .startBarrierTimeout _ => false
  | .startAbortReceive _ _ => false
  | .ctxCreate _ _ => false
  | .ctxReload _ _ => false
  | .ctxDestroy _ _ => false
  | .ctxCmdNone _ _ => false
  | .standPlace _ => false
  | .partitionWrite _ _ _ => false
  | .epochBoundary => false
  | .chunkRequest _ => false
  | .clusterLend _ => false
  | .clusterReclaim _ => false
  | .reclaimHandover _ => false
  | .intervalBoundary _ => false
  | .mergeCountReceive _ _ _ _ => false
  | .mergeMinimumSend _ => false
  | .mergeResultReceive _ _ _ => false
  | .loopStep _ => false
  | .umpireRound => false
  | .clockStepApply _ => false
  | .intervalWrite _ _ _ => false
  | .loopSave _ _ => false
  | .loopClear _ _ => false
  | .actuatorLimitWrite _ _ _ _ => false
  | .btFieldWrite _ _ _ _ => false
  | .storeAck _ => false
  | .landingFaultPark _ => false
  | .holdQueueRoom _ => false
  | .invalidatePage _ => false
  | .invalidateTag _ => false
  | .invalidateFunction _ => false
  | .invalidateDone _ => false
  | .copyComplete _ => false
  | .ringAppend _ => false
  | .sendStatus _ _ => false
  | .treeContribution _ => false
  | .matrixOpComplete _ => false
  | .batchComplete _ => false
  | .operandFault _ => false
  | .splitkPartArrive _ => false
  | .watchTrigger _ _ _ => false
  | .mwaitTimeout _ _ _ => false
  | .hostWrite _ _ => false
  | .hostRead _ _ => false
  | .peerAccess _ => false
  | .trapDelivery _ _ => false
  | .faultNotice _ => false
  | .ghostDelivery _ _ => false
  | .kill _ _ => false
  | .switchOut _ => false
  | .sliceEnd _ => false
  | .budgetOverrun _ => false
  | .swapIn _ => false
  | .saveWriteDone _ => false
  | .completionPoint _ => false
  | .replicaDone _ _ _ => false
  | .causeEntryClear _ _ => false
  | .vfInterruptInject _ => false
  | .reportRingEnable _ => false
  | .partitionReset _ => false
  | .resetDrainEnd _ => false
  | .vfFlr _ => false
  | .vfDisable => false
  | .vfEnable _ => false
  | .pfReset _ => false
  | .guestTimeApply _ => false
  | .linkDown _ => false
  | .linkUp _ _ => false
  | .timebaseSync _ => false
  | .checkpointSave _ => false
  | .checkpointRestore _ => false
  | .checkpointDone _ => false
  | .expanderDown _ => false
  | .debugStop _ => false
  | .debugRun _ => false
  | .debugStep _ => false
  | .debugRegRead _ => false
  | .debugRegWrite _ _ => false
  | .debugDrainTimeout _ => false
  | .debugArm _ _ => false
  | .freeze => false
  | .eccCorrected => false
  | .eccUncorrectable _ => false
  | .unitFence _ _ => false
  | .patrolScrub => false
  | .powerLimitCross _ => false
  | .thermalShutdown => false
  | .spdmRequest _ => false
  | .bringUp => false
  | .registerWrite _ _ _ => false
  | .expanderUp _ _ => false
  | .thermalLimitReached => false
  | .firmwareUpdateStaged _ => false
  | .ctxCommandDone _ => false
  | .loopSaveDone _ => false
  | .tdiscardDone _ => false
  | .landingsAnswered _ => false

/-- Control-transfer instructions (R108). -/
def Instr.transfers : Instr → Bool
  | .mov _ => false
  | .movS _ => false
  | .sel _ => false
  | .vidxr _ => false
  | .vidxw _ => false
  | .getV _ => false
  | .getS _ => false
  | .put _ => false
  | .iadd _ => false
  | .isub _ => false
  | .iadds _ => false
  | .isubs _ => false
  | .ineg _ => false
  | .iabs _ => false
  | .imin _ => false
  | .imax _ => false
  | .imul _ => false
  | .imulh _ => false
  | .imulhu _ => false
  | .imad _ => false
  | .imadh _ => false
  | .and _ => false
  | .or _ => false
  | .xor _ => false
  | .andn _ => false
  | .orn _ => false
  | .xnor _ => false
  | .shl _ => false
  | .shr _ => false
  | .sar _ => false
  | .rol _ => false
  | .ror _ => false
  | .bfe _ => false
  | .bfeu _ => false
  | .bfi _ => false
  | .popc _ => false
  | .clz _ => false
  | .brev _ => false
  | .prmtB _ => false
  | .prmtN _ => false
  | .icmpEq _ => false
  | .icmpNe _ => false
  | .icmpLt _ => false
  | .icmpLe _ => false
  | .icmpGt _ => false
  | .icmpGe _ => false
  | .icmpLtu _ => false
  | .icmpGeu _ => false
  | .pand _ => false
  | .por _ => false
  | .pxor _ => false
  | .pnot _ => false
  | .pmov _ => false
  | .p2v _ => false
  | .v2p _ => false
  | .aff _ => false
  | .shape _ => false
  | .expand _ => false
  | .squeeze _ => false
  | .shflIdx _ => false
  | .shflUp _ => false
  | .shflDn _ => false
  | .shflXor _ => false
  | .voteAny _ => false
  | .voteAll _ => false
  | .voteBal _ => false
  | .elect _ => false
  | .redxAdd _ => false
  | .redxMin _ => false
  | .redxMax _ => false
  | .redxMinu _ => false
  | .redxMaxu _ => false
  | .redxAnd _ => false
  | .redxOr _ => false
  | .redxFadd _ => false
  | .bra _ => true
  | .brxV _ => true
  | .brxS _ => true
  | .call _ => true
  | .callxV _ => true
  | .callxS _ => true
  | .ret _ => true
  | .recon _ => true
  | .yield _ => true
  | .exit _ => true
  | .join _ => false
  | .leave _ => false
  | .tinfo _ => false
  | .fadd _ => false
  | .fsub _ => false
  | .fmul _ => false
  | .fmin _ => false
  | .fmax _ => false
  | .ffma _ => false
  | .ffms _ => false
  | .fnma _ => false
  | .fcmpEq _ => false
  | .fcmpNe _ => false
  | .fcmpLt _ => false
  | .fcmpLe _ => false
  | .fcmpGt _ => false
  | .fcmpGe _ => false
  | .fcmpUn _ => false
  | .fcmpOr _ => false
  | .frcp _ => false
  | .frsq _ => false
  | .fsqrt _ => false
  | .fexp2 _ => false
  | .flog2 _ => false
  | .fsin _ => false
  | .fcos _ => false
  | .ftanh _ => false
  | .dadd _ => false
  | .dmul _ => false
  | .dfma _ => false
  | .dmin _ => false
  | .dmax _ => false
  | .hadd2 _ => false
  | .hmul2 _ => false
  | .hfma2 _ => false
  | .hmin2 _ => false
  | .hmax2 _ => false
  | .badd2 _ => false
  | .bmul2 _ => false
  | .bfma2 _ => false
  | .bdot2 _ => false
  | .cvt _ => false
  | .t8unpk _ => false
  | .t6unpk _ => false
  | .i4unpk _ => false
  | .npk _ => false
  | .ldB8 _ => false
  | .ldB16 _ => false
  | .ldB32 _ => false
  | .ldB64 _ => false
  | .ldB128 _ => false
  | .ldS8 _ => false
  | .ldS16 _ => false
  | .stB8 _ => false
  | .stB16 _ => false
  | .stB32 _ => false
  | .stB64 _ => false
  | .stB128 _ => false
  | .stS8 _ => false
  | .stS16 _ => false
  | .ldsB8 _ => false
  | .ldsB16 _ => false
  | .ldsB32 _ => false
  | .ldsB64 _ => false
  | .ldsB128 _ => false
  | .ldsS8 _ => false
  | .ldsS16 _ => false
  | .stsB8 _ => false
  | .stsB16 _ => false
  | .stsB32 _ => false
  | .stsB64 _ => false
  | .stsB128 _ => false
  | .stsS8 _ => false
  | .stsS16 _ => false
  | .pref _ => false
  | .clean _ => false
  | .inval _ => false
  | .tdiscard _ => false
  | .tdesc _ => false
  | .tread _ => false
  | .tquery _ => false
  | .cpy _ => false
  | .cpyt _ => false
  | .cpyv _ => false
  | .mma _ => false
  | .mmag _ => false
  | .mzero _ => false
  | .gath _ => false
  | .tld _ => false
  | .mcommit _ => false
  | .mwaitb _ => false
  | .mdrain _ => false
  | .mdraina _ => false
  | .maccr _ => false
  | .maccw _ => false
  | .atomAdd _ => false
  | .atomMin _ => false
  | .atomMax _ => false
  | .atomAnd _ => false
  | .atomOr _ => false
  | .atomXor _ => false
  | .atomExch _ => false
  | .atomCas _ => false
  | .atom64Add _ => false
  | .atom64Min _ => false
  | .atom64Max _ => false
  | .atom64And _ => false
  | .atom64Or _ => false
  | .atom64Xor _ => false
  | .atom64Exch _ => false
  | .atom64Cas _ => false
  | .atomsAdd _ => false
  | .atomsMin _ => false
  | .atomsMax _ => false
  | .atomsAnd _ => false
  | .atomsOr _ => false
  | .atomsXor _ => false
  | .atomsExch _ => false
  | .atomsCas _ => false
  | .atomfFadd32 _ => false
  | .atomfFaddBf2 _ => false
  | .atomfFaddH2 _ => false
  | .atomfFmin32 _ => false
  | .atomfFmax32 _ => false
  | .atomfFadd64 _ => false
  | .chunk _ => false
  | .redAdd _ => false
  | .redMin _ => false
  | .redMax _ => false
  | .redAnd _ => false
  | .redOr _ => false
  | .redXor _ => false
  | .fence _ => false
  | .fenceX _ => false
  | .barArrive _ => false
  | .barWait _ => false
  | .barSync _ => false
  | .mona _ => false
  | .mwait _ => false
  | .waita _ => false
  | .send _ => false
  | .tree _ => false
  | .treew _ => false
  | .beat _ => false
  | .beatd _ => false
  | .rng _ => false
  | .time _ => false
  | .trap _ => true
  | .rtt _ => true
  | .rttSkip _ => true
  | .lmovR _ => false
  | .lmovW _ => false
  | .brk _ => true
  | .resume _ => false
  | .drop _ => false
  | .nop _ => false
  | .packetIssue _ _ => false
  | .countedComplete _ => false
  | .packetCacheFill _ => false
  | .brandFill _ => false
  | .pcTableEvict _ => false
  | .reconRelease _ _ => false
  | .teamForm _ => false
  | .teamFree _ => false
  | .shapeSpill _ _ => false
  | .spillReturn _ => false
  | .spillReload _ _ => false
  | .qtailWrite _ _ _ => false
  | .queueService _ => false
  | .ringWatchTimeout _ => false
  | .headWriteback _ => false
  | .headWritebackRetry _ _ => false
  | .queueEnable _ _ => false
  | .queueDisable _ _ => false
  | .queueRestart _ _ => false
  | .queueRestartSkip _ _ => false
  | .launchStart _ => false
  | .waitwCheck _ => false
  | .waitwTimeout _ => false
  | .signalStore _ => false
  | .graphLoop _ => false
  | .graphEnd _ => false
  | .replicationReceive _ => false
  | .startReady _ _ _ => false
  | .startReleaseReceive _ _ _ => false
  | .startBarrierIssue _ => false
  | .startBarrierTimeout _ => false
  | .startAbortReceive _ _ => false
  | .ctxCreate _ _ => false
  | .ctxReload _ _ => false
  | .ctxDestroy _ _ => false
  | .ctxCmdNone _ _ => false
  | .standPlace _ => false
  | .partitionWrite _ _ _ => false
  | .epochBoundary => false
  | .chunkRequest _ => false
  | .clusterLend _ => false
  | .clusterReclaim _ => false
  | .reclaimHandover _ => false
  | .intervalBoundary _ => false
  | .mergeCountReceive _ _ _ _ => false
  | .mergeMinimumSend _ => false
  | .mergeResultReceive _ _ _ => false
  | .loopStep _ => false
  | .umpireRound => false
  | .clockStepApply _ => false
  | .intervalWrite _ _ _ => false
  | .loopSave _ _ => false
  | .loopClear _ _ => false
  | .actuatorLimitWrite _ _ _ _ => false
  | .btFieldWrite _ _ _ _ => false
  | .storeAck _ => false
  | .landingFaultPark _ => false
  | .holdQueueRoom _ => false
  | .invalidatePage _ => false
  | .invalidateTag _ => false
  | .invalidateFunction _ => false
  | .invalidateDone _ => false
  | .copyComplete _ => false
  | .ringAppend _ => false
  | .sendStatus _ _ => false
  | .treeContribution _ => false
  | .matrixOpComplete _ => false
  | .batchComplete _ => false
  | .operandFault _ => false
  | .splitkPartArrive _ => false
  | .watchTrigger _ _ _ => false
  | .mwaitTimeout _ _ _ => false
  | .hostWrite _ _ => false
  | .hostRead _ _ => false
  | .peerAccess _ => false
  | .trapDelivery _ _ => false
  | .faultNotice _ => false
  | .ghostDelivery _ _ => false
  | .kill _ _ => false
  | .switchOut _ => false
  | .sliceEnd _ => false
  | .budgetOverrun _ => false
  | .swapIn _ => false
  | .saveWriteDone _ => false
  | .completionPoint _ => false
  | .replicaDone _ _ _ => false
  | .causeEntryClear _ _ => false
  | .vfInterruptInject _ => false
  | .reportRingEnable _ => false
  | .partitionReset _ => false
  | .resetDrainEnd _ => false
  | .vfFlr _ => false
  | .vfDisable => false
  | .vfEnable _ => false
  | .pfReset _ => false
  | .guestTimeApply _ => false
  | .linkDown _ => false
  | .linkUp _ _ => false
  | .timebaseSync _ => false
  | .checkpointSave _ => false
  | .checkpointRestore _ => false
  | .checkpointDone _ => false
  | .expanderDown _ => false
  | .debugStop _ => false
  | .debugRun _ => false
  | .debugStep _ => false
  | .debugRegRead _ => false
  | .debugRegWrite _ _ => false
  | .debugDrainTimeout _ => false
  | .debugArm _ _ => false
  | .freeze => false
  | .eccCorrected => false
  | .eccUncorrectable _ => false
  | .unitFence _ _ => false
  | .patrolScrub => false
  | .powerLimitCross _ => false
  | .thermalShutdown => false
  | .spdmRequest _ => false
  | .bringUp => false
  | .registerWrite _ _ _ => false
  | .expanderUp _ _ => false
  | .thermalLimitReached => false
  | .firmwareUpdateStaged _ => false
  | .ctxCommandDone _ => false
  | .loopSaveDone _ => false
  | .tdiscardDone _ => false
  | .landingsAnswered _ => false

/-- The pipe of the major (R114). -/
def Instr.pipe : Instr → Pipe
  | .mov _ => .a
  | .movS _ => .a
  | .sel _ => .a
  | .vidxr _ => .a
  | .vidxw _ => .a
  | .getV _ => .a
  | .getS _ => .a
  | .put _ => .a
  | .iadd _ => .a
  | .isub _ => .a
  | .iadds _ => .a
  | .isubs _ => .a
  | .ineg _ => .a
  | .iabs _ => .a
  | .imin _ => .a
  | .imax _ => .a
  | .imul _ => .a
  | .imulh _ => .a
  | .imulhu _ => .a
  | .imad _ => .a
  | .imadh _ => .a
  | .and _ => .a
  | .or _ => .a
  | .xor _ => .a
  | .andn _ => .a
  | .orn _ => .a
  | .xnor _ => .a
  | .shl _ => .a
  | .shr _ => .a
  | .sar _ => .a
  | .rol _ => .a
  | .ror _ => .a
  | .bfe _ => .a
  | .bfeu _ => .a
  | .bfi _ => .a
  | .popc _ => .a
  | .clz _ => .a
  | .brev _ => .a
  | .prmtB _ => .a
  | .prmtN _ => .a
  | .icmpEq _ => .a
  | .icmpNe _ => .a
  | .icmpLt _ => .a
  | .icmpLe _ => .a
  | .icmpGt _ => .a
  | .icmpGe _ => .a
  | .icmpLtu _ => .a
  | .icmpGeu _ => .a
  | .pand _ => .a
  | .por _ => .a
  | .pxor _ => .a
  | .pnot _ => .a
  | .pmov _ => .a
  | .p2v _ => .a
  | .v2p _ => .a
  | .aff _ => .a
  | .shape _ => .a
  | .expand _ => .a
  | .squeeze _ => .a
  | .shflIdx _ => .c
  | .shflUp _ => .c
  | .shflDn _ => .c
  | .shflXor _ => .c
  | .voteAny _ => .c
  | .voteAll _ => .c
  | .voteBal _ => .c
  | .elect _ => .c
  | .redxAdd _ => .c
  | .redxMin _ => .c
  | .redxMax _ => .c
  | .redxMinu _ => .c
  | .redxMaxu _ => .c
  | .redxAnd _ => .c
  | .redxOr _ => .c
  | .redxFadd _ => .c
  | .bra _ => .c
  | .brxV _ => .c
  | .brxS _ => .c
  | .call _ => .c
  | .callxV _ => .c
  | .callxS _ => .c
  | .ret _ => .c
  | .recon _ => .c
  | .yield _ => .c
  | .exit _ => .c
  | .join _ => .c
  | .leave _ => .c
  | .tinfo _ => .c
  | .fadd _ => .f
  | .fsub _ => .f
  | .fmul _ => .f
  | .fmin _ => .f
  | .fmax _ => .f
  | .ffma _ => .f
  | .ffms _ => .f
  | .fnma _ => .f
  | .fcmpEq _ => .f
  | .fcmpNe _ => .f
  | .fcmpLt _ => .f
  | .fcmpLe _ => .f
  | .fcmpGt _ => .f
  | .fcmpGe _ => .f
  | .fcmpUn _ => .f
  | .fcmpOr _ => .f
  | .frcp _ => .f
  | .frsq _ => .f
  | .fsqrt _ => .f
  | .fexp2 _ => .f
  | .flog2 _ => .f
  | .fsin _ => .f
  | .fcos _ => .f
  | .ftanh _ => .f
  | .dadd _ => .f
  | .dmul _ => .f
  | .dfma _ => .f
  | .dmin _ => .f
  | .dmax _ => .f
  | .hadd2 _ => .f
  | .hmul2 _ => .f
  | .hfma2 _ => .f
  | .hmin2 _ => .f
  | .hmax2 _ => .f
  | .badd2 _ => .f
  | .bmul2 _ => .f
  | .bfma2 _ => .f
  | .bdot2 _ => .f
  | .cvt _ => .f
  | .t8unpk _ => .f
  | .t6unpk _ => .f
  | .i4unpk _ => .f
  | .npk _ => .f
  | .ldB8 _ => .m
  | .ldB16 _ => .m
  | .ldB32 _ => .m
  | .ldB64 _ => .m
  | .ldB128 _ => .m
  | .ldS8 _ => .m
  | .ldS16 _ => .m
  | .stB8 _ => .m
  | .stB16 _ => .m
  | .stB32 _ => .m
  | .stB64 _ => .m
  | .stB128 _ => .m
  | .stS8 _ => .m
  | .stS16 _ => .m
  | .ldsB8 _ => .m
  | .ldsB16 _ => .m
  | .ldsB32 _ => .m
  | .ldsB64 _ => .m
  | .ldsB128 _ => .m
  | .ldsS8 _ => .m
  | .ldsS16 _ => .m
  | .stsB8 _ => .m
  | .stsB16 _ => .m
  | .stsB32 _ => .m
  | .stsB64 _ => .m
  | .stsB128 _ => .m
  | .stsS8 _ => .m
  | .stsS16 _ => .m
  | .pref _ => .m
  | .clean _ => .m
  | .inval _ => .m
  | .tdiscard _ => .m
  | .tdesc _ => .m
  | .tread _ => .m
  | .tquery _ => .m
  | .cpy _ => .x
  | .cpyt _ => .x
  | .cpyv _ => .x
  | .mma _ => .x
  | .mmag _ => .x
  | .mzero _ => .x
  | .gath _ => .x
  | .tld _ => .x
  | .mcommit _ => .x
  | .mwaitb _ => .x
  | .mdrain _ => .x
  | .mdraina _ => .x
  | .maccr _ => .x
  | .maccw _ => .x
  | .atomAdd _ => .m
  | .atomMin _ => .m
  | .atomMax _ => .m
  | .atomAnd _ => .m
  | .atomOr _ => .m
  | .atomXor _ => .m
  | .atomExch _ => .m
  | .atomCas _ => .m
  | .atom64Add _ => .m
  | .atom64Min _ => .m
  | .atom64Max _ => .m
  | .atom64And _ => .m
  | .atom64Or _ => .m
  | .atom64Xor _ => .m
  | .atom64Exch _ => .m
  | .atom64Cas _ => .m
  | .atomsAdd _ => .m
  | .atomsMin _ => .m
  | .atomsMax _ => .m
  | .atomsAnd _ => .m
  | .atomsOr _ => .m
  | .atomsXor _ => .m
  | .atomsExch _ => .m
  | .atomsCas _ => .m
  | .atomfFadd32 _ => .m
  | .atomfFaddBf2 _ => .m
  | .atomfFaddH2 _ => .m
  | .atomfFmin32 _ => .m
  | .atomfFmax32 _ => .m
  | .atomfFadd64 _ => .m
  | .chunk _ => .m
  | .redAdd _ => .m
  | .redMin _ => .m
  | .redMax _ => .m
  | .redAnd _ => .m
  | .redOr _ => .m
  | .redXor _ => .m
  | .fence _ => .m
  | .fenceX _ => .m
  | .barArrive _ => .m
  | .barWait _ => .m
  | .barSync _ => .m
  | .mona _ => .m
  | .mwait _ => .m
  | .waita _ => .m
  | .send _ => .c
  | .tree _ => .c
  | .treew _ => .c
  | .beat _ => .c
  | .beatd _ => .c
  | .rng _ => .c
  | .time _ => .c
  | .trap _ => .c
  | .rtt _ => .c
  | .rttSkip _ => .c
  | .lmovR _ => .c
  | .lmovW _ => .c
  | .brk _ => .c
  | .resume _ => .c
  | .drop _ => .c
  | .nop _ => .c
  | .packetIssue _ _ => .c
  | .countedComplete _ => .c
  | .packetCacheFill _ => .c
  | .brandFill _ => .c
  | .pcTableEvict _ => .c
  | .reconRelease _ _ => .c
  | .teamForm _ => .c
  | .teamFree _ => .c
  | .shapeSpill _ _ => .c
  | .spillReturn _ => .c
  | .spillReload _ _ => .c
  | .qtailWrite _ _ _ => .c
  | .queueService _ => .c
  | .ringWatchTimeout _ => .c
  | .headWriteback _ => .c
  | .headWritebackRetry _ _ => .c
  | .queueEnable _ _ => .c
  | .queueDisable _ _ => .c
  | .queueRestart _ _ => .c
  | .queueRestartSkip _ _ => .c
  | .launchStart _ => .c
  | .waitwCheck _ => .c
  | .waitwTimeout _ => .c
  | .signalStore _ => .c
  | .graphLoop _ => .c
  | .graphEnd _ => .c
  | .replicationReceive _ => .c
  | .startReady _ _ _ => .c
  | .startReleaseReceive _ _ _ => .c
  | .startBarrierIssue _ => .c
  | .startBarrierTimeout _ => .c
  | .startAbortReceive _ _ => .c
  | .ctxCreate _ _ => .c
  | .ctxReload _ _ => .c
  | .ctxDestroy _ _ => .c
  | .ctxCmdNone _ _ => .c
  | .standPlace _ => .c
  | .partitionWrite _ _ _ => .c
  | .epochBoundary => .c
  | .chunkRequest _ => .c
  | .clusterLend _ => .c
  | .clusterReclaim _ => .c
  | .reclaimHandover _ => .c
  | .intervalBoundary _ => .c
  | .mergeCountReceive _ _ _ _ => .c
  | .mergeMinimumSend _ => .c
  | .mergeResultReceive _ _ _ => .c
  | .loopStep _ => .c
  | .umpireRound => .c
  | .clockStepApply _ => .c
  | .intervalWrite _ _ _ => .c
  | .loopSave _ _ => .c
  | .loopClear _ _ => .c
  | .actuatorLimitWrite _ _ _ _ => .c
  | .btFieldWrite _ _ _ _ => .c
  | .storeAck _ => .c
  | .landingFaultPark _ => .c
  | .holdQueueRoom _ => .c
  | .invalidatePage _ => .c
  | .invalidateTag _ => .c
  | .invalidateFunction _ => .c
  | .invalidateDone _ => .c
  | .copyComplete _ => .c
  | .ringAppend _ => .c
  | .sendStatus _ _ => .c
  | .treeContribution _ => .c
  | .matrixOpComplete _ => .c
  | .batchComplete _ => .c
  | .operandFault _ => .c
  | .splitkPartArrive _ => .c
  | .watchTrigger _ _ _ => .c
  | .mwaitTimeout _ _ _ => .c
  | .hostWrite _ _ => .c
  | .hostRead _ _ => .c
  | .peerAccess _ => .c
  | .trapDelivery _ _ => .c
  | .faultNotice _ => .c
  | .ghostDelivery _ _ => .c
  | .kill _ _ => .c
  | .switchOut _ => .c
  | .sliceEnd _ => .c
  | .budgetOverrun _ => .c
  | .swapIn _ => .c
  | .saveWriteDone _ => .c
  | .completionPoint _ => .c
  | .replicaDone _ _ _ => .c
  | .causeEntryClear _ _ => .c
  | .vfInterruptInject _ => .c
  | .reportRingEnable _ => .c
  | .partitionReset _ => .c
  | .resetDrainEnd _ => .c
  | .vfFlr _ => .c
  | .vfDisable => .c
  | .vfEnable _ => .c
  | .pfReset _ => .c
  | .guestTimeApply _ => .c
  | .linkDown _ => .c
  | .linkUp _ _ => .c
  | .timebaseSync _ => .c
  | .checkpointSave _ => .c
  | .checkpointRestore _ => .c
  | .checkpointDone _ => .c
  | .expanderDown _ => .c
  | .debugStop _ => .c
  | .debugRun _ => .c
  | .debugStep _ => .c
  | .debugRegRead _ => .c
  | .debugRegWrite _ _ => .c
  | .debugDrainTimeout _ => .c
  | .debugArm _ _ => .c
  | .freeze => .c
  | .eccCorrected => .c
  | .eccUncorrectable _ => .c
  | .unitFence _ _ => .c
  | .patrolScrub => .c
  | .powerLimitCross _ => .c
  | .thermalShutdown => .c
  | .spdmRequest _ => .c
  | .bringUp => .c
  | .registerWrite _ _ _ => .c
  | .expanderUp _ _ => .c
  | .thermalLimitReached => .c
  | .firmwareUpdateStaged _ => .c
  | .ctxCommandDone _ => .c
  | .loopSaveDone _ => .c
  | .tdiscardDone _ => .c
  | .landingsAnswered _ => .c

/-- The chain bit (R107). -/
def Instr.chain : Instr → Nat
  | .mov x => x.c
  | .movS x => x.c
  | .sel x => x.c
  | .vidxr x => x.c
  | .vidxw x => x.c
  | .getV x => x.c
  | .getS x => x.c
  | .put x => x.c
  | .iadd x => x.c
  | .isub x => x.c
  | .iadds x => x.c
  | .isubs x => x.c
  | .ineg x => x.c
  | .iabs x => x.c
  | .imin x => x.c
  | .imax x => x.c
  | .imul x => x.c
  | .imulh x => x.c
  | .imulhu x => x.c
  | .imad x => x.c
  | .imadh x => x.c
  | .and x => x.c
  | .or x => x.c
  | .xor x => x.c
  | .andn x => x.c
  | .orn x => x.c
  | .xnor x => x.c
  | .shl x => x.c
  | .shr x => x.c
  | .sar x => x.c
  | .rol x => x.c
  | .ror x => x.c
  | .bfe x => x.c
  | .bfeu x => x.c
  | .bfi x => x.c
  | .popc x => x.c
  | .clz x => x.c
  | .brev x => x.c
  | .prmtB x => x.c
  | .prmtN x => x.c
  | .icmpEq x => x.c
  | .icmpNe x => x.c
  | .icmpLt x => x.c
  | .icmpLe x => x.c
  | .icmpGt x => x.c
  | .icmpGe x => x.c
  | .icmpLtu x => x.c
  | .icmpGeu x => x.c
  | .pand x => x.c
  | .por x => x.c
  | .pxor x => x.c
  | .pnot x => x.c
  | .pmov x => x.c
  | .p2v x => x.c
  | .v2p x => x.c
  | .aff x => x.c
  | .shape x => x.c
  | .expand x => x.c
  | .squeeze x => x.c
  | .shflIdx x => x.c
  | .shflUp x => x.c
  | .shflDn x => x.c
  | .shflXor x => x.c
  | .voteAny x => x.c
  | .voteAll x => x.c
  | .voteBal x => x.c
  | .elect x => x.c
  | .redxAdd x => x.c
  | .redxMin x => x.c
  | .redxMax x => x.c
  | .redxMinu x => x.c
  | .redxMaxu x => x.c
  | .redxAnd x => x.c
  | .redxOr x => x.c
  | .redxFadd x => x.c
  | .bra x => x.c
  | .brxV x => x.c
  | .brxS x => x.c
  | .call x => x.c
  | .callxV x => x.c
  | .callxS x => x.c
  | .ret x => x.c
  | .recon x => x.c
  | .yield x => x.c
  | .exit x => x.c
  | .join x => x.c
  | .leave x => x.c
  | .tinfo x => x.c
  | .fadd x => x.c
  | .fsub x => x.c
  | .fmul x => x.c
  | .fmin x => x.c
  | .fmax x => x.c
  | .ffma x => x.c
  | .ffms x => x.c
  | .fnma x => x.c
  | .fcmpEq x => x.c
  | .fcmpNe x => x.c
  | .fcmpLt x => x.c
  | .fcmpLe x => x.c
  | .fcmpGt x => x.c
  | .fcmpGe x => x.c
  | .fcmpUn x => x.c
  | .fcmpOr x => x.c
  | .frcp x => x.c
  | .frsq x => x.c
  | .fsqrt x => x.c
  | .fexp2 x => x.c
  | .flog2 x => x.c
  | .fsin x => x.c
  | .fcos x => x.c
  | .ftanh x => x.c
  | .dadd x => x.c
  | .dmul x => x.c
  | .dfma x => x.c
  | .dmin x => x.c
  | .dmax x => x.c
  | .hadd2 x => x.c
  | .hmul2 x => x.c
  | .hfma2 x => x.c
  | .hmin2 x => x.c
  | .hmax2 x => x.c
  | .badd2 x => x.c
  | .bmul2 x => x.c
  | .bfma2 x => x.c
  | .bdot2 x => x.c
  | .cvt x => x.c
  | .t8unpk x => x.c
  | .t6unpk x => x.c
  | .i4unpk x => x.c
  | .npk x => x.c
  | .ldB8 x => x.c
  | .ldB16 x => x.c
  | .ldB32 x => x.c
  | .ldB64 x => x.c
  | .ldB128 x => x.c
  | .ldS8 x => x.c
  | .ldS16 x => x.c
  | .stB8 x => x.c
  | .stB16 x => x.c
  | .stB32 x => x.c
  | .stB64 x => x.c
  | .stB128 x => x.c
  | .stS8 x => x.c
  | .stS16 x => x.c
  | .ldsB8 x => x.c
  | .ldsB16 x => x.c
  | .ldsB32 x => x.c
  | .ldsB64 x => x.c
  | .ldsB128 x => x.c
  | .ldsS8 x => x.c
  | .ldsS16 x => x.c
  | .stsB8 x => x.c
  | .stsB16 x => x.c
  | .stsB32 x => x.c
  | .stsB64 x => x.c
  | .stsB128 x => x.c
  | .stsS8 x => x.c
  | .stsS16 x => x.c
  | .pref x => x.c
  | .clean x => x.c
  | .inval x => x.c
  | .tdiscard x => x.c
  | .tdesc x => x.c
  | .tread x => x.c
  | .tquery x => x.c
  | .cpy x => x.c
  | .cpyt x => x.c
  | .cpyv x => x.c
  | .mma x => x.c
  | .mmag x => x.c
  | .mzero x => x.c
  | .gath x => x.c
  | .tld x => x.c
  | .mcommit x => x.c
  | .mwaitb x => x.c
  | .mdrain x => x.c
  | .mdraina x => x.c
  | .maccr x => x.c
  | .maccw x => x.c
  | .atomAdd x => x.c
  | .atomMin x => x.c
  | .atomMax x => x.c
  | .atomAnd x => x.c
  | .atomOr x => x.c
  | .atomXor x => x.c
  | .atomExch x => x.c
  | .atomCas x => x.c
  | .atom64Add x => x.c
  | .atom64Min x => x.c
  | .atom64Max x => x.c
  | .atom64And x => x.c
  | .atom64Or x => x.c
  | .atom64Xor x => x.c
  | .atom64Exch x => x.c
  | .atom64Cas x => x.c
  | .atomsAdd x => x.c
  | .atomsMin x => x.c
  | .atomsMax x => x.c
  | .atomsAnd x => x.c
  | .atomsOr x => x.c
  | .atomsXor x => x.c
  | .atomsExch x => x.c
  | .atomsCas x => x.c
  | .atomfFadd32 x => x.c
  | .atomfFaddBf2 x => x.c
  | .atomfFaddH2 x => x.c
  | .atomfFmin32 x => x.c
  | .atomfFmax32 x => x.c
  | .atomfFadd64 x => x.c
  | .chunk x => x.c
  | .redAdd x => x.c
  | .redMin x => x.c
  | .redMax x => x.c
  | .redAnd x => x.c
  | .redOr x => x.c
  | .redXor x => x.c
  | .fence x => x.c
  | .fenceX x => x.c
  | .barArrive x => x.c
  | .barWait x => x.c
  | .barSync x => x.c
  | .mona x => x.c
  | .mwait x => x.c
  | .waita x => x.c
  | .send x => x.c
  | .tree x => x.c
  | .treew x => x.c
  | .beat x => x.c
  | .beatd x => x.c
  | .rng x => x.c
  | .time x => x.c
  | .trap x => x.c
  | .rtt x => x.c
  | .rttSkip x => x.c
  | .lmovR x => x.c
  | .lmovW x => x.c
  | .brk x => x.c
  | .resume x => x.c
  | .drop x => x.c
  | .nop x => x.c
  | .packetIssue _ _ => 0
  | .countedComplete _ => 0
  | .packetCacheFill _ => 0
  | .brandFill _ => 0
  | .pcTableEvict _ => 0
  | .reconRelease _ _ => 0
  | .teamForm _ => 0
  | .teamFree _ => 0
  | .shapeSpill _ _ => 0
  | .spillReturn _ => 0
  | .spillReload _ _ => 0
  | .qtailWrite _ _ _ => 0
  | .queueService _ => 0
  | .ringWatchTimeout _ => 0
  | .headWriteback _ => 0
  | .headWritebackRetry _ _ => 0
  | .queueEnable _ _ => 0
  | .queueDisable _ _ => 0
  | .queueRestart _ _ => 0
  | .queueRestartSkip _ _ => 0
  | .launchStart _ => 0
  | .waitwCheck _ => 0
  | .waitwTimeout _ => 0
  | .signalStore _ => 0
  | .graphLoop _ => 0
  | .graphEnd _ => 0
  | .replicationReceive _ => 0
  | .startReady _ _ _ => 0
  | .startReleaseReceive _ _ _ => 0
  | .startBarrierIssue _ => 0
  | .startBarrierTimeout _ => 0
  | .startAbortReceive _ _ => 0
  | .ctxCreate _ _ => 0
  | .ctxReload _ _ => 0
  | .ctxDestroy _ _ => 0
  | .ctxCmdNone _ _ => 0
  | .standPlace _ => 0
  | .partitionWrite _ _ _ => 0
  | .epochBoundary => 0
  | .chunkRequest _ => 0
  | .clusterLend _ => 0
  | .clusterReclaim _ => 0
  | .reclaimHandover _ => 0
  | .intervalBoundary _ => 0
  | .mergeCountReceive _ _ _ _ => 0
  | .mergeMinimumSend _ => 0
  | .mergeResultReceive _ _ _ => 0
  | .loopStep _ => 0
  | .umpireRound => 0
  | .clockStepApply _ => 0
  | .intervalWrite _ _ _ => 0
  | .loopSave _ _ => 0
  | .loopClear _ _ => 0
  | .actuatorLimitWrite _ _ _ _ => 0
  | .btFieldWrite _ _ _ _ => 0
  | .storeAck _ => 0
  | .landingFaultPark _ => 0
  | .holdQueueRoom _ => 0
  | .invalidatePage _ => 0
  | .invalidateTag _ => 0
  | .invalidateFunction _ => 0
  | .invalidateDone _ => 0
  | .copyComplete _ => 0
  | .ringAppend _ => 0
  | .sendStatus _ _ => 0
  | .treeContribution _ => 0
  | .matrixOpComplete _ => 0
  | .batchComplete _ => 0
  | .operandFault _ => 0
  | .splitkPartArrive _ => 0
  | .watchTrigger _ _ _ => 0
  | .mwaitTimeout _ _ _ => 0
  | .hostWrite _ _ => 0
  | .hostRead _ _ => 0
  | .peerAccess _ => 0
  | .trapDelivery _ _ => 0
  | .faultNotice _ => 0
  | .ghostDelivery _ _ => 0
  | .kill _ _ => 0
  | .switchOut _ => 0
  | .sliceEnd _ => 0
  | .budgetOverrun _ => 0
  | .swapIn _ => 0
  | .saveWriteDone _ => 0
  | .completionPoint _ => 0
  | .replicaDone _ _ _ => 0
  | .causeEntryClear _ _ => 0
  | .vfInterruptInject _ => 0
  | .reportRingEnable _ => 0
  | .partitionReset _ => 0
  | .resetDrainEnd _ => 0
  | .vfFlr _ => 0
  | .vfDisable => 0
  | .vfEnable _ => 0
  | .pfReset _ => 0
  | .guestTimeApply _ => 0
  | .linkDown _ => 0
  | .linkUp _ _ => 0
  | .timebaseSync _ => 0
  | .checkpointSave _ => 0
  | .checkpointRestore _ => 0
  | .checkpointDone _ => 0
  | .expanderDown _ => 0
  | .debugStop _ => 0
  | .debugRun _ => 0
  | .debugStep _ => 0
  | .debugRegRead _ => 0
  | .debugRegWrite _ _ => 0
  | .debugDrainTimeout _ => 0
  | .debugArm _ _ => 0
  | .freeze => 0
  | .eccCorrected => 0
  | .eccUncorrectable _ => 0
  | .unitFence _ _ => 0
  | .patrolScrub => 0
  | .powerLimitCross _ => 0
  | .thermalShutdown => 0
  | .spdmRequest _ => 0
  | .bringUp => 0
  | .registerWrite _ _ _ => 0
  | .expanderUp _ _ => 0
  | .thermalLimitReached => 0
  | .firmwareUpdateStaged _ => 0
  | .ctxCommandDone _ => 0
  | .loopSaveDone _ => 0
  | .tdiscardDone _ => 0
  | .landingsAnswered _ => 0

end Sys2Proof
end

