-- ==== Sys2Proof/Machine/Types.lean ====
section
/-! DEFINITION. The records that State is made of: registers by shape, threads, stands, squads, requests, teams, launches. -/
namespace Sys2Proof.Machine

/-- A V register of a stand by its shape (R135): U, A, G8, G16, GR. -/
inductive VReg where
  | u (b : W)
  | a (b s : W)
  | g8 (b : W) (d : List (BitVec 8))
  | g16 (b : W) (d : List (BitVec 16))
  | gr (v : List W)
  deriving DecidableEq, Repr

/-- What a parked thread waits for (R123; PKIND of R380, with the waits of R279, R345 and R385). -/
inductive Wait where
  | mwait | waita | bar | join | gran | mwaitb | leave | delivery | sign | treew | rtt
  deriving DecidableEq, Repr

/-- The state of a thread (R123); issuing: in a squad that is executing its packet; stopped: at a safe point for a switch or a debugger. The state out is the stand's place. -/
inductive TSt where
  | ready
  | stalled
  | issuing
  | held
  | parked (w : Wait)
  | stopped
  | exited
  deriving DecidableEq, Repr

/-- A fault pending on a completion flag (R256, R380 PEND). -/
structure Pend where
  cause : Nat
  acc : Nat
  pkt : Nat
  slot : Nat
  addr : DW
  deriving DecidableEq, Repr

/-- A late fault notice held by a thread (R366): the request and the lane it belongs to. -/
structure Notice where
  req : Nat
  lane : Nat
  cause : Nat
  deriving DecidableEq, Repr

inductive WatchSt where
  | armed | triggered | lost
  deriving DecidableEq, Repr

/-- A watch (R339, R340): the line by tag and virtual address, its scope, the time its line was first armed; gone: its line has left the monitor table, and it was triggered before (R341). -/
structure Watch where
  tag : Nat
  line : Nat
  scope : Nat
  st : WatchSt
  first : Nat
  gone : Bool := false
  deriving DecidableEq, Repr

/-- What the waiting instruction keeps (R341, R342, R288): destination, address, value, a word that has ended a WAITA, the acquire scope, the slot after it. -/
structure WArg where
  d : Nat
  a : Nat
  v : W
  hit : Option W
  acq : Bool
  scp : Nat
  next : Nat
  deriving DecidableEq, Repr

/-- The trap state GET reads (R358): TCAUSE, TPKT, TSLOT, TORD, TADDR. -/
structure Trap where
  tcause : W
  tpkt : W
  tslot : W
  tord : W
  taddr : DW
  deriving DecidableEq, Repr

/-- What the debugger asks of a thread (R423, R424): nothing; held; a step whose first packet is still to issue; a step; a stop before the next packet; a halt or a step to be delivered; a breakpoint at its packet that has been taken already. deliv: delivered in place of holding. -/
inductive Dbgt where
  | none
  | held
  | first (deliv : Bool)
  | step (deliv : Bool)
  | next
  | halt
  | pass
  deriving DecidableEq, Repr

/-- One thread (R123, R380). pc holds bits [55:4] of its packet (R98); slot is its start slot (R124); rs is the return stack, newest first (R171); fell: the cycle at which flag f last fell to n, under 64 f + n (R104, R123). -/
structure Thread where
  st : TSt
  pc : BitVec 52
  slot : Nat
  flags : List Nat
  pend : List (Option Pend)
  rs : List Nat
  trap : Trap
  watch : Option Watch
  barP : Bool
  barPh : Nat
  syncW : Bool
  team : Option Nat
  notices : List Notice
  since : Nat
  dbg : Dbgt
  mwdl : Nat
  lostAt : Option Nat
  w : WArg
  fell : Store Nat := []
  deriving DecidableEq, Repr

/-- One lane of a delivery: what is named, where it returns, and for a late delivery the request it is about (R366). -/
structure DLane where
  lane : Nat
  pkt : Nat
  slot : Nat
  addr : DW
  retPc : BitVec 52
  retSlot : Nat
  req : Option Nat := none
  deriving DecidableEq, Repr

/-- A delivery that waits (R358, R359): cause, KIND, ACC, a ghost delivery (R368), its lanes. -/
structure Delivery where
  cause : Nat
  kind : Nat
  acc : Nat
  ghost : Bool
  lanes : List DLane
  deriving DecidableEq, Repr

/-- The handler block of a stand (R360 to R362, R381). -/
structure Handler where
  whole : Bool
  dv : Delivery
  lane : Nat
  thr : List Thread
  saveS : List W
  saveV : List VReg
  saveP : List W
  scrS : List W
  scrV : List W
  scrP : List Bool
  liveAt : W
  rtt : List (Nat × Bool)
  deriving DecidableEq, Repr

/-- Where a stand on a core is (R123 out, R142): resident; its V registers in the spill record. -/
inductive Place where
  | resident
  | spilled
  deriving DecidableEq, Repr

/-- One stand. ex: the lanes that hold a thread; tcnt: TREE counts of the groups (R345); need: granules a parked expansion waits for (R142); reload: spilled registers a parked instruction waits for; order: its turn to return from spill (R143); rcause, full: RCAUSE and a full save (R379); raised: the sticky flags that floating-point instructions of one bundle have raised, with the squad's number and the bundle's first slot (R152); grant: granules kept for an expansion that has parked, with the lanes that make it (R143); forced: spilled for another context (R142 step 3). -/
structure Stand where
  launch : Nat
  num : Nat
  ex : W
  place : Place
  v : List VReg
  s : List W
  p : List W
  fstk : BitVec 3
  thr : List Thread
  dl : List Delivery
  h : Option Handler
  tmaska : W
  tmaskf : W
  tcnt : List Nat
  need : Nat
  reload : List Nat
  order : Nat
  spilledV : List Nat
  rcause : Nat
  full : Bool
  fresh : Bool
  passes : Nat
  raised : Nat × Nat × BitVec 3 := (0, 0, 0)
  grant : Nat × W := (0, 0)
  forced : Bool := false
  deriving DecidableEq, Repr

/-- A squad that is executing its packet (R125, R126): its number, which names the accesses of its instructions together with their slot; its members by stand slot and lane mask, the control word and the three slots, the slot it executes next, the start slot, the first slot of the bundle that it executes (R107), a stall of the slot, and the key of the next request as a waiting release or fence first found it (R316). -/
structure Squad where
  id : Nat
  g : Nat
  launch : Nat
  hdl : Bool
  mem : List (Nat × W)
  pc : BitVec 52
  ctrl : W
  ws : List W
  k : Nat
  start : Nat
  again : Bool
  mark : Option Nat
  b : Nat := 0
  deriving DecidableEq, Repr

/-- Where a scalar or a byte of the memory system lies: device memory, second tier, host memory, a peer chip, die-shared scratch, the doorbell page of a function (R42). -/
inductive Space where
  | dev
  | tier
  | host
  | peer (chip : Nat)
  | dsh (part : Nat) (die : Nat)
  | bell (fn : Nat)
  deriving DecidableEq, Repr

/-- What a request does at its home (R225, R240, R263, R293). -/
inductive ReqKind where
  | store
  | atom (op w : Nat)
  | atomF (op : Nat)
  | cas (w : Nat)
  | chunk
  | red (op : Nat)
  | clean
  | tdesc
  | copy
  | drain
  | drainAdd (fmt : Nat) (rnd : Nat) (fromFmt : Nat)
  deriving DecidableEq, Repr

/-- One lane of a request, and its skid entry (R364): address, data, CAS new value; performed at home; parked in a hold queue with its cause; GHOST and NOTE. -/
structure RLane where
  lane : Nat
  addr : Nat
  data : List Byte
  new : List Byte
  old : List Byte
  done : Bool
  parked : Option Nat
  ghost : Bool
  note : Bool
  deriving DecidableEq, Repr

/-- A request on its way to a home slice: one line of one instruction of one stand (R255, R260). ctx, tag, launch, stand number and slot name the thread (R364); pkt and pslot the instruction; op the counted operation that waits for it; grp joins the requests of one instruction; tid the tensor identifier (R241); cmd a copy command or a drain; seq and last of an ordered drain (R294); np: under an NP entry (R230); psn: its data come from a poisoned line (R431); sq: the squad's number; inSec: its bytes are pending in the sector's local copy too (R312). -/
structure Req where
  g : Nat
  slot : Nat
  ctx : Nat
  tag : Nat
  launch : Nat
  pkt : Nat
  pslot : Nat
  kind : ReqKind
  acc : Nat
  scope : Nat
  rel : Bool
  lanes : List RLane
  op : Option Nat
  tid : Nat
  cmd : Option Nat
  team : Option Nat
  ord : Option (Nat × Bool)
  hdl : Bool
  np : Bool
  psn : Bool := false
  sq : Nat := 0
  inSec : Bool := false
  deriving DecidableEq, Repr

/-- What a counted operation delivers (R103). -/
inductive OpKind where
  | load (w : Nat) (sign : Bool)
  | atom
  | tread (fmt : Nat) (mode : Nat) (sb : Int) (ssb : Int)
  | tquery (sel : Nat) (id : Nat)
  | lds (w : Nat) (sign : Bool)
  | atoms (op : Nat)
  | value
  deriving DecidableEq, Repr

/-- One lane of a counted operation: the bytes still to read (address, length, bit offset of the element), the address of a scale of 2 bytes, what has been read, a fault (cause, address); np: under an NP entry (R230). sscr, snp: the scale lies in scratchpad, or under an NP entry. -/
structure OLane where
  lane : Nat
  addr : Nat
  n : Nat
  bit : Nat
  scale : Option Nat
  got : List Byte
  fault : Option (Nat × Nat)
  np : Bool
  sscr : Bool := false
  snp : Bool := false
  deriving DecidableEq, Repr

/-- A counted operation of one stand that is outstanding (R104, R105): its flag, its destination registers, its participants, the instruction's position; scope of a load (R253); acq: an acquire; scr: in scratchpad. q: the lanes that still take the result; who: those that the issuing squad held with the guard true (R138); sq: the squad's number; counted: its latency has been counted (R90); early: the lanes of each destination register that hold their result before the flag has fallen (R105). -/
structure Op where
  g : Nat
  slot : Nat
  ctx : Nat
  launch : Nat
  pkt : Nat
  pslot : Nat
  kind : OpKind
  d : Nat
  nreg : Nat
  flag : Nat
  q : W
  scope : Nat
  acq : Bool
  tid : Nat
  scr : Bool
  lanes : List OLane
  hdl : Bool
  since : Nat
  sq : Nat := 0
  who : W := 0
  counted : Bool := false
  early : Option (List W) := none
  deriving DecidableEq, Repr

/-- A brand-table entry (R229): page by size code, tag, permissions, NP. -/
structure Brand where
  ctx : Nat
  vpn : Nat
  psz : Nat
  tag : Nat
  rd : Bool
  wr : Bool
  ex : Bool
  at_ : Bool
  mx : Bool
  np : Bool
  deriving DecidableEq, Repr

/-- What a walk answers (R232). -/
structure Leaf where
  size : Nat
  psz : Nat
  frame : Nat
  rd : Bool
  wr : Bool
  ex : Bool
  at_ : Bool
  mx : Bool
  tag : Option Nat
  deriving DecidableEq, Repr

/-- A landing TLB entry (R233). -/
structure Tlb where
  stack : Nat
  tag : Nat
  vpage : Nat
  leaf : Leaf
  deriving DecidableEq, Repr

/-- An owner record of a 64 KiB unit of physical memory at a landing (R224); unit: the unit's number in its space, told apart by the space as homeKey does. -/
structure Owner where
  stack : Nat
  unit : Nat
  ctx : Nat
  tag : Nat
  vpage : Nat
  size : Nat
  deriving DecidableEq, Repr

/-- A cached copy of a line (R226, R227): L1 of a cluster, or a sector's local copy; its bytes and its lease; of a local copy also its tensor identifier (R241), the context that filled it, its last use and its way (R228). -/
structure Copy where
  bytes : List Byte
  lease : Nat
  tid : Nat := 0
  ctx : Nat := 0
  used : Nat := 0
  way : Nat := 0
  deriving DecidableEq, Repr

/-- A line in its home L2 slice (R223, R226, R228, R241): its virtual line and tag, tensor identifier, dirty, and the bytes that the memory behind still holds; the context that filled it, its last use and its way. -/
structure HomeLine where
  tid : Nat
  tag : Nat
  dirty : Bool
  behind : List Byte
  lease : Nat
  line : Nat
  ctx : Nat
  used : Nat
  way : Nat
  deriving DecidableEq, Repr

/-- An address to fetch or to brand for a core; np: fetched under an NP entry (R99, R230). -/
structure Miss where
  g : Nat
  ctx : Nat
  va : Nat
  launch : Nat
  np : Bool := false
  deriving DecidableEq, Repr

/-- A tensor-identifier entry as an engine copies it (R25, R28). -/
structure TEntry where
  base : Nat
  fmt : Nat
  rank : Nat
  scr : Bool
  disc : Bool
  grp : Nat
  sb : Int
  tm : Nat
  tn : Nat
  scid : Nat
  dims : List Nat
  strs : List Int
  deriving DecidableEq, Repr

/-- An engine operand: an entry with its scale entry, its identifier, its depth and its origin along k (R282); a tile with the record it was accepted under; rows of the latch. -/
inductive Operand where
  | none
  | tensor (id : Nat) (e : TEntry) (sc : Option TEntry) (k koff : Nat)
  | tile (i r k fmt : Nat) (sb : Int)
  | latch (k : Nat)
  deriving DecidableEq, Repr

/-- A fault that a batch delivers (R291, R292): cause, address, access kind, the position of the last signer, and the threads it has been delivered to. -/
structure BFault where
  cause : Nat
  addr : Nat
  acc : Nat
  pkt : Nat
  pslot : Nat
  told : List (Nat × Nat × Nat)
  deriving DecidableEq, Repr

/-- An accepted matrix operation (R280, R281). form: 0 MMA, 1 MMAG, 2 MZERO, 3 GATH, 4 TLD, 5 MDRAIN, 6 MDRAINA; i: accumulator, tile or row group; m, n, ty, roff, idx, rnd: from the words of R295; next: the next k-slice (R286), or the lines of a drain that have left; bad: a suspended fault (R291); split: the split-sequence fault of an ordered drain, delivered once the drain has completed (R294); fl: signers whose flags fall at completion; the last signer and its position. -/
structure MOp where
  form : Nat
  i : Nat
  a : Operand
  b : Operand
  m : Nat
  n : Nat
  ty : Nat
  roff : Nat
  idx : List W
  rnd : Nat
  ord : Option (Nat × Bool)
  batch : Nat
  next : Nat
  bad : Option BFault
  split : Option BFault := none
  g : Nat
  slot : Nat
  lane : Nat
  pkt : Nat
  pslot : Nat
  fl : List (Nat × Nat × Nat × Nat)
  signers : List (Nat × Nat × Nat)
  deriving DecidableEq, Repr

/-- A convergence register (R278): idle, or open with its signature and its signers (core, slot, lane), newest last. -/
structure Cv where
  sig : List W
  count : Nat
  signers : List (Nat × Nat × Nat)
  deriving DecidableEq, Repr

/-- A tile's record and its raw elements, row by row (R276). -/
structure Tile where
  r : Nat
  k : Nat
  fmt : Nat
  sb : Int
  el : List Nat
  deriving DecidableEq, Repr

/-- An accumulator's M, N, type and elements (R276, R277). m, n, ty are those of the latest accepted MZERO; the elements are those of the engine's progress. -/
structure Acc where
  m : Nat
  n : Nat
  ty : Nat
  el : List Nat
  deriving DecidableEq, Repr

/-- A batch of a team (R287): its operations not yet completed, the accumulators its operations target, faults of completed drains (R294). -/
structure Batch where
  id : Nat
  left : Nat
  targets : List Nat
  faults : List BFault
  deriving DecidableEq, Repr

/-- A read lock on scratchpad of the home core (R290). -/
structure Lock where
  lo : Nat
  hi : Nat
  batch : Nat
  deriving DecidableEq, Repr

/-- A team record with the matrix state at its home core (R130, R276, R338). ran: its place in the engine's round-robin, which grows with each step the engine makes for it (R281). -/
structure Team where
  cl : Nat
  ctx : Nat
  num : Nat
  size : Nat
  count : Nat
  launch : Nat
  home : Nat
  tiles : Nat
  accs : Nat
  barN : Nat
  barPh : Nat
  cv : List Cv
  tile : List Tile
  acc : List Acc
  latch : List (List W)
  depth : List Nat
  queue : List MOp
  openB : Batch
  batches : List Batch
  nextB : Nat
  locks : List Lock
  saved : Bool
  ran : Nat := 0
  deriving DecidableEq, Repr

/-- A JOIN that waits to form a team (R132). -/
structure JoinWait where
  cl : Nat
  ctx : Nat
  num : Nat
  size : Nat
  g : Nat
  slot : Nat
  lane : Nat
  deriving DecidableEq, Repr

/-- The kernel header as the launch keeps it (R11, R13, R14). -/
structure Header where
  codeOff : Nat
  codeSize : Nat
  entry : Nat
  vregs : Nat
  sregs : Nat
  pregs : Nat
  tiles : Nat
  accs : Nat
  budget : Nat
  stands : Nat
  scratch : Nat
  argsize : Nat
  diag : Nat
  feature : Nat
  sptOff : Nat
  sptCount : Nat
  lvtOff : Nat
  lvtCount : Nat
  deriving DecidableEq, Repr

/-- A safe point's lookup (R21, R22): ordinal and delta, or the address of a fault or an offence. -/
inductive PosRes where
  | ok (ord delta : Nat)
  | bad (addr : Nat)
  deriving DecidableEq, Repr

end Sys2Proof.Machine
end

