-- ==== Sys2Proof/Machine/Records.lean ====
section
/-! DEFINITION. The records of State that describe work from outside the cores: queues, launches, contexts, partitions, functions, the package. -/
namespace Sys2Proof.Machine

/-- A WAITW held at the head of a queue or at a graph node (R47): address, value, timeout, the time of the first read, the line it watches, the time that watch began, whether it has ended. -/
structure WaitW where
  addr : Nat
  value : Nat
  timeout : Nat
  first : Nat
  watch : Nat
  since : Nat
  fired : Bool
  deriving DecidableEq, Repr

/-- A SIGNAL that waits for earlier launches (R48): its order, address, value, IRQ; the graph it belongs to. -/
structure Signal where
  seq : Nat
  addr : Nat
  value : Nat
  irq : Bool
  graph : Option Nat
  deriving DecidableEq, Repr

/-- A running graph (R53): its copied nodes, the walk's node, iterations by LOOP node, a WAITW that holds the walk. -/
structure GraphRun where
  nodes : List (List Byte)
  at_ : Nat
  iters : Store Nat
  waitw : Option WaitW
  done : Bool
  deriving DecidableEq, Repr

/-- A launch queue (R34, R59, R60). fn, num: the function and the number it sees it under. hw: the last head written back (R40); watch: the time its watch on a slot line began, and whether the watch has ended (R39); watchLine the line's virtual address. -/
structure Queue where
  fn : Option Nat
  num : Nat
  base : Nat
  log2 : Nat
  ctx : Nat
  prio : Nat
  devdb : Bool
  en : Bool
  hwb : Nat
  tl : Nat
  h : Nat
  err : Nat
  stop : Bool
  hwbf : Bool
  stale : Nat
  gen : Nat
  rto : Nat
  node : Nat
  hw : Nat
  watch : Option Nat
  watchLine : Nat
  waitw : Option WaitW
  sigs : List Signal
  deriving DecidableEq, Repr

/-- Replication of a launch (R56, R57): origin chip, generation, the set, chips that are ready and done, the release time S, the time of acceptance. -/
structure Repl where
  origin : Nat
  gen : Nat
  first : Nat
  nchip : Nat
  ready : List Nat
  done : List Nat
  release : Option Nat
  since : Nat
  sentReady : Bool
  okey : Nat
  deriving DecidableEq, Repr

/-- The thread, position and address that led to a kill (R400). -/
structure KillPos where
  tlin : Nat
  ord : Nat
  pos : Nat
  addr : Nat
  exited : Bool
  deriving DecidableEq, Repr

/-- An accepted launch that is not finished (R46), a kernel or a graph. number: GET LAUNCH; next: its next stand; last: the core of its previous stand. -/
structure Launch where
  queue : Option Nat
  seq : Nat
  ctx : Nat
  graph : Option GraphRun
  parent : Option Nat
  nodeIx : Nat
  hdr : Header
  code : Nat
  args : Nat
  x : Nat
  y : Nat
  z : Nat
  argb : List Byte
  cpladdr : Nat
  cplval : Nat
  irq : Bool
  dep : Bool
  started : Bool
  order : Nat
  number : Nat
  next : Nat
  last : Option Nat
  waitSince : Nat
  repl : Option Repl
  killing : Bool
  why : Option KillPos
  deriving DecidableEq, Repr

/-- An interval that closed and waits for its step (R78): index, local count, boundary, idle throughout (R79). -/
structure Latch where
  k : Nat
  count : Nat
  b : Nat
  idle : Bool
  deriving DecidableEq, Repr

/-- The beat loop of a context (R81, R91, R94). from_: the boundary that opened the open interval, or when the loop began; targetNow, ontimeNow: TARGET and ONTIME as its latest step took them (R95). act: minimum and maximum of the five actuators; pos: their positions; req: the step's requests; want: the positions a standing request asks for (R87, R92). -/
structure Loop where
  target : Nat
  ontime : Bool
  kp : Nat
  ki : Nat
  ilim : Nat
  smax : Nat
  act : List (Nat × Nat)
  intg : Int
  mlast : Nat
  elast : Int
  ulast : Int
  cur : Nat
  starved : Bool
  satup : Bool
  satdn : Bool
  miss : Bool
  idle : Bool
  clkok : Bool
  shed : Bool
  refused : Bool
  busy : Bool
  bcnt : Nat
  pos : List Nat
  steps : Nat
  starvn : Nat
  laten : Nat
  missn : Nat
  iold : Int
  req : List Int
  posted : Bool
  want : List Nat
  interval : Nat
  newInt : Option (Nat × Nat)
  k : Nat
  active : Bool
  latches : List Latch
  mFirst : Nat
  mN : Nat
  mEn : Bool
  merged : List (Nat × Option Nat)
  counts : List (Nat × Nat × Nat)
  reads : Nat
  past : Nat
  from_ : Nat
  targetNow : Nat
  ontimeNow : Bool
  deriving DecidableEq, Repr

/-- Debug state of a context (R424, R425, R430): DELIV; a stop in force; breakpoints by ordinal and enable; the watched range; RSEL, RDATA; a write that waits for a flag (RSEL, the data, the flag) until a deadline in core cycles; RES, HIT, WHIT; DRAINTO; SMPCTL, LOST and the count of participants by core. -/
structure Dbg where
  deliv : Bool
  stop : Bool
  bp : List (Nat × Bool)
  waddr : Nat
  wcfg : Nat
  rsel : W
  rdata : W
  pend : Option (W × W × Nat)
  drainAt : Nat
  res : Nat
  hit : Nat
  whit : Bool
  drainto : Nat
  smpctl : Nat
  lost : Nat
  smp : Store Nat
  deriving DecidableEq, Repr

/-- A context (R30): its descriptor's fields, its loop, its debug state; started: launches started (R151 LAUNCH); lastCore: the core of its most recent stand (R65). -/
structure Ctx where
  desc : Nat
  fn : Nat
  ctag : Nat
  part : Nat
  cls : Nat
  hmode : Bool
  park : Nat
  ptroot : Nat
  tidbase : Nat
  tvbase : Nat
  savebase : Nat
  budgetc : Nat
  lattgt : Nat
  started : Nat
  lastCore : Option Nat
  loop : Loop
  dbg : Dbg
  deriving DecidableEq, Repr

/-- A partition's registers (R63, R375, R407, R426). -/
structure Part where
  clu : Nat
  l2ways : Nat
  dshare : Nat
  lend : Bool
  borrow : Bool
  refused : Bool
  fn : Nat
  slice : Nat
  armed : Bool
  token : Nat
  resetAt : Option Nat
  deriving DecidableEq, Repr

/-- A function's registers (R61, R234, R402, R412). -/
structure Fn where
  ctxAddr : Nat
  ctxCmd : W
  ctxBusy : Bool
  ctxResult : Nat
  invAddr : Nat
  invCmd : W
  invBusy : Bool
  invRefused : Bool
  rrBase : Nat
  rrLog2 : Nat
  rrEn : Bool
  rrHead : Nat
  rrTail : Nat
  rrDropped : Nat
  gOfs : Nat
  gMul : Nat
  gOfsLive : Nat
  gMulLive : Nat
  deriving DecidableEq, Repr

/-- A set of stands that left a core together (R369, R371): its context, its stands by name, what was saved of each (how, V, S and P registers); in the shadow; being written to the save area; since when it waits. -/
structure OutSet where
  g : Nat
  ctx : Nat
  stands : Store Stand
  sets : Store (Nat × List Nat × List Nat × List Nat)
  shadow : Bool
  writing : Bool
  since : Nat
  deriving DecidableEq, Repr

/-- A switch-out in progress on a core (R371, R372): context, recorded cause, when the budget ends. -/
structure Switch where
  g : Nat
  ctx : Nat
  cause : Nat
  budgetEnd : Option Nat
  past : Bool
  deriving DecidableEq, Repr

/-- A cause-table entry (R404). -/
structure CauseEnt where
  pend : Bool
  mask : Bool
  again : Bool
  part : Nat
  ctx : Nat
  fn : Nat
  deriving DecidableEq, Repr

/-- One piece of a copy: bits from an address (none: zero bits, R273) to an address, in global or scratchpad space; the virtual line of a source or destination that faulted is kept in bad pieces. -/
structure Move where
  src : Option Nat
  srcBit : Nat
  srcScr : Bool
  dst : Nat
  dstBit : Nat
  dstScr : Bool
  nbits : Nat
  lane : Nat
  deriving DecidableEq, Repr

/-- A copy command in progress (R243, R244, R271): the pieces still to move, its completion word, the thread that owns its skid entry; bad when any access faulted; begun: its first unit has moved; it holds one skid entry itself. -/
structure Cpy where
  g : Nat
  slot : Nat
  lane : Nat
  ctx : Nat
  launch : Nat
  pkt : Nat
  pslot : Nat
  moves : List Move
  word : Option (Nat × W)
  bad : Bool
  tid : Nat
  hdl : Bool
  begun : Bool := false
  deriving DecidableEq, Repr

/-- An instruction that stalls its threads at the slot until units answer: SEND (R344), TDISCARD (R265), RESUME and DROP (R387), TDESC (R267). -/
inductive WalkKind where
  | send (msg : RingMsg) (a b : Nat)
  | tdiscard (id tag : Nat)
  | tdesc (req : Nat)
  | hold (drop : Bool) (ctx tag page d : Nat)
  deriving DecidableEq, Repr
/-- One such stall: its thread, and by sq the squad; what it waits for; its answer. -/
structure WalkRec where
  g : Nat
  slot : Nat
  lane : Nat
  hdl : Bool
  kind : WalkKind
  status : Option Nat
  sq : Nat := 0
  deriving DecidableEq, Repr

/-- A hold queue (R236): its landing, the tag, the 64 KiB page, and the parked requests' lanes in order (request, lane). -/
structure Hold where
  stack : Nat
  tag : Nat
  page : Nat
  items : List (Nat × Nat)
  deriving DecidableEq, Repr

/-- A member of a reduction round on this chip (R345): the stand, the predicate, the buffer, the participants, TREE's flag or, for TREEW, none; res: the outcome, once the buffer is written. -/
structure TreeIn where
  g : Nat
  slot : Nat
  launch : Nat
  hdl : Bool
  buf : Nat
  p : Nat
  q : W
  flag : Option Nat
  res : Option Bool
  deriving DecidableEq, Repr
/-- A reduction round (R345): context, group, number; n, LEN, operation and format of its first contribution; the contributions by rank; how many have come; whether one broke the rules; the members here. -/
structure TreeRound where
  ctx : Nat
  grp : Nat
  round : Nat
  n : Nat
  len : Nat
  op : Nat
  fmt : Nat
  vals : Store (List Byte)
  came : Nat
  failed : Bool
  ins : List TreeIn
  deriving DecidableEq, Repr

/-- An order record of ordered split-K (R294): tag and line, expected index; held parts by sequence index, as requests. -/
structure OrdRec where
  tag : Nat
  line : Nat
  expect : Nat
  held : List (Nat × Nat)
  deriving DecidableEq, Repr

/-- A PC-table entry (R124): its key, and its latest issue. The threads it lists are those that are ready or stalled at its key. -/
structure PctEnt where
  launch : Nat
  pc : Nat
  start : Nat
  hdl : Bool
  last : Nat
  deriving DecidableEq, Repr

/-- A thread in a core's overflow queue (R124), with the time it came. -/
structure OverEnt where
  slot : Nat
  lane : Nat
  hdl : Bool
  since : Nat
  deriving DecidableEq, Repr

/-- The issue tables of a core (R124, R126): PC table by entry, overflow queue in arrival order, the round-robin pointer. -/
structure Issue where
  pct : Store PctEnt
  past : List OverEnt
  ptr : Nat
  deriving DecidableEq, Repr

/-- A sampled participant (R430): its request or counted operation and lane, its context, the record's address, the time and position of its issue. -/
structure Sample where
  isReq : Bool
  id : Nat
  g : Nat
  lane : Nat
  ctx : Nat
  launch : Nat
  at_ : Nat
  time : Nat
  addr : Nat
  pkt : Nat
  slot : Nat
  acc : Nat
  deriving DecidableEq, Repr

/-- Messages, records and flits that leave the machine. Flits by kind (R415): 0 a region-3 store; 1 a SEND and 2 its status; 3 a tree contribution and 5 a failed round, bound for the tree; 6 a beat count and 7 a minimum; 10 a replicated launch, 11 ready, 12 release, 13 abort, 14 done; 20 an answer to a region-3 access: 0 with its data, or 1 an error. hostData: the answer to a host read, poisoned or not. -/
inductive Out where
  | msix (fn : Nat) (vec : Nat)
  | record (fn addr : Nat) (bytes : List Byte)
  | flit (chip : Nat) (what : Nat) (args : List Nat)
  | mctp (bytes : List Byte)
  | hostData (bytes : List Byte) (poisoned : Bool)
  deriving DecidableEq, Repr

/-- Who moves next: an executing squad, or a step of the device, or time. -/
inductive Turn where
  | squad (n : Nat)
  | event (e : Ev)
  | tick
  deriving DecidableEq, Repr

end Sys2Proof.Machine
end

