-- ==== Sys2Proof/Machine/State.lean ====
section
/-! DEFINITION. The whole state of the device, the reasons a step can stop, and the state after reset. -/
namespace Sys2Proof.Machine

/-- Why the machine stops with a fault. -/
inductive Fault where
  /-- Raised by no step: every step of the device has a next state. The type keeps one name for what could stop it; safe: nothing goes on. -/
  | badState
  deriving DecidableEq, Repr

/-- Why a step has no meaning. -/
inductive Refusal where
  /-- Raised by an arm of exec whose instruction has no meaning yet; safe: nothing is claimed of it. -/
  | notModelled (mnemonic : String)
  deriving DecidableEq, Repr

/-- Package-wide state (19 R416 to R419, 20 R431 to R437). doorbell: the physical address of the physical function's doorbell page; those of the other functions follow (R42, log 8). -/
structure Pkg where
  ready : Bool
  fwok : Bool
  svn : Nat
  fused : Nat
  image : FwImage
  staged : Option FwImage
  off : Bool
  frozen : Bool
  clockCut : Bool
  chip : Nat
  routes : Store W
  links : Store (Bool × Nat × Nat)
  ports : List (Bool × Nat)
  fenced : List (Nat × Nat)
  ecc : Nat
  scrub : Nat
  ceiling : Nat
  doorbell : Nat
  deriving DecidableEq, Repr

/-- Registers of the physical function (04 R97, 19 R404 to R420, 20 R427 to R430). flr: the functions whose reset is still to finish, in order, each with the partitions still to reset, since flrAt; vfOff: the virtual functions disappear after the last (R410, R411). -/
structure PfRegs where
  cause : Store CauseEnt
  prst : Nat
  prstBusy : Bool
  flr : List (Nat × List Nat)
  flrAt : Nat
  vfOff : Bool
  rstto : Nat
  umpRun : Bool
  clkSup : Nat
  overcommit : Bool
  latMiss : Bool
  rounds : Nat
  c2cap : Nat
  c2capLive : Nat
  calOwn : Store Nat
  calLive : Store Nat
  ckDst : Store Nat
  ckCtl : W
  ckLive : Option Bool
  ckBusy : Bool
  ckRestore : Bool
  ckResult : Nat
  ckMib : Nat
  vfEnable : Bool
  numVfs : Nat
  msix : Store (Nat × Nat × Bool × Bool)
  frz : W
  trBase : Nat
  trCtl : W
  trTail : Nat
  pmSel : Store W
  pmFlt : Store W
  pmc : Store Nat
  deriving DecidableEq, Repr

/-- The whole device. Every table is sparse: an absent key has the reset value that its reader gives. fort: fortieths of a core cycle that have passed on a core that has always run at the clock position of reset; forts: on a core that has run at another (R6, R84). clk, clkPend: the clock positions of cores, and those granted, with the end of the window in which each applies. rr: the queue that each die's front end started a launch of last (R46). -/
structure State where
  now : Nat
  fort : Nat
  forts : Store Nat
  pkg : Pkg
  regs : PfRegs
  fns : Store Fn
  parts : Store Part
  lent : Store Nat
  reclaim : List Nat
  clk : Store Nat
  clkPend : Store (Nat × Nat)
  rr : Store Nat
  queues : Store Queue
  ctxs : Store Ctx
  launches : Store Launch
  stands : Store Stand
  outs : List OutSet
  returning : List (Nat × Nat × Stand)
  switches : List Switch
  resident : Store (Nat × Nat)
  pct : Store Issue
  pcache : Store (List Byte)
  brand : Store (List Brand)
  lru : Store (List (Nat × Nat × Nat))
  misses : Store Miss
  fills : Store Miss
  issue : List Squad
  teams : Store Team
  joins : List JoinWait
  mem : List Host.Cell
  tier : List Host.Cell
  hostMem : List Host.Cell
  dsh : List Host.Cell
  scr : Store (List Host.Cell)
  l1 : Store Copy
  sec : Store Copy
  l2 : Store HomeLine
  poison : List Nat
  tlb : List Tlb
  tcache : Store (List Byte)
  owners : List Owner
  holds : List Hold
  reqs : Store Req
  ops : Store Op
  cpys : Store Cpy
  walks : Store WalkRec
  rounds : List TreeRound
  ordRecs : List OrdRec
  samples : List Sample
  inbox : List Ev
  outbox : List Out
  turn : Turn
  fresh : Nat
  seq : Nat
  deriving DecidableEq, Repr

/-- Registers of a partition at reset (R63, R375, R407, R426). -/
def Part.reset : Part :=
  { clu := 0, l2ways := 16, dshare := 0, lend := false, borrow := false, refused := false, fn := 0, slice := 0, armed := false, token := 0, resetAt := none }

/-- Registers of a function at reset (R61, R234, R402, R412). -/
def Fn.reset : Fn :=
  { ctxAddr := 0, ctxCmd := 0, ctxBusy := false, ctxResult := 0, invAddr := 0, invCmd := 0, invBusy := false, invRefused := false,
    rrBase := 0, rrLog2 := 4, rrEn := false, rrHead := 0, rrTail := 0, rrDropped := 0,
    gOfs := 0, gMul := 0x01000000, gOfsLive := 0, gMulLive := 0x01000000 }

/-- Registers of a queue at reset (R60); a queue that no table lists is the physical function's, under its own number (log 9). -/
def Queue.reset : Queue :=
  { fn := some 0, num := 0, base := 0, log2 := 4, ctx := 0, prio := 1, devdb := false, en := false, hwb := 0, tl := 0, h := 0, err := 0, stop := false,
    hwbf := false, stale := 0, gen := 0, rto := 1000000, node := 0xFFFFFFFF, hw := 0, watch := none, watchLine := 0, waitw := none, sigs := [] }

/-- The package after bring-up (R437). -/
def Pkg.reset : Pkg :=
  { ready := true, fwok := true, svn := 0, fused := 0, image := { good := true, svn := 0, tag := 0 }, staged := none, off := false, frozen := false, clockCut := false,
    chip := 0, routes := [], links := [], ports := [(true, 1024000000000), (true, 1024000000000), (true, 1024000000000), (true, 1024000000000)],
    fenced := [], ecc := 0, scrub := 0, ceiling := 24, doorbell := 0xBFE0000000 }

/-- The physical function's registers at reset. -/
def PfRegs.reset : PfRegs :=
  { cause := [], prst := 0, prstBusy := false, flr := [], flrAt := 0, vfOff := false, rstto := 10000000, umpRun := true, clkSup := 1536, overcommit := false, latMiss := false, rounds := 0,
    c2cap := 1024, c2capLive := 1024, calOwn := [], calLive := [], ckDst := [], ckCtl := 0, ckLive := none, ckBusy := false, ckRestore := false, ckResult := 0, ckMib := 0,
    vfEnable := false, numVfs := 0, msix := [], frz := 0, trBase := 0, trCtl := 0, trTail := 0, pmSel := [], pmFlt := [], pmc := [] }

/-- The device right after a conventional reset and its bring-up (20 R437): READY, no context, no launch, memory zero, every register at its reset value. -/
def State.reset : State :=
  { now := 0, fort := 0, forts := [], pkg := Pkg.reset, regs := PfRegs.reset, fns := [], parts := [], lent := [], reclaim := [], clk := [], clkPend := [], rr := [], queues := [], ctxs := [], launches := [],
    stands := [], outs := [], returning := [], switches := [], resident := [], pct := [], pcache := [], brand := [], lru := [], misses := [], fills := [], issue := [],
    teams := [], joins := [], mem := [], tier := [], hostMem := [], dsh := [], scr := [], l1 := [], sec := [], l2 := [], poison := [], tlb := [], tcache := [], owners := [], holds := [],
    reqs := [], ops := [], cpys := [], walks := [], rounds := [], ordRecs := [], samples := [], inbox := [], outbox := [], turn := .tick, fresh := 0, seq := 0 }

end Sys2Proof.Machine
end

