-- ==== Sys2Proof/Machine/Operands.lean ====
section
/-! DEFINITION. Reading operands and writing registers of one stand: shapes, recompression, full and partial writes (06 R135 to R140). -/
namespace Sys2Proof.Machine

/-- Is a lane in a mask? -/
def inMask (m : W) (l : Nat) : Bool := m.getLsbD l
/-- The 32 lanes. -/
def lanes32 : List Nat := List.range 32
/-- The lanes of a mask, ascending. -/
def lanesOf (m : W) : List Nat := lanes32.filter (inMask m)
/-- The lowest lane of a mask. -/
def lowest (q : W) : Nat := (lanesOf q).headD 0
/-- The mask of one lane. -/
def bit (l : Nat) : W := BitVec.ofNat 32 (2 ^ (l % 32))
/-- The mask of a list of lanes. -/
def maskOf (ls : List Nat) : W := ls.foldl (fun m l => m ||| bit l) 0

/-- The value of a lane by its register's shape (R135). -/
def VReg.lane (r : VReg) (l : Nat) : W :=
  match r with
  | .u b => b
  | .a b s => b + BitVec.ofNat 32 l * s
  | .g8 b d => b + (d.getD l 0).signExtend 32
  | .g16 b d => b + (d.getD l 0).signExtend 32
  | .gr v => v.getD l 0

/-- Shape code (R135). -/
def VReg.code : VReg → Nat
  | .u _ => 0
  | .a _ _ => 1
  | .g8 _ _ => 2
  | .g16 _ _ => 3
  | .gr _ => 4
/-- Pool granules of a shape (R135). -/
def VReg.gran : VReg → Nat
  | .u _ => 1
  | .a _ _ => 2
  | .g8 _ _ => 5
  | .g16 _ _ => 9
  | .gr _ => 16
/-- Base and stride of a register of shape U or A. -/
def VReg.aff : VReg → Option (W × W)
  | .u b => some (b, 0)
  | .a b s => some (b, s)
  | .g8 _ _ => none
  | .g16 _ _ => none
  | .gr _ => none

/-- An A result whose stride is 0 is stored as U (R138). -/
def mkAff (b s : W) : VReg := if s = 0 then .u b else .a b s

/-- The signed difference to a base. -/
def delta (b v : W) : Int := (v - b).toInt

/-- Recompression (R139): the narrowest shape that holds the values of the live lanes; aU and aA say whether U and A are among the shapes tried (R138). -/
def recompress (aU aA : Bool) (live : W) (vals : List W) : VReg :=
  match lanesOf live with
  | [] => .u (vals.getD 0 0)
  | l0 :: ls =>
    let at_ (l : Nat) : W := vals.getD l 0
    let b := at_ l0
    let all := l0 :: ls
    if aU && all.all (fun l => decide (at_ l = b)) then .u b
    else if aA && inMask live 0 && inMask live 1 && all.all (fun l => decide (at_ l = at_ 0 + BitVec.ofNat 32 l * (at_ 1 - at_ 0))) then mkAff (at_ 0) (at_ 1 - at_ 0)
    else if all.all (fun l => decide (-128 ≤ delta b (at_ l) ∧ delta b (at_ l) ≤ 127)) then
      .g8 b (lanes32.map fun l => if inMask live l then (at_ l - b).setWidth 8 else 0)
    else if all.all (fun l => decide (-32768 ≤ delta b (at_ l) ∧ delta b (at_ l) ≤ 32767)) then
      .g16 b (lanes32.map fun l => if inMask live l then (at_ l - b).setWidth 16 else 0)
    else .gr (lanes32.map at_)

/-- How a write decides the shape (R138): a full-stand write takes the recompression row, with A or without, or an A result of given base and stride; part is a write that counts as partial whatever its lanes. -/
inductive ShapeRule where
  | auto
  | noA
  | aff (b s : W)
  | part
  deriving DecidableEq, Repr

/-- A thread that does not exist or has left: exited, everything clear. -/
def Thread.gone : Thread :=
  { st := .exited, pc := 0, slot := 0, flags := List.replicate 12 0, pend := List.replicate 12 none, rs := [],
    trap := { tcause := 0, tpkt := 0, tslot := 0, tord := 0, taddr := 0 }, watch := none, barP := false, barPh := 0, syncW := false, team := none,
    notices := [], since := 0, dbg := .none, mwdl := 0, lostAt := none, w := { d := 0, a := 0, v := 0, hit := none, acq := false, scp := 0, next := 0 } }

/-- The thread of a lane: the program's, or the handler's own (R360). -/
def Stand.t (st : Stand) (hdl : Bool) (l : Nat) : Thread :=
  if hdl then (match st.h with | some h => h.thr.getD l Thread.gone | none => Thread.gone)
  else st.thr.getD l Thread.gone

/-- The live lanes of a stand (R116 live). -/
def Stand.live (st : Stand) : W :=
  maskOf (lanes32.filter fun l => decide ((st.thr.getD l Thread.gone).st ≠ .exited))

/-- Granules a stand holds (R141). A stand whose registers are in its spill record holds none. -/
def Stand.hold (st : Stand) : Nat :=
  match st.place with
  | .resident => ((st.v.mapIdx fun i r => if st.spilledV.contains i then 0 else r.gran)).foldl (· + ·) 0
  | .spilled => 0

/-- V[n] of a lane. -/
def Stand.rv (st : Stand) (n l : Nat) : W := (st.v.getD n (.u 0)).lane l
/-- S[n]. -/
def Stand.rs (st : Stand) (n : Nat) : W := st.s.getD n 0
/-- P[n] of a lane; PT reads 1. -/
def Stand.rp (st : Stand) (n l : Nat) : Bool := if n = 127 then true else inMask (st.p.getD n 0) l

/-- A pair as a double word. -/
def pair (lo hi : W) : DW := BitVec.ofNat 64 (lo.toNat + 2 ^ 32 * hi.toNat)
/-- Low and high word of a double word. -/
def lo32 (x : DW) : W := BitVec.ofNat 32 x.toNat
def hi32 (x : DW) : W := BitVec.ofNat 32 (x.toNat / 2 ^ 32)
/-- V64[n] of a lane and S64[n] (R116). -/
def Stand.rv64 (st : Stand) (n l : Nat) : DW := pair (st.rv n l) (st.rv (n + 1) l)
def Stand.rs64 (st : Stand) (n : Nat) : DW := pair (st.rs n) (st.rs (n + 1))

/-- Operand B or E of a lane (R109, R144). -/
def Stand.src (st : Stand) (b : Src) (l : Nat) : W :=
  match b with
  | .v n => st.rv n l
  | .s n => st.rs n
  | .imm i => BitVec.ofInt 32 i
  | .lit w => w
/-- A 64-bit operand; an immediate or a literal is sign-extended (R111). -/
def Stand.src64 (st : Stand) (b : Src) (l : Nat) : DW :=
  match b with
  | .v n => st.rv64 n l
  | .s n => st.rs64 n
  | .imm i => BitVec.ofInt 64 i
  | .lit w => w.signExtend 64
/-- An operand of the DFP group: an immediate or a literal supplies the high word (R209). -/
def Stand.srcD (st : Stand) (b : Src) (l : Nat) : DW :=
  match b with
  | .v n => st.rv64 n l
  | .s n => st.rs64 n
  | .imm i => pair 0 (BitVec.ofInt 32 i)
  | .lit w => pair 0 w
/-- An operand of the X format (R111), zero-extended. -/
def Stand.xsrc (st : Stand) (b : XSrc) : W :=
  match b with
  | .s n => st.rs n
  | .imm n => BitVec.ofNat 32 n
  | .lit w => w
/-- Base and stride of an operand of shape U or A (R138). -/
def Stand.affOf (st : Stand) (b : Src) : Option (W × W) :=
  match b with
  | .v n => (st.v.getD n (.u 0)).aff
  | .s n => some (st.rs n, 0)
  | .imm i => some (BitVec.ofInt 32 i, 0)
  | .lit w => some (w, 0)
/-- Is an operand of shape U? -/
def Stand.isU (st : Stand) (b : Src) : Bool :=
  match st.affOf b with
  | some (_, s) => decide (s = 0)
  | none => false

/-- Write V[d] in the lanes of q (R138): a full-stand write takes the rule's shape, a partial write the narrowest of G8, G16 and GR. -/
def Stand.wv (st : Stand) (q : W) (d : Nat) (rule : ShapeRule) (f : Nat → W) : Stand :=
  let old := st.v.getD d (.u 0)
  let vals := lanes32.map fun l => if inMask q l then f l else old.lane l
  let r := if st.live &&& ~~~q = 0 then
      (match rule with
        | .auto => recompress true true st.live vals
        | .noA => recompress true false st.live vals
        | .aff b s => mkAff b s
        | .part => recompress false false st.live vals)
    else recompress false false st.live vals
  { st with v := st.v.set d r }
/-- Write a pair of V registers (64-bit rule of R138: never A). -/
def Stand.wv64 (st : Stand) (q : W) (d : Nat) (rule : ShapeRule) (f : Nat → DW) : Stand :=
  (st.wv q d rule fun l => lo32 (f l)).wv q (d + 1) rule fun l => hi32 (f l)
/-- Write S[d]. -/
def Stand.ws (st : Stand) (d : Nat) (x : W) : Stand := { st with s := st.s.set d x }
/-- Write P[d] in the lanes of q. -/
def Stand.wp (st : Stand) (q : W) (d : Nat) (f : Nat → Bool) : Stand :=
  let m := maskOf ((lanesOf q).filter f)
  { st with p := st.p.set d ((st.p.getD d 0 &&& ~~~q) ||| m) }
/-- Raise sticky flags (R184) in a bundle, named by its squad and first slot. -/
def Stand.sticky (st : Stand) (at_ : Nat × Nat) (fl : Flags) : Stand :=
  { st with fstk := st.fstk ||| fl, raised := (at_.1, at_.2, if st.raised.1 = at_.1 ∧ st.raised.2.1 = at_.2 then st.raised.2.2 ||| fl else fl) }
/-- The sticky flags that the bundle at hand has raised so far: they are set after a PUT in it (R152). -/
def Stand.raisedIn (st : Stand) (at_ : Nat × Nat) : Flags := if st.raised.1 = at_.1 ∧ st.raised.2.1 = at_.2 then st.raised.2.2 else 0

/-- The handler's view of a stand in mode 0 (R360, R361): V0 to V3 and P0 to P3 are scratch of shape U, S0 to S3 are scratch; everything else is the stand's own. A ghost delivery reads 0 from V4 upwards (R368). -/
def Stand.view (st : Stand) (h : Handler) : Stand :=
  let vs := st.v.mapIdx fun i r => if i < 4 then VReg.u (h.scrV.getD i 0) else if h.dv.ghost then VReg.u 0 else r
  { st with
    v := (lanes32.take 4).foldl (fun v i => if v.length ≤ i then v ++ [VReg.u (h.scrV.getD i 0)] else v) vs
    p := (lanes32.take 4).foldl (fun p i => p.set i (if h.scrP.getD i false then 0xFFFFFFFF else 0)) st.p
    s := (lanes32.take 4).foldl (fun s i => s.set i (h.scrS.getD i 0)) st.s
    thr := lanes32.map fun l => if l = h.lane then { Thread.gone with st := .ready } else Thread.gone }
/-- What a handler's instruction in mode 0 leaves: the scratch registers, S4 and above, the sticky flags, TMASKA (R361). -/
def Stand.unview (st : Stand) (h : Handler) (w : Stand) : Stand :=
  { st with
    s := (lanes32.take 4).foldl (fun s i => s.set i (st.s.getD i 0)) w.s
    fstk := w.fstk
    raised := w.raised
    tmaska := w.tmaska
    h := some { h with
      scrV := (lanes32.take 4).map fun i => w.rv i h.lane
      scrP := (lanes32.take 4).map fun i => w.rp i h.lane
      scrS := (lanes32.take 4).map fun i => w.rs i } }

end Sys2Proof.Machine
end

