-- ==== Sys2Proof/Machine/Flags.lean ====
section
/-! DEFINITION. The packet and its completion flags: control word, guards, the whole check of a packet, counted instructions (05 R101 to R113). -/
namespace Sys2Proof.Machine

/-- Fields of the control word (R101). -/
def cWait (c : W) : Nat := bits c.toNat 20 12
def cSetA (c : W) : Nat := bits c.toNat 16 4
def cSetB (c : W) : Nat := bits c.toNat 12 4
def cSp (c : W) : Bool := decide (bits c.toNat 11 1 = 1)
def cGp (c : W) : Nat := bits c.toNat 4 7
def cGn (c : W) : Bool := decide (bits c.toNat 3 1 = 1)
def cGm (c : W) : Nat := bits c.toNat 0 3

/-- The lanes in which slot k's guard is true (R102). -/
def Stand.guard (st : Stand) (c : W) (k : Nat) : W :=
  if bits (cGm c) k 1 = 0 then 0xFFFFFFFF
  else
    let m : W := if cGp c = 127 then 0xFFFFFFFF else st.p.getD (cGp c) 0
    if cGn c then ~~~m else m

/-- A packet laid out: its instructions with their slots, or the slot of the first instruction that does not decode or does not fit. -/
inductive Layout where
  | ok (is : List (Nat × Instr))
  | bad (slot : Nat) (before : List (Nat × Instr))
  deriving DecidableEq, Repr

/-- Read the instructions of the slots from k on (R106, R111). -/
def layoutFrom (k : Nat) (acc : List (Nat × Instr)) : Nat → List W → Layout
  | 0, _ => .ok acc.reverse
  | _ + 1, [] => .ok acc.reverse
  | n + 1, ws =>
    match decode ws with
    | none => .bad k acc.reverse
    | some (i, len) => if len = 0 then .bad k acc.reverse else layoutFrom (k + len) ((k, i) :: acc) n (ws.drop len)

/-- The instructions of a packet's three slots. -/
def layout (ws : List W) : Layout := layoutFrom 0 [] 3 ws

/-- The counted instructions of a packet (R103), in slot order. -/
def countedOf (is : List (Nat × Instr)) : List Nat := (is.filter fun p => p.2.counted).map (·.1)

/-- The flag a counted instruction at slot k counts (R103): SETA for the first of the packet, SETB for the second. -/
def flagOf (c : W) (is : List (Nat × Instr)) (k : Nat) : Nat :=
  match countedOf is with
  | a :: _ => if k = a then cSetA c else cSetB c
  | [] => cSetA c

/-- The first member of a bundle whose pipe an earlier member uses, or a chain with nothing after it (R107); whole: the packet's last instruction is the list's last. -/
def chainFault (whole : Bool) (used : List Pipe) : List (Nat × Instr) → Option Nat
  | [] => none
  | (k, i) :: t =>
    if used.contains i.pipe then some k
    else if i.chain = 1 then (if t.isEmpty && whole then some k else chainFault whole (i.pipe :: used) t)
    else chainFault whole [] t

/-- A slot after a control transfer that is no NOP (R108). -/
def transferFault (seen : Bool) : List (Nat × Instr) → Option Nat
  | [] => none
  | (k, i) :: t =>
    if seen && !(match i with | .nop _ => true | _ => false) then some k else transferFault (seen || i.transfers) t

/-- A counted instruction with no flag assigned (R103). -/
def countFault (c : W) (is : List (Nat × Instr)) : Option Nat :=
  match countedOf is with
  | [] => none
  | [a] => if cSetA c = 15 then some a else none
  | a :: b :: t => if cSetA c = 15 then some a else if cSetB c = 15 then some b else t.head?

/-- How many OP values the major map assigns to a major (R114); 0 where the major is reserved. -/
def opCount (maj : Nat) : Nat :=
  if maj = 0x02 ∨ maj = 0x06 ∨ maj = 0x07 ∨ maj = 0x0C ∨ maj = 0x0D ∨ maj = 0x12 ∨ maj = 0x13 ∨ maj = 0x1C ∨ maj = 0x2D ∨ (0x30 ≤ maj ∧ maj ≤ 0x32) then 8
  else if maj = 0x08 ∨ (0x20 ≤ maj ∧ maj ≤ 0x23) ∨ maj = 0x3D then 7
  else if maj = 0x01 ∨ maj = 0x04 ∨ maj = 0x33 ∨ maj = 0x35 then 6
  else if maj = 0x03 ∨ maj = 0x05 ∨ maj = 0x10 ∨ maj = 0x14 ∨ maj = 0x15 then 5
  else if maj = 0x09 ∨ maj = 0x16 ∨ maj = 0x18 ∨ maj = 0x24 ∨ maj = 0x3C then 4
  else if maj = 0x11 ∨ maj = 0x1D ∨ maj = 0x25 ∨ maj = 0x28 ∨ maj = 0x2C ∨ maj = 0x38 ∨ maj = 0x3A ∨ maj = 0x3B then 3
  else if maj = 0x39 then 2
  else if maj = 0x17 ∨ maj = 0x34 ∨ maj = 0x3E then 1
  else 0

/-- The OP field of a word, in its format's place (R109, R111). -/
def opField (f : Fmt) (w : Nat) : Nat :=
  match f with
  | .r => bits w 22 3
  | .m => bits w 22 3
  | .ma => bits w 22 3
  | .b => bits w 21 4
  | .x => bits w 21 4
  | .s => bits w 17 8

/-- The counted instructions by their fields (R103), whether or not the other fields are legal. -/
def countedOp (maj op : Nat) : Bool :=
  decide (maj = 0x20 ∨ maj = 0x22 ∨ (0x30 ≤ maj ∧ maj ≤ 0x34) ∨ (maj = 0x25 ∧ (op = 1 ∨ op = 2))
    ∨ (maj = 0x2D ∧ (op = 0 ∨ op = 1 ∨ op = 6)) ∨ (maj = 0x3B ∧ op = 1))

/-- One literal where the kind bit and the seven bits of an operand call for it (R109). -/
def litOf (k f : Nat) : Nat := if k = 1 ∧ f = 96 then 1 else 0

/-- How many slots the fields of an instruction claim (R110, R111), whether or not they are legal or fit. -/
def slotsOf (f : Fmt) (maj op : Nat) (w0 : Nat) (ws : List W) : Nat :=
  let w1 := (ws.headD 0).toNat
  match f with
  | .r =>
    let b := litOf (bits w0 21 1) (bits w0 0 7)
    if hasExt maj op then 2 + b + litOf (bits w1 7 1) (bits w1 0 7) else 1 + b
  | .m => if 2 ≤ bits w0 0 2 then 2 else 1
  | .ma =>
    let n := if 2 ≤ bits w0 0 2 then 1 else 0
    let s := ((ws.drop n).headD 0).toNat
    2 + n + litOf (bits s 7 1) (bits s 0 7) + litOf (bits s 15 1) (bits s 8 7)
  | .x =>
    let o := xOps maj op (bits w0 0 1)
    1 + (if o.1 ∧ bits w0 8 7 = 127 then 1 else 0) + (if o.2 ∧ bits w0 1 7 = 127 then 1 else 0)
  | .b => 1
  | .s => 1

/-- The slots from k on that hold an instruction, legal or not, each with whether it is counted (R103, R106). A reserved major or an unassigned OP claims no slot but its own. skip: slots still claimed by the instruction before. -/
def slotsFrom (k skip : Nat) : List W → List (Nat × Bool)
  | [] => []
  | w :: ws =>
    match skip with
    | n + 1 => slotsFrom (k + 1) n ws
    | 0 =>
      let maj := bits w.toNat 25 6
      match fmtOf maj with
      | none => (k, false) :: slotsFrom (k + 1) 0 ws
      | some f =>
        let op := opField f w.toNat
        if op < opCount maj then (k, countedOp maj op) :: slotsFrom (k + 1) (slotsOf f maj op w.toNat ws - 1) ws
        else (k, false) :: slotsFrom (k + 1) 0 ws

/-- An offence of the control word alone (R101, R103, R106). is: the slots that hold an instruction, each with whether it is counted. -/
def ctrlFault (c : W) (is : List (Nat × Bool)) : Bool :=
  let n := (is.filter (·.2)).length
  decide (12 ≤ cSetA c ∧ cSetA c ≤ 14) || decide (12 ≤ cSetB c ∧ cSetB c ≤ 14) || decide (96 ≤ cGp c ∧ cGp c ≤ 126)
  || ((List.range 3).any fun k => decide (bits (cGm c) k 1 = 1) && !(is.any fun p => decide (p.1 = k)))
  || (decide (cSetA c < 12) && decide (n < 1)) || (decide (cSetB c < 12) && decide (n < 2))

/-- The least of two places, the control word first. -/
def minSlot (a b : Option Nat) : Option Nat :=
  match a, b with
  | none, y => y
  | x, none => x
  | some x, some y => some (min x y)

/-- The whole check of R112: the place of the first offence, 3 for the control word, which comes first even where a slot holds an offence of its own. -/
def packetFault (c : W) (ws : List W) : Option Nat :=
  match layout ws with
  | .ok is =>
    if ctrlFault c (is.map fun p => (p.1, p.2.counted)) then some 3
    else minSlot (countFault c is) (minSlot (chainFault true [] is) (transferFault false is))
  | .bad k is =>
    if ctrlFault c (slotsFrom 0 0 ws) then some 3
    else minSlot (some k) (minSlot (countFault c is) (minSlot (chainFault false [] is) (transferFault false is)))

/-- Is a register beyond the declared counts (R13, R113)? In a handler V0 to V3, P0 to P3 and S0 to S3 pass (R360). -/
def regBad (h : Header) (hdl : Bool) (r : RegRef) : Bool :=
  match r with
  | .v n => decide (h.vregs ≤ n) && !(hdl && decide (n < 4))
  | .s n => decide (h.sregs ≤ n) && !(hdl && decide (n < 4))
  | .p n => decide (h.pregs ≤ n) && !(hdl && decide (n < 4))
  | .acc n => decide (h.accs ≤ n)
  | .tile n => decide (h.tiles ≤ n)

/-- LMOV names program registers, which are checked against VREGS even from V0 to V3 (R386); everything else as regBad. -/
def instrBad (h : Header) (hdl : Bool) (i : Instr) : Bool :=
  i.regs.any (regBad h hdl) ||
  (match i with
    | .lmovR x => decide (h.vregs ≤ x.a)
    | .lmovW x => decide (h.vregs ≤ x.d)
    | _ => false)

/-- The register-index check of R113: the guard first, then the slots. -/
def indexFault (h : Header) (hdl : Bool) (c : W) (ws : List W) : Option Nat :=
  if cGm c ≠ 0 ∧ cGp c ≠ 127 ∧ regBad h hdl (.p (cGp c)) then some 3
  else
    match layout ws with
    | .ok is => (is.find? fun p => instrBad h hdl p.2).map (·.1)
    | .bad _ _ => none

/-- Flags named in WAIT are 0 (R104). -/
def waitClear (t : Thread) (c : W) : Bool :=
  (List.range 12).all fun i => decide (bits (cWait c) i 1 = 0) || decide (t.flags.getD i 0 = 0)

/-- Every flag the packet would count from a start slot stays at or below 63 (R104). -/
def countRoom (t : Thread) (c : W) (is : List (Nat × Instr)) (start : Nat) : Bool :=
  let ks := (countedOf is).filter fun k => decide (start ≤ k)
  (List.range 12).all fun f =>
    decide (t.flags.getD f 0 + (ks.filter fun k => decide (flagOf c is k = f)).length ≤ 63)

/-- Raise and lower a completion flag (R104). -/
def Thread.flagUp (t : Thread) (f : Nat) : Thread := { t with flags := t.flags.set f (t.flags.getD f 0 + 1) }
def Thread.flagDown (cyc : Nat) (t : Thread) (f : Nat) : Thread := { t with flags := t.flags.set f (t.flags.getD f 0 - 1), fell := Store.put (64 * f + (t.flags.getD f 0 - 1)) cyc t.fell }
/-- The highest count of a flag at which a packet issues from a start slot: 0 when WAIT names it, else what leaves room for those it counts (R104). -/
def flagLimit (c : W) (is : List (Nat × Instr)) (start f : Nat) : Nat :=
  if bits (cWait c) f 1 = 1 then 0 else 63 - ((countedOf is).filter fun k => decide (start ≤ k ∧ flagOf c is k = f)).length
/-- Since when a thread has been ready to issue a packet: since it came, or since the flag that stalled it last fell low enough (R123, R125). -/
def Thread.readySince (t : Thread) (c : W) (is : List (Nat × Instr)) : Nat :=
  (List.range 12).foldl (fun m f => max m ((Store.find (64 * f + flagLimit c is t.slot f) t.fell).getD 0)) t.since
/-- A load fault becomes pending on a flag: the first to arise is kept (R256, R380). -/
def Thread.pendOn (t : Thread) (f : Nat) (p : Pend) : Thread :=
  if (t.pend.getD f Option.none).isSome then t else { t with pend := t.pend.set f (some p) }

end Sys2Proof.Machine
end

