-- ==== Sys2Proof/Machine/Mem.lean ====
section
/-! DEFINITION. Memory: bytes at their home, the address map, page walks, the landing, the brand table, scratchpad (chapter 10). -/
namespace Sys2Proof.Machine

/-! Bytes -/

/-- Little-endian value of bytes (R5). -/
def ofBytes : List Byte → Nat
  | [] => 0
  | b :: t => b.toNat + 256 * ofBytes t
/-- n bytes of a value, little-endian. -/
def toBytes (n x : Nat) : List Byte :=
  match n with
  | 0 => []
  | k + 1 => BitVec.ofNat 8 x :: toBytes k (x / 256)

/-- A byte of a memory whose unlisted bytes read as 0. -/
def memGet (m : List Host.Cell) (a : Nat) : Byte := (Store.find a m).getD 0
/-- Write a byte, keeping the canonical form: writing 0 removes the entry. -/
def memPut (m : List Host.Cell) (a : Nat) (b : Byte) : List Host.Cell := if b = 0 then Store.del a m else Store.put a b m
/-- n bytes from an address. -/
def memRead (m : List Host.Cell) (a n : Nat) : List Byte := (List.range n).map fun i => memGet m (a + i)
/-- Write bytes from an address on. -/
def memWrite (m : List Host.Cell) (a : Nat) : List Byte → List Host.Cell
  | [] => m
  | b :: t => memWrite (memPut m a b) (a + 1) t
/-- The canonical form of a memory: addresses strictly rising, no entry 0. -/
def Memory.wf (m : List Host.Cell) : Bool := Store.risesFrom 0 m && m.all fun c => decide (c.2 ≠ 0)

/-! Numbering (R62) -/

/-- Core cycles that have passed on a core. At clock position p a tick is (40 + p) fortieths of a cycle (R6, R84). -/
def State.cyc (s : State) (g : Nat) : Nat := (Store.find g s.forts).getD s.fort / 40
def clusterOf (g : Nat) : Nat := g / 4
def dieOf (g : Nat) : Nat := g / 96
/-- Global sector: 3 × die + cluster within die div 8. -/
def sectorOf (gcl : Nat) : Nat := 3 * (gcl / 24) + gcl % 24 / 8
/-- The key of a stand on a core; a stand that has left its core has a name of 64 and above in place of its slot, and no key in the table of stands. -/
def standKey (g slot : Nat) : Nat := if slot < 32 then 32 * g + slot else 2 ^ 40 * (g + 1) + slot
/-- End of device memory (R220). -/
def devEnd : Nat := 0xC000000000

/-! The address map (R218, R219, R239) -/

def region (x : Nat) : Nat := bits x 52 4
def lineOf (x : Nat) : Nat := x / 128
/-- The stack of an address (R221). -/
def stackOf (x : Nat) : Nat := (bits x 10 3) ^^^ (bits x 13 3)
/-- The home slice of a line, 0 to 47 on its die (R222). -/
def sliceOf (x : Nat) : Nat := ((bits x 7 9) ^^^ (bits x 16 9) ^^^ (bits x 25 9)) * 48 / 512

def State.ctx (s : State) (c : Nat) : Option Ctx := Store.find c s.ctxs
def State.part (s : State) (p : Nat) : Part := (Store.find p s.parts).getD Part.reset
def State.fn (s : State) (f : Nat) : Fn := (Store.find f s.fns).getD Fn.reset
def State.queue (s : State) (q : Nat) : Queue := (Store.find q s.queues).getD { Queue.reset with num := q }
/-- The device queue that a function sees under a number (R34). -/
def State.queueBy (s : State) (fn q : Nat) : Option Nat :=
  match s.queues.find? fun e => decide (e.2.fn = some fn ∧ e.2.num = q) with
  | some e => some e.1
  | none => if fn = 0 ∧ q < 512 ∧ (Store.find q s.queues).isNone then some q else none

/-- Is a chip in the load-store domain (R219, R416)? -/
def State.inDomain (s : State) (chip : Nat) : Bool :=
  decide (chip = s.pkg.chip) || decide (bits (((Store.find chip s.pkg.routes).getD 0).toNat) 16 1 = 1)
/-- Is some link of the route to a chip up (R416, R417)? -/
def State.reachable (s : State) (chip : Nat) : Bool :=
  decide (chip = s.pkg.chip) ||
  ((List.range 16).any fun n => decide (bits (((Store.find chip s.pkg.routes).getD 0).toNat) n 1 = 1) && (match Store.find n s.pkg.links with | some (up, _, _) => up | none => false))

/-- Bytes of die-shared scratch of a partition on each die (R239). -/
def State.dshBytes (s : State) (p : Nat) : Nat := (s.part p).dshare * 4718592

/-- The range check of R250 step 2: canonical, region in use, chip in the domain, region-4 offset valid. -/
def State.rangeBad (s : State) (p : Nat) (x : Nat) : Bool :=
  if 2 ^ 56 ≤ x then true
  else if region x < 3 then false
  else if region x = 3 then !(s.inDomain (bits x 45 7))
  else if region x = 4 then decide (bits x 26 24 ≠ 0) || decide (s.dshBytes p ≤ bits x 0 26)
  else true

/-- A region-3 address of the executing chip is replaced by its region-0 address (R219). -/
def State.normal (s : State) (x : Nat) : Nat :=
  if region x = 3 ∧ bits x 45 7 = s.pkg.chip then bits x 0 45 else x

/-! Page tables (R231, R232) -/

/-- The six levels of a walk: low index bit, index bits, and whether a leaf is allowed. -/
def walkLevels : List (Nat × Nat × Bool) := [(52, 4, false), (43, 9, false), (34, 9, true), (29, 5, true), (21, 8, true), (16, 5, true)]

/-- A leaf of a page of 2^k bytes at level bit k, valid under R232, or none. -/
def leafOf (reg k e : Nat) : Option Leaf :=
  let frame := bits e 16 36 * 2 ^ 16
  if bits e 8 1 ≠ 0 ∨ bits e 60 4 ≠ 0 ∨ frame % 2 ^ k ≠ 0 ∨ (reg = 0 ∧ devEnd ≤ frame) then none
  else some { size := k, psz := if k = 16 then 0 else if k = 21 then 1 else if k = 29 then 2 else 3, frame := frame,
              rd := decide (bits e 2 1 = 1), wr := decide (bits e 3 1 = 1), ex := decide (bits e 4 1 = 1), at_ := decide (bits e 5 1 = 1), mx := decide (bits e 6 1 = 1),
              tag := if bits e 7 1 = 1 then some (0x8000 + bits e 9 7 + 128 * bits e 52 8) else none }

/-- Walk the levels that are left from a table; none is a not-present fault. -/
def walkFrom (m : List Host.Cell) (x table : Nat) : List (Nat × Nat × Bool) → Option Leaf
  | [] => none
  | (lo, n, leafOk) :: rest =>
    if devEnd < table + 8 * 2 ^ n then none
    else
      let e := ofBytes (memRead m (table + 8 * bits x lo n) 8)
      if e % 2 = 0 then none
      else if bits e 1 1 = 1 then (if leafOk then leafOf (region x) lo e else none)
      else if bits e 2 6 ≠ 0 ∨ bits e 52 12 ≠ 0 then none
      else
        match rest with
        | [] => none
        | (_, n', _) :: _ =>
          let next := bits e 8 44 * 256
          if next % (8 * 2 ^ n') ≠ 0 then none else walkFrom m x next rest

/-- The walk of a context's tables for an address of region 0, 1 or 2. -/
def State.walk (s : State) (c : Nat) (x : Nat) : Option Leaf :=
  match s.ctx c with
  | none => none
  | some cx => if region x < 3 then walkFrom s.mem x cx.ptroot walkLevels else none

/-- The entry of a landing's TLB under a tag, for an address (R233). -/
def State.tlbAt (s : State) (stack tag x : Nat) : Option Leaf :=
  (s.tlb.find? fun t => decide (t.stack = stack ∧ t.tag = tag ∧ t.vpage = x / 2 ^ t.leaf.size)).map (·.leaf)
/-- The TLB entry of a landing for an access of a context (R233): under its own tag, or under the share-domain tag that its table gives the page. -/
def State.tlbHit (s : State) (stack c x : Nat) : Option Leaf :=
  let tag := ((s.ctx c).map (·.ctag)).getD 0
  match s.tlbAt stack tag x with
  | some l => some l
  | none => (match s.walk c x with | some l => (match l.tag with | some t => s.tlbAt stack t x | none => none) | none => none)
/-- A translation at the landing: its TLB entry, else a walk. -/
def State.translate (s : State) (c x : Nat) : Option Leaf :=
  match s.tlbHit (stackOf x) c x with
  | some l => some l
  | none => s.walk c x
/-- A landing's TLB makes room for one entry more: of 16,384 one leaves, which one is open (R233, log 102). -/
def State.tlbRoom (s : State) (stack : Nat) : List Tlb :=
  let mine := s.tlb.filter fun t => decide (t.stack = stack)
  if mine.length < 16384 then s.tlb
  else match mine[Config.pick s.fresh % mine.length]? with | some v => s.tlb.filter fun t => decide (t ≠ v) | none => s.tlb
/-- A walk's answer enters the landing's TLB, never an absent page (R233). -/
def State.tlbFill (s : State) (c x : Nat) : State :=
  match s.tlbHit (stackOf x) c x with
  | some _ => s
  | none =>
    match s.walk c x with
    | none => s
    | some l =>
      let tag := l.tag.getD ((s.ctx c).map (·.ctag) |>.getD 0)
      { s with tlb := { stack := stackOf x, tag := tag, vpage := x / 2 ^ l.size, leaf := l } :: s.tlbRoom (stackOf x) }

/-- The function whose doorbell page a physical address lies in (R42, log 8). -/
def State.bellAt (s : State) (pa : Nat) : Option Nat :=
  if s.pkg.doorbell ≤ pa ∧ pa < s.pkg.doorbell + 32 * 65536 then some ((pa - s.pkg.doorbell) / 65536) else none
/-- The function whose doorbell page an address is mapped to; an address of the executing chip under region 3 is its region-0 address (R219). -/
def State.bellOf (s : State) (c x : Nat) : Option Nat :=
  let x := s.normal x
  if region x = 0 then (s.translate c x).bind fun l => s.bellAt (l.frame + x % 2 ^ l.size) else none
/-- The device queue behind word q of a function's doorbell page. -/
def State.bellQueue (s : State) (fn q : Nat) : Option (Nat × Queue) := s.queues.find? fun e => decide (e.2.fn = some fn ∧ e.2.num = q)

/-- The tag of a page under its leaf (R223). -/
def State.tagOf (s : State) (c : Nat) (l : Leaf) : Nat := l.tag.getD ((s.ctx c).map (·.ctag) |>.getD 0)

/-- The owner record of a unit at a landing (R224). -/
def State.ownerOf (s : State) (stack unit : Nat) : Option Owner :=
  s.owners.find? fun o => decide (o.stack = stack ∧ o.unit = unit)

/-- The number of a space in the keys of its lines and units. -/
def Space.code : Space → Nat
  | .dev => 0
  | .tier => 1
  | .host => 2
  | .peer c => 16 + c
  | .bell f => 160 + f
  | .dsh p d => 256 + 4 * p + d
/-- The unit of a physical address, told apart by its space (R224). -/
def unitOf (sp : Space) (pa : Nat) : Nat := sp.code * 2 ^ 64 + pa / 65536
/-- Where an access lies: its space and its address there, the tag and the context it comes under. -/
structure Home where
  sp : Space
  pa : Nat
  tag : Nat
  ctx : Nat := 0
  deriving DecidableEq, Repr
/-- The synonym rule (R224): a unit owned under another tag or another virtual page faults. -/
def State.synonym (s : State) (x : Nat) (l : Leaf) (h : Home) : Except Nat Home :=
  match s.ownerOf (stackOf x) (unitOf h.sp h.pa) with
  | some o => if o.tag = h.tag ∧ o.vpage = x / 2 ^ l.size ∧ o.size = l.size then .ok h else .error 0x16
  | none => .ok h

/-- Permissions an access needs (R229): read, write, atomic, matrix. -/
structure Need where
  rd : Bool
  wr : Bool
  at_ : Bool
  mx : Bool
  deriving DecidableEq, Repr
def needRd : Need := { rd := true, wr := false, at_ := false, mx := false }
def needWr : Need := { rd := false, wr := true, at_ := false, mx := false }
def needAt : Need := { rd := true, wr := true, at_ := true, mx := false }
def needMx : Need := { rd := true, wr := false, at_ := false, mx := true }
def needMxW : Need := { rd := true, wr := true, at_ := false, mx := true }
def needNone : Need := { rd := false, wr := false, at_ := false, mx := false }

/-- What takes the place of a tag for a region-4 line, which is one line for every context of its partition (R239, R340). -/
def dshTag (p : Nat) : Nat := 65536 + p
/-- A region-4 address at its slice (R239). -/
def State.dshHome (s : State) (c x : Nat) : Home :=
  let p := ((s.ctx c).map (·.part)).getD 0
  { sp := .dsh p (bits x 50 2), pa := bits x 0 26, tag := dshTag p, ctx := c }

/-- A translation at the landing of the line's stack (R222, R224, R230, R232): the home, or the cause of the fault. Under an NP entry the permissions are judged here, late. -/
def State.land (s : State) (c x : Nat) (np : Bool) (need : Need) : Except Nat Home :=
  if region x = 4 then .ok (s.dshHome c x)
  else if region x = 3 then
    let chip := bits x 45 7
    if s.reachable chip then
      (match Config.fresh s.fresh % 4 with
        | 1 => .error 0x15
        | 2 => .error 0x1C
        | _ => .ok { sp := .peer chip, pa := bits x 0 45, tag := ((s.ctx c).map (·.ctag)).getD 0, ctx := c })
    else .error 0x1C
  else
    match s.translate c x with
    | none => .error 0x15
    | some l =>
      let tag := s.tagOf c l
      let pa := l.frame + x % 2 ^ l.size
      if np && ((need.rd && !l.rd) || (need.wr && !l.wr) || (need.at_ && !l.at_) || (need.mx && !l.mx)) then .error 0x18
      else if region x = 0 then
        match s.bellAt pa with
        | some f => .ok { sp := .bell f, pa := pa % 65536, tag := tag, ctx := c }
        | none =>
          s.synonym x l { sp := .dev, pa := pa, tag := tag, ctx := c }
      else if region x = 1 then
        (if (s.pkg.ports.getD (stackOf x / 2) (false, 0)).1 && decide (pa < (s.pkg.ports.getD (stackOf x / 2) (false, 0)).2) then s.synonym x l { sp := .tier, pa := pa, tag := tag, ctx := c } else .error 0x1A)
      else
        (match Config.fresh s.fresh % 4 with
          | 1 => .error 0x1B
          | _ => s.synonym x l { sp := .host, pa := pa, tag := tag, ctx := c })

/-- The key of a line at its home. -/
def homeKey (sp : Space) (pa : Nat) : Nat := sp.code * 2 ^ 64 + pa / 128
/-- Is the line of a home poisoned (R419, R431)? A poisoned line is named by the key of its home; only lines of device memory and of the second tier are. -/
def State.poisoned (s : State) (h : Home) : Bool := s.poison.contains (homeKey h.sp h.pa)
/-- A landing whose line a consumer takes: only a consumer of a poisoned line faults (R431). -/
def State.landUse (s : State) (c x : Nat) (np : Bool) (need : Need) : Except Nat Home :=
  match s.land c x np need with
  | .error e => .error e
  | .ok h => if s.poisoned h then .error 0x17 else .ok h
/-- The poison of a line after a write of some of its bytes: a write of all 128 clears it, a partial write leaves it; a copied one arrives with its data (R431). -/
def State.writePoison (s : State) (h : Home) (all psn : Bool) : State :=
  match h.sp with
  | .dev | .tier =>
    let k := homeKey h.sp h.pa
    let rest := if all then s.poison.filter fun l => decide (l ≠ k) else s.poison
    { s with poison := if psn ∧ ¬ rest.contains k then k :: rest else rest }
  | .host | .peer _ | .dsh _ _ | .bell _ => s

/-- What a performed access leaves at the landing: a TLB entry and the owner record of the unit (R224, R233). -/
def State.landed (s : State) (c x : Nat) (h : Home) : State :=
  if region x < 3 then
    let s := s.tlbFill c x
    match s.translate c x, h.sp with
    | _, .bell _ => s
    | some l, _ =>
      let u := unitOf h.sp h.pa
      (match s.ownerOf (stackOf x) u with
        | some _ => s
        | none => { s with owners := { stack := stackOf x, unit := u, ctx := c, tag := h.tag, vpage := x / 2 ^ l.size, size := l.size } :: s.owners })
    | none, _ => s
  else s

/-! Bytes at their home -/

/-- Where a byte of die-shared scratch lies on its die: slice, the partition's carved way by its count, set, byte of the line (R239). -/
structure Carved where
  slice : Nat
  way : Nat
  set : Nat
  byte : Nat
  deriving DecidableEq, Repr
def carvedAt (o : Nat) : Carved :=
  let n := o / 128
  let k := n / 48
  { slice := n % 48, way := k / 768, set := k % 768, byte := o % 128 }
/-- The key of a byte of die-shared scratch: partition, die, carved way, set, slice, byte. -/
def dshKey (p d o : Nat) : Nat :=
  let c := carvedAt o
  (4 * p + d) * 2 ^ 26 + ((c.way * 768 + c.set) * 48 + c.slice) * 128 + c.byte
/-- The lowest way number of the slices that a carve-out holds: fills take the ways below it (R64, R228). -/
def State.fillWays (s : State) : Nat := 16 - (s.parts.map fun p => p.2.dshare).foldl (· + ·) 0

/-- A byte at its home. Host memory is held under a lease of its home line (R312 item 8); a byte no device holds is a free value. A word of a doorbell page whose number no queue of the function has reads 0 (log 114). -/
def State.peek (s : State) (sp : Space) (a : Nat) : Byte :=
  match sp with
  | .dev => memGet s.mem a
  | .tier => (Store.find a s.tier).getD (Config.tierByte a)
  | .host =>
    (match Store.find (homeKey .host a) s.l2 with
      | some l => if s.now ≤ l.lease then (Store.find a s.hostMem).getD (Config.hostByte s.fresh a) else Config.hostByte s.fresh a
      | none => Config.hostByte s.fresh a)
  | .peer c => Config.peerByte s.fresh (c * 2 ^ 45 + a)
  | .dsh p d => memGet s.dsh (dshKey p d a)
  | .bell f => (match s.bellQueue f (a / 4) with | some e => BitVec.ofNat 8 (e.2.tl / 256 ^ (a % 4)) | none => 0)

/-- Bytes at their home. -/
def State.peekN (s : State) (sp : Space) (a n : Nat) : List Byte := (List.range n).map fun i => s.peek sp (a + i)

/-- Write a byte at its home. -/
def State.poke (s : State) (sp : Space) (a : Nat) (b : Byte) : State :=
  match sp with
  | .dev => { s with mem := memPut s.mem a b }
  | .tier => { s with tier := Store.put a b s.tier }
  | .host => { s with hostMem := Store.put a b s.hostMem }
  | .peer c => { s with outbox := s.outbox ++ [.flit c 0 [a, b.toNat]] }
  | .dsh p d => { s with dsh := memPut s.dsh (dshKey p d a) b }
  | .bell _ => s
/-- Write bytes at their home. -/
def State.pokeN (s : State) (sp : Space) (a : Nat) : List Byte → State
  | [] => s
  | b :: t => (s.poke sp a b).pokeN sp (a + 1) t

/-! Lines in L2 slices (R222, R226, R228, R241) -/

/-- The sector that holds a line's home slice. -/
def homeSector (x : Nat) : Nat := 3 * (stackOf x / 2) + sliceOf x / 16
/-- The key of a copy: cluster or sector, tag, virtual line. -/
def copyKey (unit tag x : Nat) : Nat := unit * 2 ^ 80 + tag * 2 ^ 52 + lineOf x
/-- Unit, tag and virtual line of a copy's key. -/
def keyUnit (k : Nat) : Nat := k / 2 ^ 80
def keyTag (k : Nat) : Nat := k / 2 ^ 52 % 2 ^ 28
def keyLine (k : Nat) : Nat := k % 2 ^ 52
/-- Lanes of a request that its home has not acknowledged. -/
def Req.open_ (r : Req) : List RLane := r.lanes.filter fun a => !a.done
/-- Does an access of a kind at an address enter its cluster's L1 as pending bytes (R312 items 1 and 5): a store without release, or the store of a TDESC? Region 4 bypasses the L1 (R225). -/
def ReqKind.plain (kind : ReqKind) (rel : Bool) (x : Nat) : Bool := decide ((kind = .store ∧ rel = false) ∨ kind = .tdesc) && decide (region x ≠ 4)
/-- The first address of a request. -/
def Req.x (r : Req) : Nat := match r.lanes with | a :: _ => a.addr | [] => 0
/-- Is a request a store whose bytes are pending in its cluster's L1? -/
def Req.pending (r : Req) : Bool := r.kind.plain r.rel r.x && !r.open_.isEmpty
/-- The virtual line of a request. -/
def Req.line (r : Req) : Nat := lineOf r.x
/-- Does a cluster's L1 hold pending bytes of a line, or a sector's local copy? -/
def State.l1Pending (s : State) (cl tag ln : Nat) : Bool := s.reqs.any fun r => r.2.pending && decide (clusterOf r.2.g = cl ∧ r.2.tag = tag ∧ r.2.line = ln)
def State.secPending (s : State) (sector tag ln : Nat) : Bool := s.reqs.any fun r => r.2.pending && r.2.inSec && decide (sectorOf (clusterOf r.2.g) = sector ∧ r.2.tag = tag ∧ r.2.line = ln)

/-- A line that an L2 slice holds: a home line or a local copy, its key, the context that filled it, its last use, its way, and whether it holds pending bytes. -/
structure Held where
  home : Bool
  key : Nat
  ctx : Nat
  used : Nat
  way : Nat
  pend : Bool
  deriving DecidableEq, Repr
/-- A set of a slice of a sector: where the virtual line of an address falls. -/
def inSet (x y : Nat) : Bool := decide (sliceOf x % 16 = sliceOf y % 16 ∧ Config.l2Set (lineOf x) % 768 = Config.l2Set (lineOf y) % 768)
/-- The lines held in the set of a sector that the line of an address falls in. -/
def State.heldIn (s : State) (sector x : Nat) : List Held :=
  (s.l2.filter fun e => decide (homeSector (128 * e.2.line) = sector) && inSet x (128 * e.2.line)).map
    (fun e => { home := true, key := e.1, ctx := e.2.ctx, used := e.2.used, way := e.2.way, pend := false })
  ++ (s.sec.filter fun e => decide (keyUnit e.1 = sector) && inSet x (128 * keyLine e.1)).map
    (fun e => { home := false, key := e.1, ctx := e.2.ctx, used := e.2.used, way := e.2.way, pend := s.secPending sector (keyTag e.1) (keyLine e.1) })
/-- L2 ways a partition may use (R63). -/
def Part.ways (p : Part) : Nat := if p.l2ways = 0 ∨ 16 < p.l2ways then 16 else p.l2ways
/-- How many ways of a set a context's lines may take: the smaller of L2WAYS and its way position (R63, R84, R228). -/
def State.wayLimit (s : State) (c : Nat) : Nat :=
  match s.ctx c with
  | some cx => min (s.part cx.part).ways (cx.loop.pos.getD 2 16)
  | none => 16
/-- The least recently used of a list of lines. -/
def lruHeld : List Held → Option Held
  | [] => none
  | h :: t => some (t.foldl (fun a b => if b.used < a.used then b else a) h)
/-- The line that a fill of a context replaces in a set: the least recently used of its own when they fill its ways; none while a way is free; else the line at the eviction position, or, with none there, one that is open (log 102). A line that holds pending bytes stays (R312). -/
def State.victimIn (s : State) (held : List Held) (free : List Nat) (c : Nat) : Option Held :=
  let can := held.filter fun h => !h.pend
  let n := s.wayLimit c
  if 1 ≤ n ∧ n ≤ (held.filter fun h => decide (h.ctx = c)).length then lruHeld (can.filter fun h => decide (h.ctx = c))
  else if !free.isEmpty then none
  else match can.find? fun h => decide (h.used = 0) with
    | some h => some h
    | none => can[Config.pick s.fresh % can.length]?
/-- A line leaves its slice: a dirty home line is written back (R226), so that memory holds what it held. -/
def State.dropHeld (s : State) (h : Held) : State := if h.home then { s with l2 := s.l2.del h.key } else { s with sec := s.sec.del h.key }
/-- Room for a fill of a context in a sector: the way it takes, and the state without the line it replaces; none when pending bytes hold every way. -/
def State.l2Room (s : State) (sector x c : Nat) : Option (Nat × State) :=
  let held := s.heldIn sector x
  let free := (List.range s.fillWays).filter fun w => !(held.any fun h => decide (h.way = w))
  match s.victimIn held free c with
  | some v => some (v.way, s.dropHeld v)
  | none => (free[Config.pick s.fresh % free.length]?).map fun w => (w, s)
/-- The stamp of a use by a context: 0, the eviction position, when it may hold no way (R84, R228). -/
def State.stamp (s : State) (c : Nat) : Nat := if s.wayLimit c = 0 then 0 else s.fresh + 1

/-- Room for a line in a cluster's L1 of 256 sets of 16 ways (R225): a line that is there or pending has it; else, with 16 in the set, one without pending bytes leaves, which one is open (log 102); none when pending bytes hold every way. -/
def State.l1Room (s : State) (cl tag x : Nat) : Option State :=
  let mine (k : Nat) : Bool := decide (keyUnit k = cl ∧ Config.l1Set (keyLine k) % 256 = Config.l1Set (lineOf x) % 256)
  if (Store.find (copyKey cl tag x) s.l1).isSome || s.l1Pending cl tag (lineOf x) then some s
  else
    let held := (s.l1.map (·.1)).filter mine
    let new := ((s.reqs.filter fun r => r.2.pending && decide (clusterOf r.2.g = cl)).map fun r => copyKey cl r.2.tag r.2.x).filter fun k => mine k && !(held.contains k)
    if held.length + new.eraseDups.length < 16 then some s
    else
      let can := held.filter fun k => !(s.l1Pending cl (keyTag k) (keyLine k))
      (can[Config.pick s.fresh % can.length]?).map fun k => { s with l1 := s.l1.del k }
/-- The bytes of a host line as its fill finds them. -/
def State.hostFill (s : State) (pa : Nat) : State :=
  { s with hostMem := (List.range 128).foldl (fun m i => Store.put (pa / 128 * 128 + i) (Config.hostByte s.fresh (pa / 128 * 128 + i)) m) s.hostMem }
/-- A line enters its home slice, filled by an access to x: it carries the access's tag, virtual line and tensor identifier, which stay (R223, R241). One held under another name has been written back and makes way. A host line takes a lease, after which it is filled anew (R312 item 8). -/
def State.fillHome (s : State) (h : Home) (x tid : Nat) : State :=
  let k := homeKey h.sp h.pa
  let new (s : State) : State :=
    match s.l2Room (homeSector x) x h.ctx with
    | some (w, s') =>
      let s1 := if h.sp = .host then s'.hostFill h.pa else s'
      { s1 with l2 := Store.put k { tid := tid, tag := h.tag, dirty := false, behind := [], lease := s.now + 8192, line := lineOf x, ctx := h.ctx, used := s.stamp h.ctx, way := w } s1.l2 }
    | none => s
  match h.sp with
  | .peer _ | .dsh _ _ | .bell _ => s
  | .dev | .tier | .host =>
    match Store.find k s.l2 with
    | none => new s
    | some l =>
      if l.tag ≠ h.tag ∨ l.line ≠ lineOf x then new { s with l2 := s.l2.del k }
      else if h.sp = .host ∧ l.lease < s.now then
        let s1 := s.hostFill h.pa
        { s1 with l2 := Store.put k { l with dirty := false, behind := [], lease := s.now + 8192, used := s.stamp h.ctx } s1.l2 }
      else { s with l2 := Store.put k { l with used := max l.used (s.stamp h.ctx) } s.l2 }
/-- A held line becomes dirty, with the bytes that memory holds behind it (R226, R241). -/
def State.dirtyLine (s : State) (sp : Space) (pa : Nat) : State :=
  let k := homeKey sp pa
  match Store.find k s.l2 with
  | some l => if l.dirty then s else { s with l2 := Store.put k { l with dirty := true, behind := s.peekN sp (pa / 128 * 128) 128 } s.l2 }
  | none => s
/-- A line is about to be written in its home slice by an access to x. -/
def State.dirtyHome (s : State) (h : Home) (x tid : Nat) : State := (s.fillHome h x tid).dirtyLine h.sp h.pa

/-- A step of the device is put before everything else that waits. -/
def State.post (s : State) (e : Ev) : State := { s with inbox := s.inbox ++ [e] }
/-- A step that must come first. -/
def State.postFirst (s : State) (e : Ev) : State := { s with inbox := e :: s.inbox }
/-- Draw a free number. -/
def State.draw (s : State) : Nat × State := (Config.fresh s.fresh, { s with fresh := s.fresh + 1 })
/-- One more key. -/
def State.newKey (s : State) : Nat × State := (s.seq, { s with seq := s.seq + 1 })

/-! Watches (R340) -/

/-- Change the watch of every thread of a stand that meets a test; a thread parked in MWAIT is woken by a WATCH_TRIGGER step. -/
def Stand.watchThreads (st : Stand) (hit : Watch → Bool) (next : WatchSt) : Stand :=
  let f (t : Thread) : Thread :=
    match t.watch with
    | some w => if w.st = .armed ∧ hit w then { t with watch := some { w with st := next } } else t
    | none => t
  { st with thr := st.thr.map f, h := st.h.map fun h => { h with thr := h.thr.map f } }

/-- A write performed at a line's home, or entering an L1 (cl: the cluster, for watches at CLUSTER or narrower): watches of the line are triggered. -/
def State.touch (s : State) (tag vline : Nat) (cl : Option Nat) : State :=
  { s with stands := s.stands.map fun (k, st) =>
      (k, st.watchThreads (fun w => decide (w.tag = tag ∧ w.line = vline) &&
        (match cl with
          | none => true
          | some c => decide (w.scope ≤ 3 ∧ clusterOf (k / 32) = c))) .triggered) }

/-- A write performed at a home line ends the front end's watches on it (R39, R47): on a slot line, and on a WAITW's word. -/
def WaitW.hit (line : Nat) (w : WaitW) : WaitW := if w.watch = line then { w with fired := true } else w
def Queue.hit (line : Nat) (q : Queue) : Queue :=
  { q with watch := if q.watch.isSome ∧ q.watchLine = line then none else q.watch, waitw := q.waitw.map (WaitW.hit line) }
def Launch.hit (line : Nat) (l : Launch) : Launch :=
  { l with graph := l.graph.map fun gr => { gr with waitw := gr.waitw.map (WaitW.hit line) } }
def State.touchFront (s : State) (sp : Space) (pa : Nat) : State :=
  let line := homeKey sp pa
  { s with queues := s.queues.map fun e => (e.1, e.2.hit line), launches := s.launches.map fun e => (e.1, e.2.hit line) }

/-- A word stored to a doorbell page is one write of HQ_QTAIL, when the queue takes device-side doorbells (R42); a word of a number that no queue has ignores it (log 114). -/
def State.ringBell (s : State) (fn off : Nat) (bs : List Byte) : State :=
  match s.bellQueue fn (off / 4) with
  | some e => if e.2.devdb ∧ bs.length = 4 ∧ off % 4 = 0 then s.post (.qtailWrite fn (off / 4) (BitVec.ofNat 32 (ofBytes bs))) else s
  | none => s
/-- Perform a write at its home: the bytes, the dirty line, the watches; a word of a doorbell page goes to the front end. -/
def State.homeWrite (s : State) (h : Home) (x tid : Nat) (bs : List Byte) : State :=
  match h.sp with
  | .bell f => s.ringBell f h.pa bs
  | _ => (((s.dirtyHome h x tid).pokeN h.sp h.pa bs).touch h.tag (lineOf x) none).touchFront h.sp h.pa

/-! Accesses of the front end and of engines by virtual address, without brand checks -/

/-- Read n bytes that lie in one page, at their home; an error is a landing fault. -/
def State.vread (s : State) (c x n : Nat) : Except Nat (List Byte) :=
  let x := s.normal x
  if 2 ^ 56 ≤ x ∨ 5 ≤ region x then .error 0x11
  else match s.landUse c x false needNone with
    | .error e => .error e
    | .ok h => .ok (s.peekN h.sp h.pa n)
/-- Read many bytes, 16 at a time (an aligned block never crosses a page). -/
def State.vreadBlocks (s : State) (c x : Nat) : Nat → Except Nat (List Byte)
  | 0 => .ok []
  | k + 1 =>
    match s.vread c x 16 with
    | .error e => .error e
    | .ok b =>
      match s.vreadBlocks c (x + 16) k with
      | .error e => .error e
      | .ok t => .ok (b ++ t)
/-- Write bytes that lie in one line, at their home; an error is a landing fault and writes nothing. -/
def State.vwrite (s : State) (c x : Nat) (bs : List Byte) : Except Nat State :=
  let x := s.normal x
  if 2 ^ 56 ≤ x ∨ 5 ≤ region x then .error 0x11
  else match s.land c x false needNone with
    | .error e => .error e
    | .ok h => .ok { (s.landed c x h).homeWrite h x 0 bs with fresh := s.fresh + 1 }

/-! The brand table (R229, R230) -/

/-- Page size in bits of a size code. -/
def pszBits (p : Nat) : Nat := if p = 0 then 16 else if p = 1 then 21 else if p = 2 then 29 else 34
/-- The entry of a page in a core's brand table. -/
def State.brandOf (s : State) (g c x : Nat) : Option Brand :=
  ((Store.find g s.brand).getD []).find? fun b => decide (b.ctx = c ∧ b.vpn = x / 2 ^ pszBits b.psz)
/-- The name of an entry in the order of use of a core's table. -/
def Brand.name (b : Brand) : Nat × Nat × Nat := (b.ctx, b.psz, b.vpn)
/-- A use of a page's entry: it becomes the most recently used of its core's table (R230). -/
def State.brandUse (s : State) (g c x : Nat) : State :=
  match s.brandOf g c x with
  | some b => { s with lru := Store.put g (b.name :: ((Store.find g s.lru).getD []).filter fun n => decide (n ≠ b.name)) s.lru }
  | none => s
/-- The least recently used entry of a core's table: one that no access has used since it came, else the last in the order of use. -/
def State.brandLru (s : State) (g : Nat) (es : List Brand) : Option Brand :=
  let order := (Store.find g s.lru).getD []
  match es.find? fun e => !(order.contains e.name) with
  | some e => some e
  | none => (order.reverse.findSome? fun n => es.find? fun e => decide (e.name = n))
/-- An entry enters a core's brand table; with 512 held, the least recently used leaves (R230). -/
def State.brandPut (s : State) (g : Nat) (b : Brand) : State :=
  let old := ((Store.find g s.brand).getD []).filter fun e => !decide (e.ctx = b.ctx ∧ e.vpn * 2 ^ pszBits e.psz / 2 ^ pszBits b.psz = b.vpn)
  let kept := if old.length < 512 then old else match s.brandLru g old with | some v => old.filter fun e => decide (e ≠ v) | none => old
  ({ s with brand := Store.put g ((b :: kept).take 512) s.brand }).brandUse g b.ctx (b.vpn * 2 ^ pszBits b.psz)
/-- The entry a landing answers for a page (R230). -/
def State.brandFor (s : State) (c x : Nat) : Brand :=
  let x := s.normal x
  let ctag := ((s.ctx c).map (·.ctag)).getD 0
  if region x = 3 then
    { ctx := c, vpn := x / 2 ^ 34, psz := 3, tag := ctag, rd := true, wr := true, ex := false, at_ := true, mx := true, np := true }
  else match s.translate c x with
    | some l => { ctx := c, vpn := x / 2 ^ l.size, psz := l.psz, tag := s.tagOf c l, rd := l.rd, wr := l.wr, ex := l.ex, at_ := l.at_, mx := l.mx, np := false }
    | none => { ctx := c, vpn := x / 65536, psz := 0, tag := ctag, rd := true, wr := true, ex := false, at_ := true, mx := true, np := true }
/-- Does an entry give what an access needs (R229)? -/
def Brand.gives (b : Brand) (n : Need) : Bool := (!n.rd || b.rd) && (!n.wr || b.wr) && (!n.at_ || b.at_) && (!n.mx || b.mx)

/-! Counters and trace (R428, R429) -/

/-- An event counts on the counters of a core that select it. -/
def PfRegs.count (r : PfRegs) (g c ev n : Nat) : PfRegs :=
  match Store.find g r.pmSel with
  | none => r
  | some sel =>
    let flt := ((Store.find g r.pmFlt).getD 0).toNat
    if bits flt 8 1 = 1 ∧ bits flt 0 8 ≠ c then r
    else { r with pmc := (List.range 4).foldl (fun m i => if bits sel.toNat (8 * i) 8 = ev then Store.put (4 * g + i) (((Store.find (4 * g + i) m).getD 0 + n) % 2 ^ 64) m else m) r.pmc }
def State.count (s : State) (g c ev n : Nat) : State := if s.regs.pmSel.isEmpty then s else { s with regs := s.regs.count g c ev n }
/-- Write a trace record, when the ring takes its kind for the context. -/
def State.trace (s : State) (kind cause lane slot g c launch ord num : Nat) : State :=
  let ctl := s.regs.trCtl.toNat
  let n := bits ctl 0 5
  if kind = 0 ∨ bits ctl 5 1 = 0 ∨ n < 8 ∨ 24 < n ∨ bits ctl 6 8 ≠ c ∨ bits ctl (14 + kind) 1 = 0 then s
  else
    let pa := s.regs.trBase + 32 * (s.regs.trTail % 2 ^ n)
    let b := toBytes 8 s.now ++ toBytes 1 kind ++ toBytes 1 cause ++ toBytes 1 lane ++ toBytes 1 slot ++ toBytes 2 g ++ [0, 0] ++ toBytes 4 launch ++ toBytes 4 (ord % 2 ^ 24) ++ toBytes 8 num
    let s := if pa + 32 ≤ devEnd then ((s.dirtyLine .dev pa).pokeN .dev pa b).touchFront .dev pa else s
    { s with regs := { s.regs with trTail := s.regs.trTail + 1 } }

/-! Scratchpad (R237) -/

/-- The key of a launch's allocation on a core. -/
def scrKey (launch g : Nat) : Nat := 512 * launch + g
def State.scrGet (s : State) (launch g a n : Nat) : List Byte := memRead ((Store.find (scrKey launch g) s.scr).getD []) a n
/-- A WAITA whose word has been written: it is compared again, and the word that differs is kept (R342). -/
def WArg.look (word : W) (w : WArg) : WArg := if w.hit = none ∧ word ≠ w.v then { w with hit := some word } else w
def Thread.look (m : List Host.Cell) (a n : Nat) (t : Thread) : Thread :=
  if t.st = .parked .waita ∧ t.w.a < a + n ∧ a < t.w.a + 4 then { t with w := t.w.look (BitVec.ofNat 32 (ofBytes (memRead m t.w.a 4))) } else t
def Stand.look (m : List Host.Cell) (a n : Nat) (st : Stand) : Stand :=
  { st with thr := st.thr.map (Thread.look m a n), h := st.h.map fun h => { h with thr := h.thr.map (Thread.look m a n) } }
def lookStands (launch g : Nat) (m : List Host.Cell) (a n : Nat) (sts : Store Stand) : Store Stand :=
  sts.map fun e => if e.1 / 32 = g ∧ e.2.launch = launch ∧ e.2.place = .resident then (e.1, e.2.look m a n) else e
/-- Write bytes of a launch's scratchpad on a core. -/
def State.scrPut (s : State) (launch g a : Nat) (bs : List Byte) : State :=
  match Store.find (scrKey launch g) s.scr with
  | none => s
  | some m0 =>
    let m := memWrite m0 a bs
    { s with scr := Store.put (scrKey launch g) m s.scr, stands := lookStands launch g m a bs.length s.stands }
/-- Scratchpad bytes a launch sees on a core. -/
def State.scrSize (s : State) (launch g : Nat) : Nat :=
  match Store.find (scrKey launch g) s.scr with
  | none => 0
  | some _ => (match Store.find launch s.launches with | some l => l.hdr.scratch | none => 0)

end Sys2Proof.Machine
end

