-- ==== Sys2Proof/Machine/Ops.lean ====
section
/-! DEFINITION. Shared operations: the squad that executes and its participants, commits, granules, taking an exception and returning from one (06, 17). -/
namespace Sys2Proof.Machine

/-- What one instruction or step of the device answers. -/
abbrev Res := Host.Outcome State Fault Refusal

/-! Stands and threads -/

def State.stand (s : State) (key : Nat) : Option Stand := Store.find key s.stands
def State.setStand (s : State) (key : Nat) (st : Stand) : State := { s with stands := Store.put key st s.stands }
def State.onStand (s : State) (key : Nat) (f : Stand → Stand) : State := { s with stands := Store.adjust key f s.stands }
def State.launch (s : State) (k : Nat) : Option Launch := Store.find k s.launches
def State.onLaunch (s : State) (k : Nat) (f : Launch → Launch) : State := { s with launches := Store.adjust k f s.launches }
def State.onCtx (s : State) (c : Nat) (f : Ctx → Ctx) : State := { s with ctxs := Store.adjust c f s.ctxs }
def State.team (s : State) (k : Nat) : Option Team := Store.find k s.teams
def State.onTeam (s : State) (k : Nat) (f : Team → Team) : State := { s with teams := Store.adjust k f s.teams }

/-- Change a thread: the program's, or the handler's own (R360). -/
def Stand.onT (st : Stand) (hdl : Bool) (l : Nat) (f : Thread → Thread) : Stand :=
  if hdl then { st with h := st.h.map fun h => { h with thr := h.thr.modify l f } }
  else { st with thr := st.thr.modify l f }
/-- Change the threads of a mask. -/
def Stand.onTs (st : Stand) (hdl : Bool) (q : W) (f : Thread → Thread) : Stand :=
  (lanesOf q).foldl (fun st l => st.onT hdl l f) st
def State.onT (s : State) (key : Nat) (hdl : Bool) (l : Nat) (f : Thread → Thread) : State := s.onStand key fun st => st.onT hdl l f
def State.onTs (s : State) (key : Nat) (hdl : Bool) (q : W) (f : Thread → Thread) : State := s.onStand key fun st => st.onTs hdl q f

/-- Core and slot of a stand's key. -/
def gOf (key : Nat) : Nat := key / 32
def slotOf (key : Nat) : Nat := key % 32

/-- The resident stands of a core, by slot. -/
def State.standsOn (s : State) (g : Nat) : List (Nat × Stand) := s.stands.filter fun e => decide (e.1 / 32 = g)

/-! Code addresses (R98) -/

/-- Bits [55:4] of the address of packet 0. -/
def Launch.codePc (l : Launch) : BitVec 52 := BitVec.ofNat 52 ((l.code + l.hdr.codeOff) / 16)
/-- The packet index of a program counter. -/
def Launch.pkt (l : Launch) (pc : BitVec 52) : Nat := (pc - l.codePc).toNat
/-- Does a program counter name a packet of the code object? -/
def Launch.inCode (l : Launch) (pc : BitVec 52) : Bool := decide (l.pkt pc < l.hdr.codeSize / 16)

/-! The executing squad -/

/-- One stand's part of the executing slot: the stand as the code sees it (R360, R361), the stand itself, its members and its participants (R144). -/
structure Env where
  sq : Squad
  slot : Nat
  key : Nat
  l : Launch
  st : Stand
  raw : Stand
  m : W
  q : W
  deriving DecidableEq, Repr

/-- The bundle that executes: its squad's number and its first slot. -/
def Env.bundle (e : Env) : Nat × Nat := (e.sq.id, e.sq.b)
/-- Does the squad run a handler in mode 0 on this stand? -/
def Stand.mode0 (st : Stand) (hdl : Bool) : Bool :=
  hdl && (match st.h with | some h => !h.whole | none => false)
/-- The stand as the code of a squad sees it. -/
def Stand.seen (st : Stand) (hdl : Bool) : Stand :=
  match st.h with
  | some h => if hdl && !h.whole then st.view h else st
  | none => st
/-- The stand after code has changed what it sees. -/
def Stand.back (st : Stand) (hdl : Bool) (w : Stand) : Stand :=
  match st.h with
  | some h => if hdl && !h.whole then st.unview h w else w
  | none => w

def State.env (s : State) (sq : Squad) (m : Nat × W) : Option Env :=
  match s.stand (standKey sq.g m.1), s.launch sq.launch with
  | some st, some l =>
    let v := st.seen sq.hdl
    some { sq := sq, slot := m.1, key := standKey sq.g m.1, l := l, st := v, raw := st, m := m.2, q := m.2 &&& v.guard sq.ctrl sq.k }
  | _, _ => none

/-- Do something for each stand that has participants in the executing slot, in ascending stand slots. -/
def State.each (s : State) (f : Env → State → State) : State :=
  match s.issue with
  | [] => s
  | sq :: _ =>
    sq.mem.foldl (fun s m =>
      match s.env sq m with
      | some e => if e.q = 0 then s else f e s
      | none => s) s

/-- The environments of all stands with participants, before the slot has any effect. -/
def State.envs (s : State) : List Env :=
  match s.issue with
  | [] => []
  | sq :: _ => (sq.mem.filterMap (s.env sq)).filter fun e => decide (e.q ≠ 0)

/-- The squad stalls at its slot and tries again. -/
def State.again (s : State) : State :=
  match s.issue with
  | [] => s
  | sq :: t => { s with issue := { sq with again := true } :: t }

/-- Lanes of a stand leave every squad that executes. -/
def Squad.drop (key : Nat) (hdl : Bool) (q : W) (sq : Squad) : Squad :=
  if sq.hdl = hdl ∧ sq.g = gOf key then
    { sq with mem := (sq.mem.map fun m => if m.1 = slotOf key then (m.1, m.2 &&& ~~~q) else m).filter fun m => decide (m.2 ≠ 0) }
  else sq
def State.dropLanes (s : State) (key : Nat) (hdl : Bool) (q : W) : State := { s with issue := s.issue.map (Squad.drop key hdl q) }

/-! Safe points (R21, R22) -/

/-- Search the safe-point table for the last entry at or before a packet: lo is known to be at or before, hi (exclusive) after; with the packets known at both ends. -/
def State.sptSearch (s : State) (l : Launch) (pkt : Nat) : Nat → Nat → Nat → Nat → Nat → PosRes
  | 0, lo, _, plo, _ => .ok lo plo
  | n + 1, lo, hi, plo, phi =>
    if hi ≤ lo + 1 then .ok lo plo
    else
      let mid := (lo + hi) / 2
      let a := l.code + l.hdr.sptOff + 8 * mid
      match s.vread l.ctx a 8 with
      | .error _ => .bad a
      | .ok b =>
        let e := ofBytes b
        let p := bits e 0 32
        if p ≤ plo ∨ phi ≤ p ∨ l.hdr.codeSize / 16 ≤ p ∨ l.hdr.lvtCount ≤ bits e 32 24 ∨ 4 ≤ bits e 56 4 then .bad 0
        else if p ≤ pkt then s.sptSearch l pkt n mid hi p phi
        else s.sptSearch l pkt n lo mid plo p

/-- Is SP set in a packet's control word? A packet that cannot be read is not judged. -/
def State.spSet (s : State) (l : Launch) (pkt : Nat) : Option Bool :=
  match s.vread l.ctx (l.code + l.hdr.codeOff + 16 * pkt) 4 with
  | .ok b => some (cSp (BitVec.ofNat 32 (ofBytes b)))
  | .error _ => none

/-- The ordinal and delta of a packet of a launch. The search reads entry 0, whose PKT has to be 0, and then the middle of what is left: R21 names an offence in an entry that a lookup reads, and not which entries those are (log 115). -/
def State.position (s : State) (l : Launch) (pkt : Nat) : PosRes :=
  let a := l.code + l.hdr.sptOff
  match s.vread l.ctx a 8 with
  | .error _ => .bad a
  | .ok b =>
    let e := ofBytes b
    if bits e 0 32 ≠ 0 ∨ l.hdr.lvtCount ≤ bits e 32 24 ∨ 4 ≤ bits e 56 4 then .bad 0
    else
      match s.sptSearch l pkt 26 0 l.hdr.sptCount 0 (2 ^ 32) with
      | .bad x => .bad x
      | .ok ord p =>
        if s.spSet l p = some false then .bad 0
        else if p ≠ pkt ∧ s.spSet l pkt = some true then .bad 0
        else .ok ord ((pkt - p) % 65536)

/-! Taking an exception (R358 to R363) -/

/-- One lane that a cause is raised in. -/
structure Raise where
  lane : Nat
  cause : Nat
  addr : DW
  deriving DecidableEq, Repr

def Thread.park (w : Wait) (t : Thread) : Thread := { t with st := .parked w }
/-- A thread becomes ready. -/
def Thread.ready (cyc : Nat) (t : Thread) : Thread := { t with st := .ready, since := cyc }

/-- A thread taken from a wait by a mode-1 handler (R362): it executes its waiting instruction again on return; a batch wait and a last leaver's wait begin again. -/
def Thread.taken (t : Thread) : Thread :=
  match t.st with
  | .held => { t with st := .ready }
  | .parked .mwait => { t with st := .ready }
  | .parked .waita => { t with st := .ready }
  | .parked .join => { t with st := .ready }
  | .parked .gran => { t with st := .ready }
  | .parked .mwaitb => { t with st := .ready }
  | .parked .bar => { t with st := .ready }
  | _ => t

/-- TCAUSE (R358). -/
def tcauseWord (d : Delivery) (whole : Bool) : W :=
  BitVec.ofNat 32 (d.cause % 64 + 64 * (d.kind % 4) + (if d.ghost then 256 else 0) + (if whole then 512 else 0) + 1024 * (d.acc % 16))

/-- The trap words of one lane of a delivery. A lookup that finds an offence, or faults, makes the cause code-object (R21). -/
def State.trapWords (s : State) (l : Launch) (d : Delivery) (whole : Bool) (x : DLane) : Trap :=
  match s.position l x.pkt with
  | .ok ord delta =>
    { tcause := tcauseWord d whole, tpkt := BitVec.ofNat 32 x.pkt, tslot := BitVec.ofNat 32 (x.slot % 4 + 65536 * delta), tord := BitVec.ofNat 32 (ord % 2 ^ 24), taddr := x.addr }
  | .bad a =>
    { tcause := tcauseWord { d with cause := 2, kind := 0, acc := 0 } whole, tpkt := BitVec.ofNat 32 x.pkt, tslot := BitVec.ofNat 32 (x.slot % 4), tord := 0, taddr := BitVec.ofNat 64 a }

/-- Does the safe-point table answer for a packet? -/
def State.placed (s : State) (l : Launch) (pkt : Nat) : Bool := match s.position l pkt with | .ok _ _ => true | .bad _ => false
/-- The cause a delivery is delivered under: its own, or code-object when the safe-point table cannot answer for its lanes. -/
def State.causeOf (s : State) (l : Launch) (d : Delivery) : Nat :=
  match d.lanes with
  | [] => d.cause
  | x :: _ => if s.placed l x.pkt then d.cause else 2
/-- The lanes of a delivery for which the table answers as for its first, and a delivery of the others (R21). -/
def State.alike (s : State) (l : Launch) (d : Delivery) : Delivery × List Delivery :=
  match d.lanes with
  | [] => (d, [])
  | x :: _ =>
    let p := s.placed l x.pkt
    let rest := d.lanes.filter fun y => s.placed l y.pkt != p
    ({ d with lanes := d.lanes.filter fun y => s.placed l y.pkt == p }, if rest.isEmpty then [] else [{ d with lanes := rest }])

/-- What the vector entry of a cause answers (R33). -/
inductive VecRes where
  | unreadable
  | absent
  | at_ (hpc : BitVec 52)
  deriving DecidableEq, Repr
def State.vector (s : State) (c : Nat) (cx : Ctx) (cause : Nat) : VecRes :=
  let a := cx.tvbase + 8 * cause
  if !(s.brandFor c a).gives needRd then .unreadable
  else match s.vread c a 8 with
    | .error _ => .unreadable
    | .ok b =>
      let e := ofBytes b
      if e % 16 = 1 then .at_ (BitVec.ofNat 52 (e / 16)) else .absent

/-- The mask of a delivery's lanes. -/
def Delivery.mask (d : Delivery) : W := maskOf (d.lanes.map (·.lane))

/-- TMASKF of a delivery (R358, R376): its lanes; at a slice's end every live thread. -/
def Stand.maskF (st : Stand) (d : Delivery) : W := if d.cause = 0x38 then st.live else d.mask
/-- Set-aside and scratch registers, and the handler's threads (R360, R361): all 32 lanes in mode 1, else the lowest lane of TMASKF. -/
def Stand.handler (st : Stand) (d : Delivery) (whole : Bool) (hpc : BitVec 52) (cyc : Nat) : Handler :=
  let lane := lowest (st.maskF d)
  let start : Thread := { Thread.gone with st := .ready, pc := hpc, since := cyc }
  { whole := whole, dv := d, lane := lane,
    thr := lanes32.map fun l => if whole || decide (l = lane) then start else Thread.gone,
    saveS := (lanes32.take 4).map fun i => st.rs i,
    saveV := if whole then st.v.take 4 else [],
    saveP := if whole then st.p.take 4 else [],
    scrS := (lanes32.take 4).map fun i => st.rs i,
    scrV := (lanes32.take 4).map fun i => st.rv i lane,
    scrP := (lanes32.take 4).map fun i => st.rp i lane,
    liveAt := st.live, rtt := [] }

/-- Start the handler of a delivery on a stand (R358). In mode 1 the other threads stop where they stand, and waits are left (R362); V0 to V3 and P0 to P3 exist in every handler. -/
def State.startHandler (s : State) (key : Nat) (st : Stand) (l : Launch) (d : Delivery) (whole : Bool) (hpc : BitVec 52) : State :=
  let d := { d with cause := s.causeOf l d }
  let words (st : Stand) (x : DLane) : Stand := st.onT false x.lane fun t => { t with trap := s.trapWords l d whole x }
  let st1 := (d.lanes.foldl words st).onTs false (if d.ghost then 0 else d.mask) (Thread.park .delivery)
  let h := st.handler d whole hpc (s.cyc (gOf key))
  let st2 := if whole then { st1 with thr := st1.thr.map Thread.taken, v := st1.v ++ List.replicate (4 - st1.v.length) (VReg.u 0) } else st1
  (s.setStand key { st2 with h := some h, tmaska := st.live, tmaskf := st.maskF d }).trace (if d.ghost then 3 else 2) d.cause h.lane (slotOf key) (gOf key) l.ctx l.number
    (match d.lanes with | x :: _ => (s.trapWords l d whole x).tord.toNat | [] => 0) st.num

/-- Is a thread of the stand in a squad that executes? -/
def Stand.busy (st : Stand) : Bool := st.thr.any fun t => decide (t.st = .issuing)

/-- Does the front delivery of a stand run in mode 1? -/
def State.wholeFor (s : State) (l : Launch) (d : Delivery) : Bool :=
  !d.ghost && (match s.ctx l.ctx with | some cx => cx.hmode | none => false)

/-- Kill a launch for a cause, with the thread and the position that led to it (R400). -/
def State.killFor (s : State) (st : Stand) (lk cause lane : Nat) (t : Trap) (ghost : Bool) : State :=
  (s.onLaunch lk fun l => { l with why := some { tlin := 32 * st.num + lane, ord := t.tord.toNat, pos := t.tslot.toNat, addr := t.taddr.toNat, exited := ghost } }).postFirst (.kill lk cause)
/-- The kill of a delivery that no handler takes. -/
def State.killDelivery (s : State) (st : Stand) (l : Launch) (d : Delivery) (cause : Nat) : State :=
  match d.lanes with
  | [] => s.postFirst (.kill st.launch cause)
  | x :: _ => s.killFor st st.launch cause x.lane (s.trapWords l d false x) d.ghost
/-- The lanes of a slice-end delivery (R376): live threads that are not in a wait that cannot begin again; the return point is where each stands. -/
def Stand.sliceLanes (st : Stand) (l : Launch) : List DLane :=
  lanes32.filterMap fun x =>
    let t := st.t false x
    match t.st with
    | .exited => none
    | .parked .sign => none
    | .parked .treew => none
    | .parked .delivery => none
    | _ => some { lane := x, pkt := l.pkt t.pc, slot := t.slot, addr := 0, retPc := t.pc, retSlot := t.slot }
/-- Make the delivery at the head of a stand's list, when no handler runs there (R359) and, in mode 1, every other thread has stopped at a packet boundary (R362). -/
def State.tryDeliver (s : State) (key : Nat) : State :=
  match s.stand key with
  | none => s
  | some st =>
    match st.h, st.dl, s.launch st.launch with
    | none, d :: rest, some l =>
      let whole := s.wholeFor l d
      if decide (st.place = .spilled) || ((whole || decide (d.cause = 0x38)) && st.busy) then s
      else
        match s.ctx l.ctx with
        | none => s
        | some cx =>
          let p := s.alike l (if d.cause = 0x38 then { d with lanes := st.sliceLanes l } else d)
          let d := p.1
          let st := { st with dl := p.2 ++ rest }
          (match s.vector l.ctx cx (s.causeOf l d) with
            | .unreadable => s.killDelivery st l d 0x07
            | .absent => if s.causeOf l d = 0x38 then s.setStand key st else s.killDelivery st l d (s.causeOf l d)
            | .at_ hpc => s.startHandler key st l d whole hpc)
    | _, _, _ => s

/-- Take an exception: the lanes of a delivery leave their squads and park until it is made (R358, R359). In a handler it is a double trap, which kills the launch (R363). -/
def State.take (s : State) (key : Nat) (hdl : Bool) (lk : Nat) (d : Delivery) : State :=
  if d.lanes.isEmpty then s
  else
    let s := s.dropLanes key hdl d.mask
    if hdl then
      match s.stand key, d.lanes with
      | some st, x :: _ => s.killFor st lk 0x06 x.lane (st.t false x.lane).trap (match st.h with | some h => h.dv.ghost | none => false)
      | _, _ => s.postFirst (.kill lk 0x06)
    else (s.onStand key fun st => { st.onTs false d.mask (Thread.park .delivery) with dl := st.dl ++ [d] }).tryDeliver key

/-- Where the return of a precise cause lies (R356): the raising slot, or the next packet. -/
inductive RetAt where
  | here
  | next
  deriving DecidableEq, Repr

/-- The lanes of one cause as a delivery of the executing slot. -/
def Env.delivery (e : Env) (kind acc cause : Nat) (ret : RetAt) (rs : List Raise) : Delivery :=
  { cause := cause, kind := kind, acc := acc, ghost := false,
    lanes := (rs.filter fun r => decide (r.cause = cause)).map fun r =>
      { lane := r.lane, pkt := e.l.pkt e.sq.pc, slot := e.sq.k, addr := r.addr,
        retPc := (match ret with | .here => e.sq.pc | .next => e.sq.pc + 1), retSlot := (match ret with | .here => e.sq.k | .next => 0) } }

/-- The distinct causes of a list, in the order of their lowest lane (R359). -/
def causesOf (rs : List Raise) : List Nat := rs.foldl (fun acc r => if acc.contains r.cause then acc else acc ++ [r.cause]) []

/-- Raise causes at the executing slot, precisely (R115): one delivery for each cause. -/
def State.raise (s : State) (e : Env) (acc : Nat) (ret : RetAt) (rs : List Raise) : State :=
  (causesOf rs).foldl (fun s c => s.take e.key e.sq.hdl e.sq.launch (e.delivery 0 acc c ret rs)) s

/-- The same cause in every lane of a mask. -/
def raiseAll (q : W) (cause : Nat) : List Raise := (lanesOf q).map fun l => { lane := l, cause := cause, addr := 0 }

/-! Registers and granules (R140, R141) -/

/-- Pool granules not held by a resident stand, kept for one, or held by the shadow allocation (R141, R143). -/
def State.freePool (s : State) (g : Nat) : Nat :=
  32768 - ((s.standsOn g).map fun e => e.2.hold + e.2.grant.1).foldl (· + ·) 0
        - (((s.outs.filter fun o => decide (o.g = g) && o.shadow).map fun o => (o.stands.map fun e => e.2.hold).foldl (· + ·) 0)).foldl (· + ·) 0

/-- Does the pool, with what is kept for the stand, lack the granules that a stand's new registers take (R140)? -/
def State.lacks (s : State) (g : Nat) (old new : Stand) : Bool := decide (s.freePool g + old.grant.1 < new.hold - old.hold)
/-- What is kept for a stand is spent by a write that takes granules, or by the lanes it was kept for. -/
def Stand.spent (st old : Stand) (q : W) : Stand :=
  if old.grant = (0, 0) then st else if old.hold < st.hold ∨ old.grant.2 &&& q ≠ 0 then { st with grant := (0, 0) } else st
/-- Participants park until the pool has n granules more for their stand, or its spilled registers are back (R140, R142); they execute the slot again. Their stand issues nothing meanwhile (log 14). -/
def State.parkGran (s : State) (e : Env) (n : Nat) (reload : List Nat) : State :=
  let f (t : Thread) : Thread := { t with st := .parked .gran, pc := e.sq.pc, slot := e.sq.k }
  ((s.dropLanes e.key e.sq.hdl e.q).onStand e.key fun st => { st.onTs e.sq.hdl e.q f with need := n, reload := reload, grant := (0, 0) }).count e.sq.g e.l.ctx 9 1

/-- The V registers of a list that are spilled from a running stand (R142). -/
def Stand.outRegs (st : Stand) (rs : List RegRef) : List Nat :=
  rs.filterMap fun r => match r with
    | .v n => if st.spilledV.contains n then some n else none
    | .s _ => none
    | .p _ => none
    | .acc _ => none
    | .tile _ => none

/-- A write to V4 or above, or P4 or above, in a mode-0 handler (R361). -/
def Env.shut (e : Env) (i : Instr) : Bool :=
  e.raw.mode0 e.sq.hdl && i.writes.any fun r => match r with
    | .v n => decide (4 ≤ n)
    | .p n => decide (4 ≤ n)
    | .s _ => false
    | .acc _ => false
    | .tile _ => false

/-- Does the pool give the granules that a stand's new registers take (R140)? -/
def State.fits (s : State) (e : Env) (w : Stand) : Bool := !(s.lacks e.sq.g e.raw (e.raw.back e.sq.hdl w))
/-- A thread loses a watch that is armed; one that was triggered before stays so, out of the monitor table (R340, R341). -/
def Thread.loseIf (cyc : Nat) (hit : Watch → Bool) (t : Thread) : Thread :=
  match t.watch with
  | some w => if w.st ≠ .lost ∧ w.gone = false ∧ hit w then { t with watch := some (if w.st = .armed then { w with st := .lost } else { w with gone := true }), lostAt := some cyc } else t
  | none => t
/-- Put a stand's new registers in place, if the pool gives the granules (R140), and raise causes in the lanes that had no effect. -/
def State.commit (s : State) (e : Env) (w : Stand) (rs : List Raise) : State :=
  let st := e.raw.back e.sq.hdl w
  if s.lacks e.sq.g e.raw st then s.parkGran e (st.hold - e.raw.hold) []
  else (s.setStand e.key (st.spent e.raw e.q)).raise e 0 .here rs

/-- Full-stand writes that leave U or A count as scalar-path writes (R140, R428). -/
def State.countScalar (s : State) (e : Env) (i : Instr) : State :=
  if s.regs.pmSel.isEmpty ∨ i.counted ∨ e.st.live &&& ~~~e.q ≠ 0 then s
  else
    match s.stand e.key with
    | none => s
    | some st => s.count e.sq.g e.l.ctx 4 (i.writes.filter fun r => match r with | .v n => ((st.v.getD n (.u 0)).aff).isSome | .s _ => false | .p _ => false | .acc _ => false | .tile _ => false).length
/-- Run an instruction's effect on one stand: in a mode-0 handler a write to a closed register is a double trap; a spilled register is reloaded first. -/
def State.on (s : State) (i : Instr) (f : Env → State → State) : State :=
  s.each fun e s =>
    if e.shut i then s.take e.key true e.sq.launch (e.delivery 0 0 6 .here (raiseAll e.q 6))
    else if (e.raw.outRegs i.regs).isEmpty then (f e s).countScalar e i
    else s.parkGran e 0 (e.raw.outRegs i.regs)

/-- Run an instruction's effect lane by lane over all stands of the squad, in ascending lanes (R175, R255), in the stands where nothing keeps the instruction from its effect; then raise each stand's causes, of an access of kind acc. -/
def State.onLanes (s : State) (i : Instr) (acc : Nat) (f : Env → Nat → State → State × List Raise) : State :=
  let one (l : Nat) (p : State × List (Nat × Raise)) (e : Env) : State × List (Nat × Raise) :=
    if inMask e.q l && !e.shut i && (e.raw.outRegs i.regs).isEmpty then (let q := f e l p.1; (q.1, p.2 ++ q.2.map fun r => (e.key, r))) else p
  let r := lanes32.foldl (fun p l => s.envs.foldl (one l) p) (s, [])
  s.envs.foldl (fun s e =>
    if e.shut i then s.take e.key true e.sq.launch (e.delivery 0 0 6 .here (raiseAll e.q 6))
    else if (e.raw.outRegs i.regs).isEmpty then s.raise e acc .here ((r.2.filter fun x => decide (x.1 = e.key)).map (·.2))
    else s.parkGran e 0 (e.raw.outRegs i.regs)) r.1

/-- An instruction that works within the registers of a stand: its new stand and the lanes in which it raises a cause. -/
abbrev Body := Env → Stand × List Raise
def regOp (i : Instr) (body : Body) (s : State) : Res :=
  .next (s.on i fun e s => let r := body e; s.commit e r.1 r.2)

/-! Moving threads -/

/-- Threads reach a packet: ready there, or, beyond the last packet, in the code-range cause of a fall-through, whose return point is that packet (R98). -/
def State.arrive (s : State) (key : Nat) (hdl : Bool) (lk : Nat) (q : W) (pc : BitVec 52) (slot : Nat) : State :=
  match s.launch lk with
  | none => s
  | some l =>
    if q = 0 then s
    else if l.inCode pc then s.onTs key hdl q fun t => { t.ready (s.cyc (gOf key)) with pc := pc, slot := slot }
    else
      s.take key hdl lk
        { cause := 0x01, kind := 0, acc := 0, ghost := false
          lanes := (lanesOf q).map fun x => { lane := x, pkt := l.pkt (pc - 1), slot := 2, addr := 0, retPc := pc, retSlot := 0 } }

/-- Participants transfer to a packet that lies in the code (R169). -/
def State.jump (s : State) (e : Env) (q : W) (pc : BitVec 52) (f : Thread → Thread) : State :=
  (s.dropLanes e.key e.sq.hdl q).onTs e.key e.sq.hdl q fun t => { (f t).ready (s.cyc e.sq.g) with pc := pc, slot := 0 }

/-- Park participants at the executing slot. next: the slot after the instruction. -/
def State.parkAt (s : State) (e : Env) (q : W) (w : Wait) (f : Nat → Thread → Thread) : State :=
  (s.dropLanes e.key e.sq.hdl q).onStand e.key fun st =>
    (lanesOf q).foldl (fun st l => st.onT e.sq.hdl l fun t => { f l t with st := .parked w, pc := e.sq.pc, slot := e.sq.k }) st

/-- A thread goes on after a wait: at the slot given, or in the next packet. -/
def State.goOn (s : State) (key : Nat) (hdl : Bool) (lk : Nat) (l : Nat) (pc : BitVec 52) (slot : Nat) : State :=
  if 3 ≤ slot then s.arrive key hdl lk (bit l) (pc + 1) 0 else s.arrive key hdl lk (bit l) pc slot

/-! Names of threads -/

/-- A thread's name: core, stand slot, lane; 32 is added to the lane of a handler's own thread. -/
abbrev Who := Nat × Nat × Nat
def Env.who (e : Env) (l : Nat) : Who := (e.sq.g, e.slot, if e.sq.hdl then l + 32 else l)
def Stand.tw (st : Stand) (n : Nat) : Thread := st.t (decide (32 ≤ n)) (n % 32)
def Stand.onTw (st : Stand) (n : Nat) (f : Thread → Thread) : Stand := st.onT (decide (32 ≤ n)) (n % 32) f
/-- The team of a participant: its program thread's, in a handler too (R360). -/
def Env.team (e : Env) (l : Nat) : Option Nat := (e.raw.t false l).team
/-- The slot after the instruction at the executing slot. -/
def Env.next (e : Env) : Nat :=
  match decode (e.sq.ws.drop e.sq.k) with
  | some (_, n) => e.sq.k + n
  | none => e.sq.k + 1

/-! Returning from an exception (R385) -/

/-- The lanes that a handler's return resumes: the slot after TSLOT under SKIP for a precise cause, else the return point. len: words of the instruction named. -/
def DLane.back (d : Delivery) (skip : Bool) (len : Nat) (cyc : Nat) (codeOf : Nat → BitVec 52) (x : DLane) (t : Thread) : Thread :=
  if skip && decide (d.kind = 0) then
    if 3 ≤ x.slot + len then { t.ready cyc with pc := codeOf x.pkt + 1, slot := 0 } else { t.ready cyc with pc := codeOf x.pkt, slot := x.slot + len }
  else { t.ready cyc with pc := x.retPc, slot := x.retSlot }

/-- Length in slots of the instruction at a position; slots beyond the packet for the control word. -/
def State.lenAt (s : State) (l : Launch) (pkt slot : Nat) : Nat :=
  if slot = 3 then 3
  else match s.vread l.ctx (l.code + l.hdr.codeOff + 16 * pkt) 16 with
    | .error _ => 1
    | .ok b =>
      let ws := (List.range 4).map fun i => BitVec.ofNat 32 (ofBytes ((b.drop (4 * i)).take 4))
      match decode (ws.drop (slot + 1)) with
      | some (_, n) => n
      | none => 1

/-- A thread's registers and waits are gone: flags, return stack, watch, team (R173). -/
def Thread.leave (t : Thread) : Thread :=
  { t with st := .exited, flags := List.replicate 12 0, pend := List.replicate 12 none, rs := [], watch := none, barP := false, syncW := false, team := none }

end Sys2Proof.Machine
end

