-- ==== Sys2Proof/Machine/Access.lean ====
section
/-! DEFINITION. The load-store path of a core: checks, brand misses, the skid, ordering waits, requests and counted operations (10 R225 to R241, 11 R249 to R260, 14 R312, R316). -/
namespace Sys2Proof.Machine

/-! The checks of R250 -/

/-- A global address of a lane (R249). -/
def Stand.gaddr (st : Stand) (a : Addr) (l : Nat) : DW :=
  match a with
  | .v n => st.rv64 n l
  | .s n => st.rs64 n
  | .sl n x => st.rs64 n + x.signExtend 64
  | .vl n x => st.rv64 n l + x.signExtend 64
/-- A scratchpad address of a lane (R249). -/
def Stand.saddr (st : Stand) (a : Addr) (l : Nat) : W :=
  match a with
  | .v n => st.rv n l
  | .s n => st.rs n
  | .sl n x => st.rs n + x
  | .vl n x => st.rv n l + x

def Env.ctx (e : Env) : Nat := e.l.ctx
def State.partOf (s : State) (c : Nat) : Nat := ((s.ctx c).map (·.part)).getD 0

/-- Steps 1 and 2 of R250, with the range rule of the access (R240). -/
def State.pre (s : State) (e : Env) (x w : Nat) (okRegion : Nat → Bool) : Option Nat :=
  if x % w ≠ 0 then some 0x10
  else if s.rangeBad (s.partOf e.ctx) x || !(okRegion (region (s.normal x))) then some 0x11
  else none
/-- Step 4 of R250, once the entry is there; region 4 needs none. -/
def State.perm (s : State) (e : Env) (x : Nat) (n : Need) : Option Nat :=
  let x := s.normal x
  if region x = 4 then none
  else match s.brandOf e.sq.g e.ctx x with
    | some b => if b.gives n then none else some 0x13
    | none => none
/-- A page with no entry (R230). -/
def State.noBrand (s : State) (e : Env) (x : Nat) : Bool :=
  let x := s.normal x
  decide (region x ≠ 4) && (s.brandOf e.sq.g e.ctx x).isNone
/-- The steps in order. -/
def State.chk (s : State) (e : Env) (x w : Nat) (n : Need) (okRegion : Nat → Bool) : Option Nat :=
  match s.pre e x w okRegion with
  | some c => some c
  | none => s.perm e x n
/-- The steps in order for an access that a doorbell page does not take (R42): the range cause. -/
def State.chkB (s : State) (e : Env) (x w : Nat) (n : Need) (okRegion : Nat → Bool) : Option Nat :=
  match s.pre e x w okRegion with
  | some c => some c
  | none => if (s.bellOf e.ctx x).isSome then some 0x11 else s.perm e x n
/-- A load or store: a doorbell page takes aligned words alone. -/
def State.chkL (s : State) (e : Env) (x w : Nat) (n : Need) (okRegion : Nat → Bool) : Option Nat :=
  if w = 4 then s.chk e x w n okRegion else s.chkB e x w n okRegion
def anyRegion (_ : Nat) : Bool := true

/-- A core asks for a page's entry, once (R230). -/
def State.ask (s : State) (g c x launch : Nat) : State :=
  let x := s.normal x
  if s.misses.any fun m => decide (m.2.g = g ∧ m.2.ctx = c ∧ m.2.va / 65536 = x / 65536) then s
  else State.count { s with misses := s.misses ++ [(s.seq, { g := g, ctx := c, va := x, launch := launch })], seq := s.seq + 1 } g c 7 1

/-- The entries of addresses are used, in order (R230). -/
def State.use (s : State) (g c : Nat) (xs : List Nat) : State := xs.foldl (fun s x => s.brandUse g c (s.normal x)) s
/-- Stall the slot while an address that passes steps 1 and 2 misses the brand table, asking for the entries. -/
def State.gate (s : State) (addrs : Env → List Nat) (go : State → Res) : Res :=
  let ms := s.envs.flatMap fun e => ((addrs e).filter (s.noBrand e)).map fun x => (e, x)
  if ms.isEmpty then go (s.envs.foldl (fun s e => s.use e.sq.g e.ctx (addrs e)) s)
  else .next ((ms.foldl (fun s m => s.ask m.1.sq.g m.1.ctx m.2 m.1.sq.launch) s).again)

/-! The skid (R235, R364) -/

/-- A request's landing (R222). -/
def Req.stack (r : Req) : Nat := stackOf r.x
/-- Is a request of a thread's, with a lane that still holds a skid entry? -/
def Req.ofThread (r : Req) (g slot l : Nat) : Bool := decide (r.g = g ∧ r.slot = slot) && r.open_.any fun a => decide (a.lane = l) && !a.ghost
/-- The core whose skid holds a request's entries: for a drain's writes the team's home core. -/
def State.skidOf (s : State) (r : Req) : Nat :=
  match r.team.bind fun t => Store.find t s.teams with
  | some t => t.home
  | none => r.g
/-- Entries in use of a core's skid; a copy command's record is its entry. -/
def State.skidUsed (s : State) (g : Nat) : Nat :=
  ((s.reqs.filter fun r => decide (s.skidOf r.2 = g) && r.2.cmd.isNone).map fun r => r.2.open_.length).foldl (· + ·) 0
  + (s.cpys.filter fun c => decide (c.2.g = g)).length

/-- The hold queue of a page under a tag at a landing (R236). -/
def State.holdOf (s : State) (stack tag x : Nat) : Option Hold :=
  s.holds.find? fun h => decide (h.stack = stack ∧ h.tag = tag ∧ h.page = x / 65536)
/-- The cause of a queue's first request. -/
def State.holdCause (s : State) (h : Hold) : Nat :=
  match h.items with
  | [] => 0x15
  | (r, l) :: _ =>
    match Store.find r s.reqs with
    | some q => ((q.lanes.find? fun a => decide (a.lane = l)).bind (·.parked)).getD 0x15
    | none => 0x15

/-! Ordering (R254, R316) -/

/-- Is the request of a counted operation parked for a lane (R254, R333)? -/
def State.opParked (s : State) (id l : Nat) : Bool := s.reqs.any fun r => decide (r.2.op = some id) && r.2.open_.any fun a => decide (a.lane = l) && a.parked.isSome
/-- Counted load-store operations of a thread that are outstanding, not parked, and older than a mark. -/
def State.opsOf (s : State) (g slot l mark : Nat) : Bool :=
  s.ops.any fun o => decide (o.1 < mark ∧ o.2.g = g ∧ o.2.slot = slot ∧ o.2.kind ≠ .value) && inMask o.2.q l && !(s.opParked o.1 l)
/-- Skid entries of a thread older than a mark that are not parked. -/
def State.skidWait (s : State) (g slot l mark : Nat) : Bool :=
  (s.reqs.any fun r => decide (r.1 < mark ∧ r.2.g = g ∧ r.2.slot = slot) && r.2.team.isNone && r.2.cmd.isNone && r.2.open_.any fun a => decide (a.lane = l ∧ a.parked = none) && !a.ghost)
  || s.cpys.any fun c => decide (c.1 < mark ∧ c.2.g = g ∧ c.2.slot = slot ∧ c.2.lane = l) &&
      (!c.2.moves.isEmpty || !(s.reqs.any fun r => decide (r.2.cmd = some c.1)) || s.reqs.any fun r => decide (r.2.cmd = some c.1) && r.2.open_.any fun a => decide (a.parked = none))
/-- The first parked entry of a thread. -/
def State.parkedOf (s : State) (g slot l : Nat) : Option Notice :=
  (s.reqs.filterMap fun r =>
    if r.2.g = g ∧ r.2.slot = slot ∧ r.2.team = none then
      ((r.2.open_.find? fun a => decide (a.lane = l) && a.parked.isSome && !a.ghost).map fun a => { req := r.1, lane := l, cause := a.parked.getD 0 })
    else none).head?
/-- Does a request hold pending bytes that a release or fence waits for (R316)? Parked ones count until they are acknowledged or dropped, but for one inside a handler, which parked entries do not hold (R254, log 103). -/
def Req.holdsBack (r : Req) (hdl : Bool) : Bool := r.pending && (!hdl || r.open_.any fun a => decide (a.parked = none))
/-- Pending bytes of a cluster's L1 (scope 4 and wider), and of local copies of its sector (scope 5 and wider). -/
def State.pendWait (s : State) (g scope mark : Nat) (hdl : Bool) : Bool :=
  s.reqs.any fun r => decide (r.1 < mark) && r.2.holdsBack hdl &&
    ((decide (4 ≤ scope) && decide (clusterOf r.2.g = clusterOf g)) || (decide (5 ≤ scope) && r.2.inSec && decide (sectorOf (clusterOf r.2.g) = sectorOf (clusterOf g))))
/-- An acquire waits until the thread's earlier releases are acknowledged (R316); a handler's passes a parked one over (R254). -/
def State.relWait (s : State) (g slot l : Nat) (hdl : Bool) : Bool :=
  s.reqs.any fun r => decide (r.2.g = g ∧ r.2.slot = slot) && r.2.rel && r.2.open_.any fun a => decide (a.lane = l) && (!hdl || decide (a.parked = none))
/-- No later access of a thread issues until its acquire load has completed; a handler's passes a parked one over (R254). -/
def State.acqWait (s : State) (g slot l : Nat) (hdl : Bool) : Bool :=
  s.ops.any fun o => decide (o.2.g = g ∧ o.2.slot = slot) && o.2.acq && inMask o.2.q l && !(hdl && s.opParked o.1 l)

/-- Which ordering a slot asks for: none, acquire, release, both. -/
structure Order where
  acq : Bool
  rel : Bool
  scope : Nat
  deriving DecidableEq, Repr
def plainOrder : Order := { acq := false, rel := false, scope := 0 }
/-- Order of an ORD field: bit 0 acquire, bit 1 release. -/
def orderOf (ord scp : Nat) : Order := { acq := decide (bits ord 0 1 = 1), rel := decide (bits ord 1 1 = 1), scope := scp }

/-- The mark of the executing squad: its own when it waits already, else the next key. -/
def State.markOf (s : State) : Nat :=
  match s.issue with
  | sq :: _ => sq.mark.getD s.seq
  | [] => s.seq
def State.setMark (s : State) : State :=
  match s.issue with
  | sq :: t => { s with issue := { sq with mark := some (sq.mark.getD s.seq) } :: t }
  | [] => s

/-- Must a participant wait? -/
def State.blocked (s : State) (o : Order) (e : Env) (l : Nat) : Bool :=
  let mark := s.markOf
  s.acqWait e.sq.g e.slot l e.sq.hdl
  || (o.acq && s.relWait e.sq.g e.slot l e.sq.hdl)
  || (o.rel && (s.opsOf e.sq.g e.slot l mark || s.skidWait e.sq.g e.slot l mark))

/-- A late fault as a delivery (R367): the instruction of the request is named, return is where the thread stands. -/
def State.late (s : State) (n : Notice) (ghost : Bool) (retPc : BitVec 52) (retSlot : Nat) : Option Delivery :=
  (Store.find n.req s.reqs).map fun r =>
    { cause := n.cause, kind := 2, acc := r.acc, ghost := ghost,
      lanes := [{ lane := n.lane, pkt := r.pkt, slot := r.pslot, addr := BitVec.ofNat 64 (((r.lanes.find? fun a => decide (a.lane = n.lane)).map (·.addr)).getD 0), retPc := retPc, retSlot := retSlot, req := some n.req }] }
/-- A copy's source fault holds no place in a queue: once delivered, its entry is gone. -/
def State.noticeDone (s : State) (n : Notice) : State :=
  match Store.find n.req s.reqs with
  | some r => if r.acc = 6 then { s with reqs := s.reqs.del n.req } else s
  | none => s
/-- Deliveries that the lanes of one stand raise at one point in one issue: those of one cause and kind of access are one, in the order of their lowest lane (R359). -/
def mergeLate : List Delivery → Delivery → List Delivery
  | [], d => [d]
  | a :: t, d => if a.cause = d.cause ∧ a.kind = d.kind ∧ a.acc = d.acc ∧ a.ghost = d.ghost then { a with lanes := a.lanes ++ d.lanes } :: t else a :: mergeLate t d
/-- A thread's oldest notice, or its first parked entry. -/
def State.oldest (s : State) (g slot l : Nat) (t : Thread) : Option Notice :=
  match t.notices with
  | n :: _ => some n
  | [] => s.parkedOf g slot l
/-- Take late faults of a stand's threads, given with their deliveries (R254, R359, R367). -/
def State.takeLate (s : State) (key : Nat) (hdl : Bool) (lk : Nat) (ns : List (Notice × Delivery)) : State :=
  let s1 := ns.foldl (fun s n => s.onT key false n.1.lane fun t => { t with notices := t.notices.filter fun m => decide (m ≠ n.1) }) s
  let s2 := ((ns.map (·.2)).foldl mergeLate []).foldl (fun s d => s.take key hdl lk d) s1
  ns.foldl (fun s n => s.noticeDone n.1) s2
/-- Deliver the oldest notice, or the first parked entry, of threads of a stand at a release (R254). -/
def State.lateAt (s : State) (e : Env) (ls : List Nat) : State :=
  s.takeLate e.key e.sq.hdl e.sq.launch (ls.filterMap fun l => (s.oldest e.sq.g e.slot l (e.raw.t e.sq.hdl l)).bind fun n => (s.late n false e.sq.pc e.sq.k).map fun d => (n, d))

/-- Wait for the ordering of every participant (R322): a thread of the program with a parked earlier store takes that fault at the slot; the others wait together; then the leases an acquire ends are ended. -/
def State.endLeases (s : State) (g scope : Nat) : State :=
  let s := if 4 ≤ scope then { s with l1 := s.l1.filter fun c => decide (c.1 / 2 ^ 80 ≠ clusterOf g) } else s
  if 5 ≤ scope then { s with sec := s.sec.filter fun c => decide (c.1 / 2 ^ 80 ≠ sectorOf (clusterOf g)) } else s
def State.ordered (s : State) (o : Order) (go : State → Res) : Res :=
  let s := if o.rel then s.envs.foldl (fun s e => if e.sq.hdl then s else s.lateAt e ((lanesOf e.q).filter fun l => (s.parkedOf e.sq.g e.slot l).isSome)) s else s
  let wait := s.envs.any fun e => (lanesOf e.q).any (s.blocked o e)
  let pend := o.rel && s.envs.any fun e => s.pendWait e.sq.g o.scope s.markOf e.sq.hdl
  if wait || pend then .next s.setMark.again
  else go (if o.acq then s.envs.foldl (fun s e => s.endLeases e.sq.g o.scope) s else s)

/-! Requests and counted operations -/

/-- Where a slot's flag count goes (R103). -/
def Env.flag (e : Env) : Nat :=
  match layout e.sq.ws with
  | .ok is => flagOf e.sq.ctrl is e.sq.k
  | .bad _ is => flagOf e.sq.ctrl is e.sq.k
/-- The tag of a line as a core knows it: by its page's entry (R229), or, in region 4, by the partition (R239). -/
def State.tagFor (s : State) (g c x : Nat) : Nat :=
  let y := s.normal x
  if region y = 4 then dshTag (s.partOf c)
  else match s.brandOf g c y with
    | some b => b.tag
    | none => ((s.ctx c).map (·.ctag)).getD 0
def State.tagAt (s : State) (e : Env) (x : Nat) : Nat := s.tagFor e.sq.g e.ctx x
/-- Is the page's entry one with NP set (R230)? -/
def State.npAt (s : State) (e : Env) (x : Nat) : Bool :=
  match s.brandOf e.sq.g e.ctx (s.normal x) with
  | some b => b.np
  | none => false
/-- The distinct lines of addresses, in order of their lowest lane. -/
def linesOf (xs : List Nat) : List Nat := xs.foldl (fun a x => if a.contains (lineOf x) then a else a ++ [lineOf x]) []

/-- A blank lane of a request. -/
def rlane (l x : Nat) (data new : List Byte) : RLane :=
  { lane := l, addr := x, data := data, new := new, old := [], done := false, parked := none, ghost := false, note := false }

/-- A request of a stand for one line (R260). -/
def State.req (s : State) (e : Env) (kind : ReqKind) (acc scope : Nat) (rel : Bool) (op : Option Nat) (tid : Nat) (lanes : List RLane) : State :=
  let x := (lanes.headD (rlane 0 0 [] [])).addr
  let tag := s.tagAt e x
  let plain := kind.plain rel x
  let r : Req :=
    { g := e.sq.g, slot := e.slot, ctx := e.ctx, tag := tag, launch := e.sq.launch, pkt := e.l.pkt e.sq.pc, pslot := e.sq.k, kind := kind, acc := acc, scope := scope,
      rel := rel, lanes := lanes, op := op, tid := tid, cmd := none, team := none, ord := none, hdl := e.sq.hdl, np := s.npAt e x, sq := e.sq.id,
      inSec := plain && (Store.find (copyKey (sectorOf (clusterOf e.sq.g)) tag x) s.sec).isSome }
  let s := if plain then (s.l1Room (clusterOf e.sq.g) tag x).getD s else s
  let s := { s with reqs := s.reqs ++ [(s.seq, r)], seq := s.seq + 1 }
  if plain then s.touch tag (lineOf x) (some (clusterOf e.sq.g)) else s
/-- One request for each line of a list of lanes. -/
def State.reqLines (s : State) (e : Env) (kind : ReqKind) (acc scope : Nat) (rel : Bool) (op : Option Nat) (lanes : List RLane) : State :=
  (linesOf (lanes.map (·.addr))).foldl (fun s ln => s.req e kind acc scope rel op 0 (lanes.filter fun a => decide (lineOf a.addr = ln))) s

/-- Start a counted operation of a stand: its flag rises in the lanes of q (R104). -/
def State.startOp (s : State) (e : Env) (kind : OpKind) (d nreg scope : Nat) (acq scr : Bool) (tid : Nat) (q : W) (lanes : List OLane) : State :=
  if q = 0 then s
  else
    let o : Op :=
      { g := e.sq.g, slot := e.slot, ctx := e.ctx, launch := e.sq.launch, pkt := e.l.pkt e.sq.pc, pslot := e.sq.k, kind := kind, d := d, nreg := nreg, flag := e.flag, q := q,
        scope := scope, acq := acq, tid := tid, scr := scr, lanes := lanes, hdl := e.sq.hdl, since := s.now, sq := e.sq.id, who := e.q }
    ({ s with ops := s.ops ++ [(s.seq, o)], seq := s.seq + 1 }).onTs e.key e.sq.hdl q fun t => t.flagUp o.flag

/-- The rows of the width table (R251): bytes, registers, sign. -/
structure Width where
  n : Nat
  regs : Nat
  sign : Bool
  sat : Bool
  deriving DecidableEq, Repr
def widthOf (n regs : Nat) (sign : Bool) : Width := { n := n, regs := regs, sign := sign, sat := sign }

/-- The bytes a store sends (R251). -/
def Stand.storeBytes (st : Stand) (w : Width) (d l : Nat) : List Byte :=
  if w.sat then
    let m : Int := 2 ^ (8 * w.n - 1)
    let v := (st.rv d l).toInt
    toBytes w.n (toPat (if v < -m then -m else if m - 1 < v then m - 1 else v) (8 * w.n))
  else toBytes w.n (((List.range w.regs).map fun i => (st.rv (d + i) l).toNat * 2 ^ (32 * i)).foldl (· + ·) 0)

/-- A scratchpad access of a lane (R250): alignment, then bounds. -/
def State.scrChk (s : State) (e : Env) (a n : Nat) : Option Nat :=
  if a % n ≠ 0 then some 0x10 else if s.scrSize e.sq.launch e.sq.g < a + n then some 0x12 else none
/-- Is a scratchpad range read-locked on the core (R290)? -/
def State.locked (s : State) (launch g lo hi : Nat) : Bool :=
  s.teams.any fun t => decide (t.2.home = g ∧ t.2.launch = launch) && t.2.locks.any fun k => decide (k.lo < hi ∧ lo < k.hi)

/-- Give causes to lanes of an environment with their addresses. -/
def Env.split (e : Env) (addr : Nat → Nat) (f : Nat → Option Nat) : W × List Raise :=
  (maskOf ((lanesOf e.q).filter fun l => (f l).isNone),
   (lanesOf e.q).filterMap fun l => (f l).map fun c => { lane := l, cause := c, addr := BitVec.ofNat 64 (addr l) })

/-- LD (R251 to R254, R256). -/
def loadOp (i : Instr) (x : MMem) (w : Width) (s : State) : Res :=
  let o := orderOf x.ord x.scp
  let addr (e : Env) (l : Nat) : Nat := (e.st.gaddr x.addr l).toNat
  s.gate (fun e => ((lanesOf e.q).map (addr e)).filter fun a => (s.pre e a w.n anyRegion).isNone) fun s =>
    s.ordered o fun s => .next (s.on i fun e s =>
      let j := e.split (addr e) fun l => s.chkL e (addr e l) w.n needRd anyRegion
      let ls := (lanesOf j.1).map fun l => { lane := l, addr := s.normal (addr e l), n := w.n, bit := 0, scale := none, got := [], fault := none, np := s.npAt e (addr e l) }
      (s.startOp e (.load w.n w.sign) x.d w.regs x.scp o.acq false 0 j.1 ls).raise e 1 .here j.2)

/-- ST (R251 to R255, R257). -/
def storeOp (i : Instr) (x : MMem) (w : Width) (s : State) : Res :=
  let o := orderOf x.ord x.scp
  let addr (e : Env) (l : Nat) : Nat := (e.st.gaddr x.addr l).toNat
  s.gate (fun e => ((lanesOf e.q).map (addr e)).filter fun a => (s.pre e a w.n anyRegion).isNone) fun s =>
    s.ordered o fun s =>
      if 256 < s.skidUsed ((s.issue.map (·.g)).headD 0) + ((s.envs.map fun e => (lanesOf e.q).length).foldl (· + ·) 0) then .next s.again
      else .next (s.on i fun e s =>
        let j := e.split (addr e) fun l => s.chkL e (addr e l) w.n needWr anyRegion
        let ls := (lanesOf j.1).map fun l => rlane l (s.normal (addr e l)) (e.st.storeBytes w x.d l) []
        (s.reqLines e .store 2 x.scp o.rel none ls).raise e 2 .here j.2)

/-- LDS (R258): read in COUNTED_COMPLETE. -/
def ldsOp (i : Instr) (x : MMem) (w : Width) (s : State) : Res :=
  let o := orderOf x.ord x.scp
  let addr (e : Env) (l : Nat) : Nat := (e.st.saddr x.addr l).toNat
  s.ordered { o with rel := false } fun s => .next (s.on i fun e s =>
    let j := e.split (addr e) fun l => s.scrChk e (addr e l) w.n
    let ls := (lanesOf j.1).map fun l => { lane := l, addr := addr e l, n := w.n, bit := 0, scale := none, got := [], fault := none, np := false }
    (s.startOp e (.lds w.n w.sign) x.d w.regs x.scp o.acq true 0 j.1 ls).raise e 1 .here j.2)

/-- Is an earlier scratchpad operation of a participant still to be performed (R311)? -/
def State.scrBusy (s : State) (e : Env) : Bool :=
  s.ops.any fun o => decide (o.2.g = e.sq.g ∧ o.2.slot = e.slot) && (o.2.scr || o.2.lanes.any fun a => a.sscr) && decide (o.2.q &&& e.q ≠ 0)

/-- STS (R258): the bytes land as the slot executes, in ascending lanes; WAITA sees them. -/
def stsOp (i : Instr) (x : MMem) (w : Width) (s : State) : Res :=
  let o := orderOf x.ord x.scp
  let addr (e : Env) (l : Nat) : Nat := (e.st.saddr x.addr l).toNat
  s.ordered o fun s =>
    if s.envs.any s.scrBusy then .next s.again
    else .next (s.onLanes i 2 fun e l s =>
      let cause :=
        match s.scrChk e (addr e l) w.n with
        | some c => some c
        | none => if s.locked e.sq.launch e.sq.g (addr e l) (addr e l + w.n) then some 0x27 else none
      match cause with
      | some c => (s, [{ lane := l, cause := c, addr := BitVec.ofNat 64 (addr e l) }])
      | none => (s.scrPut e.sq.launch e.sq.g (addr e l) (e.st.storeBytes w x.d l), []))

end Sys2Proof.Machine
end

