-- ==== Sys2Proof/Machine/Alu.lean ====
section
/-! DEFINITION. Moves and special values, integer arithmetic, logic, shifts, bit fields (07 R148 to R158). -/
namespace Sys2Proof.Machine

/-! Shared forms -/

/-- Write one V register. -/
def Env.v1 (e : Env) (d : Nat) (rule : ShapeRule) (f : Nat → W) : Stand × List Raise := (e.st.wv e.q d rule f, [])
/-- A two-source form: V[A] and operand B of each lane. -/
def Env.v2 (e : Env) (x : RB) (f : W → W → W) : Stand × List Raise := e.v1 x.d .auto fun l => f (e.st.rv x.a l) (e.st.src x.b l)
/-- A one-source form. -/
def Env.vu (e : Env) (x : RU) (f : W → W) : Stand × List Raise := e.v1 x.d .auto fun l => f (e.st.rv x.a l)
/-- A three-source form. -/
def Env.v3 (e : Env) (x : RX) (f : W → W → W → W) : Stand × List Raise := e.v1 x.d .auto fun l => f (e.st.rv x.a l) (e.st.src x.b l) (e.st.src x.e l)

/-! Affine rules of R138 -/

def affAdd (neg : Bool) (a b : Option (W × W)) : ShapeRule :=
  match a, b with
  | some (b1, s1), some (b2, s2) => if neg then .aff (b1 - b2) (s1 - s2) else .aff (b1 + b2) (s1 + s2)
  | _, _ => .auto
def affMul (a b : Option (W × W)) : ShapeRule :=
  match a, b with
  | some (b1, s1), some (b2, s2) => if s2 = 0 then .aff (b1 * b2) (s1 * b2) else if s1 = 0 then .aff (b1 * b2) (b1 * s2) else .auto
  | _, _ => .auto
def affShl (a b : Option (W × W)) : ShapeRule :=
  match a, b with
  | some (b1, s1), some (k, s2) => if s2 = 0 ∧ k.toNat < 32 then .aff (b1 <<< k.toNat) (s1 <<< k.toNat) else .auto
  | _, _ => .auto

/-- V[A] as an operand. -/
def Env.affA (e : Env) (a : Nat) : Option (W × W) := e.st.affOf (.v a)

/-! Moves -/

def execMov (x : RDB) (s : State) : Res := regOp (.mov x) (fun e => e.v1 x.d .auto (e.st.src x.b)) s
def execMovS (x : RDB) (s : State) : Res := regOp (.movS x) (fun e => (e.st.ws x.d (e.st.src x.b (lowest e.q)), [])) s
def execSel (x : RSel) (s : State) : Res :=
  regOp (.sel x) (fun e => e.v1 x.d .auto fun l => if e.st.rp x.pe l then e.st.rv x.a l else e.st.src x.b l) s

/-- Write V[i] in the lanes that named it, register by register (R150). -/
def Env.scatter (e : Env) (idx : Nat → Nat) (q : W) (f : Nat → W) : Stand :=
  let regs := ((lanesOf q).map idx).foldl (fun a i => if a.contains i then a else a ++ [i]) []
  regs.foldl (fun st i =>
    let qi := maskOf ((lanesOf q).filter fun l => decide (idx l = i))
    st.wv qi i (if qi = e.q then .auto else .part) f) e.st

/-- The registers that VIDXR and VIDXW name at run time in some lanes (R150). -/
def Stand.idxRegs (st : Stand) (q : W) (i : Instr) : List RegRef :=
  match i with
  | .vidxr x => (lanesOf q).map fun l => .v ((st.rv x.a l).toNat + (st.src x.b l).toInt).toNat
  | .vidxw x => (lanesOf q).map fun l => .v (x.d + (st.rv x.a l).toNat)
  | _ => []

/-- VIDXR, VIDXW (R150): an index outside the declared count raises register-index; a register in shape spill is reloaded first (R142). -/
def execVidxr (x : RB) (s : State) : Res :=
  .next (s.on (.vidxr x) fun e s =>
    let idx (l : Nat) : Int := (e.st.rv x.a l).toNat + (e.st.src x.b l).toInt
    let ok := maskOf ((lanesOf e.q).filter fun l => decide (0 ≤ idx l ∧ idx l < e.l.hdr.vregs))
    let out := e.raw.outRegs ((lanesOf ok).map fun l => .v (idx l).toNat)
    if out.isEmpty then s.commit e (e.st.wv ok x.d .auto fun l => e.st.rv (idx l).toNat l) (raiseAll (e.q &&& ~~~ok) 0x20)
    else s.parkGran e 0 out)
def execVidxw (x : RB) (s : State) : Res :=
  .next (s.on (.vidxw x) fun e s =>
    let idx (l : Nat) : Nat := x.d + (e.st.rv x.a l).toNat
    let ok := maskOf ((lanesOf e.q).filter fun l => decide (idx l < e.l.hdr.vregs))
    let out := e.raw.outRegs ((lanesOf ok).map fun l => .v (idx l))
    if e.raw.mode0 e.sq.hdl && (lanesOf ok).any fun l => decide (4 ≤ idx l) then s.take e.key true e.sq.launch (e.delivery 0 0 6 .here (raiseAll e.q 6))
    else if out.isEmpty then s.commit e (e.scatter idx ok (e.st.src x.b)) (raiseAll (e.q &&& ~~~ok) 0x20)
    else s.parkGran e 0 out)

/-! Special values (R151, R152) -/

/-- The guest-time mapping in force of a function (R412). -/
def Fn.guest (f : Fn) (t : Nat) : Nat := (f.gOfsLive + t * (if f.gMulLive = 0 then 2 ^ 24 else f.gMulLive) / 2 ^ 24) % 2 ^ 64
/-- The function that owns a context's partition (R407). -/
def State.fnOf (s : State) (c : Nat) : Nat := match s.ctx c with | some cx => (s.part cx.part).fn | none => 0
/-- Time as a context reads it (R413). -/
def State.guestNow (s : State) (c : Nat) : Nat := (s.fn (s.fnOf c)).guest s.now

/-- The value of a name in a lane. -/
def getVal (s : State) (e : Env) (name lane : Nat) : Nat :=
  let lin := 32 * e.raw.num + lane
  let t := e.raw.thr.getD lane Thread.gone
  let g := e.sq.g
  match name with
  | 0 => lin % e.l.x
  | 1 => lin / e.l.x % e.l.y
  | 2 => lin / e.l.x / e.l.y
  | 3 => lin
  | 4 => lane
  | 5 => e.raw.num
  | 6 => e.slot
  | 7 => g % 4
  | 8 => clusterOf g % 24
  | 9 => dieOf g
  | 10 => s.pkg.chip
  | 11 => g
  | 12 => e.l.number
  | 13 => (match t.team with | some k => (match s.team k with | some tm => tm.num | none => 0xFFFFFFFF) | none => 0xFFFFFFFF)
  | 14 => s.guestNow e.l.ctx
  | 15 => e.l.args
  | 16 => e.l.x
  | 17 => e.l.y
  | 18 => e.l.z
  | 19 => e.l.ctx
  | 20 => ((s.ctx e.l.ctx).map (·.part)).getD 0
  | 21 => e.st.fstk.toNat
  | 24 => t.trap.tcause.toNat
  | 25 => t.trap.tpkt.toNat
  | 26 => t.trap.tslot.toNat
  | 27 => t.trap.tord.toNat
  | 28 => t.trap.taddr.toNat
  | 29 => e.raw.tmaska.toNat
  | 30 => e.raw.tmaskf.toNat
  | _ => 0

def execGetV (x : RU) (s : State) : Res :=
  regOp (.getV x) (fun e =>
    if getWide x.a then (e.st.wv64 e.q x.d .auto fun l => BitVec.ofNat 64 (getVal s e x.a l), [])
    else e.v1 x.d .auto fun l => BitVec.ofNat 32 (getVal s e x.a l)) s
def execGetS (x : RU) (s : State) : Res :=
  regOp (.getS x) (fun e =>
    let v := getVal s e x.a (lowest e.q)
    if getWide x.a then ((e.st.ws x.d (BitVec.ofNat 32 v)).ws (x.d + 1) (BitVec.ofNat 32 (v / 2 ^ 32)), [])
    else (e.st.ws x.d (BitVec.ofNat 32 v), [])) s
def execPut (x : RDB) (s : State) : Res :=
  regOp (.put x) (fun e =>
    let v := e.st.src x.b (lowest e.q)
    if x.d = 21 then ({ e.st with fstk := v.setWidth 3 ||| e.st.raisedIn e.bundle }, [])
    else if e.sq.hdl then ({ e.st with tmaska := v }, [])
    else (e.st, [])) s

/-! Integer arithmetic (R153, R154) -/

/-- Clamp to n-bit two's complement. -/
def satS (x : Int) (n : Nat) : Int :=
  let m : Int := 2 ^ (n - 1)
  if x < -m then -m else if m - 1 < x then m - 1 else x
def w32i (x : Int) : W := BitVec.ofInt 32 x

def execIadd (x : RB) (s : State) : Res :=
  regOp (.iadd x) (fun e => e.v1 x.d (affAdd false (e.affA x.a) (e.st.affOf x.b)) fun l => e.st.rv x.a l + e.st.src x.b l) s
def execIsub (x : RB) (s : State) : Res :=
  regOp (.isub x) (fun e => e.v1 x.d (affAdd true (e.affA x.a) (e.st.affOf x.b)) fun l => e.st.rv x.a l - e.st.src x.b l) s
def execIadds (x : RB) (s : State) : Res := regOp (.iadds x) (fun e => e.v2 x fun a b => w32i (satS (a.toInt + b.toInt) 32)) s
def execIsubs (x : RB) (s : State) : Res := regOp (.isubs x) (fun e => e.v2 x fun a b => w32i (satS (a.toInt - b.toInt) 32)) s
def execIneg (x : RU) (s : State) : Res := regOp (.ineg x) (fun e => e.vu x fun a => -a) s
def execIabs (x : RU) (s : State) : Res := regOp (.iabs x) (fun e => e.vu x fun a => w32i a.toInt.natAbs) s
def execImin (x : RB) (s : State) : Res := regOp (.imin x) (fun e => e.v2 x fun a b => w32i (min a.toInt b.toInt)) s
def execImax (x : RB) (s : State) : Res := regOp (.imax x) (fun e => e.v2 x fun a b => w32i (max a.toInt b.toInt)) s

/-- Bits [63:32] of a signed product. -/
def mulHi (a b : W) : Int := a.toInt * b.toInt / 2 ^ 32

def execImul (x : RB) (s : State) : Res :=
  regOp (.imul x) (fun e => e.v1 x.d (affMul (e.affA x.a) (e.st.affOf x.b)) fun l => e.st.rv x.a l * e.st.src x.b l) s
def execImulh (x : RB) (s : State) : Res := regOp (.imulh x) (fun e => e.v2 x fun a b => w32i (mulHi a b)) s
def execImulhu (x : RB) (s : State) : Res := regOp (.imulhu x) (fun e => e.v2 x fun a b => BitVec.ofNat 32 (a.toNat * b.toNat / 2 ^ 32)) s
def execImad (x : RX) (s : State) : Res := regOp (.imad x) (fun e => e.v3 x fun a b c => a * b + c) s
def execImadh (x : RX) (s : State) : Res := regOp (.imadh x) (fun e => e.v3 x fun a b c => w32i (mulHi a b + c.toInt)) s

/-! Logic and shifts (R155, R156) -/

def execAnd (x : RB) (s : State) : Res := regOp (.and x) (fun e => e.v2 x fun a b => a &&& b) s
def execOr (x : RB) (s : State) : Res := regOp (.or x) (fun e => e.v2 x fun a b => a ||| b) s
def execXor (x : RB) (s : State) : Res := regOp (.xor x) (fun e => e.v2 x fun a b => a ^^^ b) s
def execAndn (x : RB) (s : State) : Res := regOp (.andn x) (fun e => e.v2 x fun a b => a &&& ~~~b) s
def execOrn (x : RB) (s : State) : Res := regOp (.orn x) (fun e => e.v2 x fun a b => a ||| ~~~b) s
def execXnor (x : RB) (s : State) : Res := regOp (.xnor x) (fun e => e.v2 x fun a b => ~~~(a ^^^ b)) s

/-- x × 2^k, 0 when k ≥ 32 (R156). -/
def shl32 (a k : W) : W := if k.toNat < 32 then a <<< k.toNat else 0
def execShl (x : RB) (s : State) : Res :=
  regOp (.shl x) (fun e => e.v1 x.d (affShl (e.affA x.a) (e.st.affOf x.b)) fun l => shl32 (e.st.rv x.a l) (e.st.src x.b l)) s
def execShr (x : RB) (s : State) : Res := regOp (.shr x) (fun e => e.v2 x fun a b => a >>> b.toNat) s
def execSar (x : RB) (s : State) : Res := regOp (.sar x) (fun e => e.v2 x fun a b => a.sshiftRight (min b.toNat 31)) s
def execRol (x : RB) (s : State) : Res := regOp (.rol x) (fun e => e.v2 x fun a b => a.rotateLeft (b.toNat % 32)) s
def execRor (x : RB) (s : State) : Res := regOp (.ror x) (fun e => e.v2 x fun a b => a.rotateRight (b.toNat % 32)) s

/-! Bit fields (R157, R158) -/

/-- A field of len bits from pos of an exact integer, sign-extended or not. -/
def bfe (sgn : Bool) (a p n : W) : W :=
  let x : Int := if sgn then a.toInt else a.toNat
  let pos := min p.toNat 32
  let len := min n.toNat 32
  if len = 0 then 0
  else
    let f := (x / (2 ^ pos : Nat) % (2 ^ len : Nat)).toNat
    if sgn then w32i (sx f len) else BitVec.ofNat 32 f
def bfi (a b c : W) : W :=
  let pos := bits c.toNat 0 8
  let len := min (bits c.toNat 8 8) 32
  let m : W := BitVec.ofNat 32 ((2 ^ len - 1) * 2 ^ pos)
  (a &&& ~~~m) ||| (BitVec.ofNat 32 (b.toNat * 2 ^ pos) &&& m)
def popc (a : W) : W := BitVec.ofNat 32 ((lanesOf a).length)
def clz (a : W) : W := BitVec.ofNat 32 (if a = 0 then 32 else 31 - Nat.log2 a.toNat)
def brev (a : W) : W := maskOf ((lanesOf a).map fun i => 31 - i)
def prmtB (a b c : W) : W :=
  let src := a.toNat + 2 ^ 32 * b.toNat
  let byte (i : Nat) : Nat :=
    let k := bits c.toNat (4 * i) 4
    let y := bits src (8 * (k % 8)) 8
    if k < 8 then y else if 128 ≤ y then 255 else 0
  BitVec.ofNat 32 (byte 0 + 2 ^ 8 * byte 1 + 2 ^ 16 * byte 2 + 2 ^ 24 * byte 3)
def prmtN (a b c : W) : W :=
  let src := a.toNat + 2 ^ 32 * b.toNat
  BitVec.ofNat 32 (((List.range 8).map fun i => 2 ^ (4 * i) * bits src (4 * bits c.toNat (4 * i) 4) 4).foldl (· + ·) 0)

def execBfe (x : RX) (s : State) : Res := regOp (.bfe x) (fun e => e.v3 x (bfe true)) s
def execBfeu (x : RX) (s : State) : Res := regOp (.bfeu x) (fun e => e.v3 x (bfe false)) s
def execBfi (x : RX) (s : State) : Res := regOp (.bfi x) (fun e => e.v3 x bfi) s
def execPopc (x : RU) (s : State) : Res := regOp (.popc x) (fun e => e.vu x popc) s
def execClz (x : RU) (s : State) : Res := regOp (.clz x) (fun e => e.vu x clz) s
def execBrev (x : RU) (s : State) : Res := regOp (.brev x) (fun e => e.vu x brev) s
def execPrmtB (x : RX) (s : State) : Res := regOp (.prmtB x) (fun e => e.v3 x prmtB) s
def execPrmtN (x : RX) (s : State) : Res := regOp (.prmtN x) (fun e => e.v3 x prmtN) s

end Sys2Proof.Machine
end

