-- ==== Sys2Proof/Machine/Lanes.lean ====
section
/-! DEFINITION. Comparisons, predicates, shapes, cross-lane exchange and reduction (07 R159 to R168). -/
namespace Sys2Proof.Machine

/-! Comparisons (R159) -/

/-- Write one predicate from a condition of V[A] and operand B. -/
def Env.cmp (e : Env) (x : RB) (f : W → W → Bool) : Stand × List Raise := (e.st.wp e.q x.d fun l => f (e.st.rv x.a l) (e.st.src x.b l), [])

def execIcmpEq (x : RB) (s : State) : Res := regOp (.icmpEq x) (fun e => e.cmp x fun a b => decide (a = b)) s
def execIcmpNe (x : RB) (s : State) : Res := regOp (.icmpNe x) (fun e => e.cmp x fun a b => decide (a ≠ b)) s
def execIcmpLt (x : RB) (s : State) : Res := regOp (.icmpLt x) (fun e => e.cmp x fun a b => a.slt b) s
def execIcmpLe (x : RB) (s : State) : Res := regOp (.icmpLe x) (fun e => e.cmp x fun a b => a.sle b) s
def execIcmpGt (x : RB) (s : State) : Res := regOp (.icmpGt x) (fun e => e.cmp x fun a b => b.slt a) s
def execIcmpGe (x : RB) (s : State) : Res := regOp (.icmpGe x) (fun e => e.cmp x fun a b => b.sle a) s
def execIcmpLtu (x : RB) (s : State) : Res := regOp (.icmpLtu x) (fun e => e.cmp x fun a b => a.ult b) s
def execIcmpGeu (x : RB) (s : State) : Res := regOp (.icmpGeu x) (fun e => e.cmp x fun a b => b.ule a) s

/-! Predicates (R160) -/

/-- The predicate in operand B. -/
def Stand.bp (st : Stand) (b : Src) (l : Nat) : Bool :=
  match b with
  | .v n => st.rp n l
  | .s _ => false
  | .imm _ => false
  | .lit _ => false
def Env.p2 (e : Env) (x : RB) (f : Bool → Bool → Bool) : Stand × List Raise := (e.st.wp e.q x.d fun l => f (e.st.rp x.a l) (e.st.bp x.b l), [])
def execPand (x : RB) (s : State) : Res := regOp (.pand x) (fun e => e.p2 x fun a b => a && b) s
def execPor (x : RB) (s : State) : Res := regOp (.por x) (fun e => e.p2 x fun a b => a || b) s
def execPxor (x : RB) (s : State) : Res := regOp (.pxor x) (fun e => e.p2 x fun a b => a ^^ b) s
def execPnot (x : RU) (s : State) : Res := regOp (.pnot x) (fun e => (e.st.wp e.q x.d fun l => !(e.st.rp x.a l), [])) s
def execPmov (x : RU) (s : State) : Res := regOp (.pmov x) (fun e => (e.st.wp e.q x.d fun l => e.st.rp x.a l, [])) s

/-- The cause of a P2V or V2P count in a lane: outside 1 to 32, or reaching past the declared predicates; in a handler P0 to P3 exist (R360). -/
def Env.countCause (e : Env) (base : Nat) (b : Src) (l : Nat) : Option Nat :=
  let n := (e.st.src b l).toInt
  if n < 1 ∨ 32 < n then some 0x04 else if (e.l.hdr.pregs : Int) ≤ base + n - 1 then some 0x20 else none
/-- Split the participants by a cause. -/
def Env.judge (e : Env) (f : Nat → Option Nat) : W × List Raise :=
  (maskOf ((lanesOf e.q).filter fun l => (f l).isNone),
   (lanesOf e.q).filterMap fun l => (f l).map fun c => { lane := l, cause := c, addr := 0 })
def execP2v (x : RB) (s : State) : Res :=
  regOp (.p2v x) (fun e =>
    let j := e.judge (e.countCause x.a x.b)
    (e.st.wv j.1 x.d .auto fun l =>
      maskOf ((List.range (e.st.src x.b l).toNat).filter fun i => e.st.rp (x.a + i) l), j.2)) s
def execV2p (x : RB) (s : State) : Res :=
  .next (s.on (.v2p x) fun e s =>
    let j := e.judge (e.countCause x.d x.b)
    if e.raw.mode0 e.sq.hdl && (lanesOf j.1).any fun l => decide (4 < x.d + (e.st.src x.b l).toNat) then
      s.take e.key true e.sq.launch (e.delivery 0 0 6 .here (raiseAll e.q 6))
    else
      s.commit e ((List.range 32).foldl (fun st i =>
        st.wp (maskOf ((lanesOf j.1).filter fun l => decide (i < (e.st.src x.b l).toNat))) (x.d + i) fun l => inMask (e.st.rv x.a l) i) e.st) j.2)

/-! Shapes (R161 to R164) -/

/-- AFF: base plus lane × stride; affine when V[A] is U or A and the stride is U (R162). -/
def affRule (a b : Option (W × W)) : ShapeRule :=
  match a, b with
  | some (b1, s1), some (b2, s2) => if s2 = 0 then .aff b1 (s1 + b2) else .auto
  | _, _ => .auto
def execAff (x : RB) (s : State) : Res :=
  regOp (.aff x) (fun e => e.v1 x.d (affRule (e.affA x.a) (e.st.affOf x.b)) fun l => e.st.rv x.a l + BitVec.ofNat 32 l * e.st.src x.b l) s
def execShape (x : RU) (s : State) : Res :=
  regOp (.shape x) (fun e =>
    let r := e.st.v.getD x.a (.u 0)
    e.v1 x.d .auto fun _ => BitVec.ofNat 32 (r.code + 256 * r.gran + 65536 * e.raw.hold)) s
/-- Rewrite registers D to D + A of a stand, whoever participates. -/
def Stand.reshape (st : Stand) (d n : Nat) (f : VReg → VReg) : Stand :=
  { st with v := (List.range n).foldl (fun v i => v.modify (d + i) f) st.v }
def execExpand (x : RU) (s : State) : Res :=
  regOp (.expand x) (fun e => (e.st.reshape x.d (x.a + 1) fun r => .gr (lanes32.map r.lane), [])) s
def execSqueeze (x : RU) (s : State) : Res :=
  regOp (.squeeze x) (fun e => (e.st.reshape x.d (x.a + 1) fun r => recompress true true e.st.live (lanes32.map r.lane), [])) s

/-! Cross-lane exchange (R165 to R167) -/

/-- A shuffle: lane l reads the lane it names, or itself when none lies there. -/
def Env.shfl (e : Env) (x : RB) (f : Nat → Nat → Int) : Stand × List Raise :=
  e.v1 x.d .auto fun l =>
    let j := f l (e.st.src x.b l).toNat
    if 0 ≤ j ∧ j ≤ 31 then e.st.rv x.a j.toNat else e.st.rv x.a l
def execShflIdx (x : RB) (s : State) : Res := regOp (.shflIdx x) (fun e => e.shfl x fun _ b => ((b % 32 : Nat) : Int)) s
def execShflUp (x : RB) (s : State) : Res := regOp (.shflUp x) (fun e => e.shfl x fun l b => (l : Int) - b) s
def execShflDn (x : RB) (s : State) : Res := regOp (.shflDn x) (fun e => e.shfl x fun l b => (l : Int) + b) s
def execShflXor (x : RB) (s : State) : Res := regOp (.shflXor x) (fun e => e.shfl x fun l b => ((l ^^^ (b % 32) : Nat) : Int)) s
def execVoteAny (x : RU) (s : State) : Res := regOp (.voteAny x) (fun e => (e.st.wp e.q x.d fun _ => (lanesOf e.q).any (e.st.rp x.a), [])) s
def execVoteAll (x : RU) (s : State) : Res := regOp (.voteAll x) (fun e => (e.st.wp e.q x.d fun _ => (lanesOf e.q).all (e.st.rp x.a), [])) s
def execVoteBal (x : RU) (s : State) : Res := regOp (.voteBal x) (fun e => e.v1 x.d .auto fun _ => maskOf ((lanesOf e.q).filter (e.st.rp x.a))) s
def execElect (x : RD) (s : State) : Res := regOp (.elect x) (fun e => (e.st.wp e.q x.d fun l => decide (l = lowest e.q), [])) s

/-! Reduction (R168) -/

/-- Fold the participants' values in ascending lane order; every participant receives the result. -/
def Env.redx (e : Env) (x : RU) (f : W → W → W) : Stand × List Raise :=
  match (lanesOf e.q).map (e.st.rv x.a) with
  | [] => (e.st, [])
  | v :: vs => e.v1 x.d .auto fun _ => vs.foldl f v
def execRedxAdd (x : RU) (s : State) : Res := regOp (.redxAdd x) (fun e => e.redx x fun a b => a + b) s
def execRedxMin (x : RU) (s : State) : Res := regOp (.redxMin x) (fun e => e.redx x fun a b => if b.slt a then b else a) s
def execRedxMax (x : RU) (s : State) : Res := regOp (.redxMax x) (fun e => e.redx x fun a b => if a.slt b then b else a) s
def execRedxMinu (x : RU) (s : State) : Res := regOp (.redxMinu x) (fun e => e.redx x fun a b => if b.ult a then b else a) s
def execRedxMaxu (x : RU) (s : State) : Res := regOp (.redxMaxu x) (fun e => e.redx x fun a b => if a.ult b then b else a) s
def execRedxAnd (x : RU) (s : State) : Res := regOp (.redxAnd x) (fun e => e.redx x fun a b => a &&& b) s
def execRedxOr (x : RU) (s : State) : Res := regOp (.redxOr x) (fun e => e.redx x fun a b => a ||| b) s
/-- The FP32 sum in lane order, with the flags of every step. -/
def faddList : W × Flags → List W → W × Flags
  | acc, [] => acc
  | (a, fl), v :: vs => let r := w32 (fadd fp32 a.toNat v.toNat); faddList (r.1, fl ||| r.2) vs
def execRedxFadd (x : RU) (s : State) : Res :=
  regOp (.redxFadd x) (fun e =>
    match (lanesOf e.q).map (e.st.rv x.a) with
    | [] => (e.st, [])
    | v :: vs => let r := faddList (v, 0) vs; ((e.st.wv e.q x.d .auto fun _ => r.1).sticky e.bundle r.2, [])) s

end Sys2Proof.Machine
end

