-- ==== Sys2Proof/Machine/Branch.lean ====
section
/-! DEFINITION. Control transfer (07 R169 to R172). -/
namespace Sys2Proof.Machine

/-- The packet index of the executing packet. -/
def Env.pkt (e : Env) : Nat := e.l.pkt e.sq.pc
/-- The program counter of a packet index. -/
def Env.pcAt (e : Env) (i : Nat) : BitVec 52 := e.l.codePc + BitVec.ofNat 52 i
/-- Is an index one of the code's packets (R98)? -/
def Env.inCode (e : Env) (i : Int) : Bool := decide (0 ≤ i ∧ i < (e.l.hdr.codeSize / 16 : Nat))
/-- The thread of a participant. -/
def Env.t (e : Env) (l : Nat) : Thread := e.raw.t e.sq.hdl l

/-- A transfer (R169): in each participant a cause, or a target and a change of the return stack. Threads that take it leave the squad. -/
def State.transfer (s : State) (i : Instr) (f : Env → Nat → Except Nat (Int × (List Nat → List Nat))) : Res :=
  .next (s.on i fun e s =>
    let go (s : State) (l : Nat) : State :=
      match f e l with
      | .error _ => s
      | .ok (t, g) => s.jump e (bit l) (e.pcAt t.toNat) fun th => { th with rs := g th.rs }
    let bad := (lanesOf e.q).filterMap fun l =>
      match f e l with
      | .error c => some { lane := l, cause := c, addr := 0 }
      | .ok _ => none
    ((lanesOf e.q).foldl go s).raise e 0 .here bad)

/-- A target that must lie in the code. -/
def Env.to (e : Env) (t : Int) : Except Nat (Int × (List Nat → List Nat)) := if e.inCode t then .ok (t, id) else .error 0x01
/-- A call (R171): depth before target. -/
def Env.callTo (e : Env) (l : Nat) (t : Int) : Except Nat (Int × (List Nat → List Nat)) :=
  if 16 ≤ (e.t l).rs.length then .error 0x03
  else if e.inCode t then .ok (t, fun rs => (e.pkt + 1) :: rs) else .error 0x01

def execBra (x : BDisp) (s : State) : Res := s.transfer (.bra x) fun e _ => e.to (e.pkt + x.disp)
def execBrxV (x : BReg) (s : State) : Res := s.transfer (.brxV x) fun e l => e.to (e.st.rv x.a l).toNat
def execBrxS (x : BReg) (s : State) : Res := s.transfer (.brxS x) fun e _ => e.to (e.st.rs x.a).toNat
def execCall (x : BDisp) (s : State) : Res := s.transfer (.call x) fun e l => e.callTo l (e.pkt + x.disp)
def execCallxV (x : BReg) (s : State) : Res := s.transfer (.callxV x) fun e l => e.callTo l (e.st.rv x.a l).toNat
def execCallxS (x : BReg) (s : State) : Res := s.transfer (.callxS x) fun e l => e.callTo l (e.st.rs x.a).toNat
def execRet (x : C0) (s : State) : Res :=
  s.transfer (.ret x) fun e l =>
    match (e.t l).rs with
    | [] => .error 0x03
    | r :: _ => if e.inCode r then .ok (r, fun rs => rs.tail) else .error 0x01

/-- RECON: participants are held at the packet (R128, R172). -/
def execRecon (x : C0) (s : State) : Res :=
  .next (s.on (.recon x) fun e s =>
    (s.dropLanes e.key e.sq.hdl e.q).onTs e.key e.sq.hdl e.q fun t => { t with st := .held, pc := e.sq.pc, slot := e.sq.k })
/-- YIELD: on to the next packet, with the ready time restarted (R172). -/
def execYield (x : C0) (s : State) : Res :=
  .next (s.on (.yield x) fun e s => (s.dropLanes e.key e.sq.hdl e.q).arrive e.key e.sq.hdl e.sq.launch e.q (e.sq.pc + 1) 0)
/-- NOP (R114). -/
def execNop (_x : C0) (s : State) : Res := .next s

/-- Are all live threads of a set held? -/
def allHeld (ts : List Thread) : Bool := (ts.all fun t => decide (t.st = .held ∨ t.st = .exited)) && ts.any fun t => decide (t.st = .held)
/-- The packet at which a set of threads is released: all live threads held, the lowest packet (R129). -/
def releaseOf (l : Launch) (ts : List Thread) : Option (BitVec 52) :=
  if !(allHeld ts) then none
  else
    match ts.filter fun t => decide (t.st = .held) with
    | [] => none
    | t :: r => some (r.foldl (fun p t => if l.pkt t.pc < l.pkt p then t.pc else p) t.pc)

/-- The threads a stand's RECON judges: the handler's when they are all held, else the program's (R128). -/
def Stand.judged (st : Stand) : Bool × List Thread :=
  match st.h with
  | some h => if allHeld h.thr then (true, h.thr) else (false, st.thr)
  | none => (false, st.thr)

/-- RECON_RELEASE (R129): a release, or a split release at the lowest packet index, which counts (R428). -/
def execReconRelease (g slot : Nat) (s : State) : Res :=
  let key := standKey g slot
  match s.stand key with
  | none => .next s
  | some st =>
    match s.launch st.launch with
    | none => .next s
    | some l =>
      let j := st.judged
      if st.place ≠ .resident then .next s
      else
        match releaseOf l j.2 with
        | none => .next s
        | some pc =>
          let q := maskOf (lanes32.filter fun i => let t := j.2.getD i Thread.gone; decide (t.st = .held ∧ t.pc = pc))
          let split := j.2.any fun t => decide (t.st = .held ∧ t.pc ≠ pc)
          .next ((if split then s.count g l.ctx 5 1 else s).arrive key j.1 st.launch q (pc + 1) 0)

end Sys2Proof.Machine
end

