-- ==== Sys2Proof/Machine/Land.lean ====
section
/-! DEFINITION. Requests at their home and at the landing: loads, stores, atomics, hold queues, notices, brand fills, invalidation (10 R225 to R241, 11 R252 to R260, 14 R312, 15 R331 to R336, 17 R366 to R368). -/
namespace Sys2Proof.Machine

/-! The bank ALU (R73, R331, R334) -/

/-- The new value of an integer atomic of w bits, or none when nothing is written. -/
def atomNew (op w old d c : Nat) : Option Nat :=
  match op with
  | 0 => some ((old + d) % 2 ^ w)
  | 1 => some (if sx d w < sx old w then d % 2 ^ w else old)
  | 2 => some (if sx old w < sx d w then d % 2 ^ w else old)
  | 3 => some (old &&& d)
  | 4 => some (old ||| d)
  | 5 => some (old ^^^ d)
  | 6 => some (d % 2 ^ w)
  | _ => if old = d % 2 ^ w then some (c % 2 ^ w) else none
/-- The new value of a floating-point atomic; no flag is raised. -/
def atomFNew (op old d : Nat) : Nat :=
  let o : W := BitVec.ofNat 32 old
  let v : W := BitVec.ofNat 32 d
  match op with
  | 0 => (fadd fp32 old d).1
  | 1 => (packed fun i => fadd bf16 (half o i) (half v i)).1.toNat
  | 2 => (packed fun i => fadd fp16 (half o i) (half v i)).1.toNat
  | 3 => (fminmax fp32 false old d).1
  | 4 => (fminmax fp32 true old d).1
  | _ => (fadd fp64 old d).1
/-- One CHUNK request: start, count, the new NEXT if one is written. -/
def chunkDraw (next end_ div minc : Nat) : Nat × Nat × Option Nat :=
  if end_ ≤ next then (next, 0, none)
  else
    let rem := end_ - next
    let d := max div 1
    let count := min rem (max (max minc 1) ((rem + d - 1) / d))
    (next, count, some ((next + count) % 2 ^ 32))

/-- The format code of an accumulator's type (R277). -/
def accFmt (ty : Nat) : Nat := if ty = 0 then 0 else if ty = 1 then 8 else 3
/-- Bytes with a mask: none, or the bits of the mask taken from the data. -/
def mergeBytes (old data mask : List Byte) : List Byte :=
  if mask.isEmpty then data else (List.range data.length).map fun i => (old.getD i 0 &&& ~~~(mask.getD i 0)) ||| (data.getD i 0 &&& mask.getD i 0)
/-- Replace bytes at an offset. -/
def splice (old : List Byte) (off : Nat) (bs : List Byte) : List Byte := old.take off ++ bs ++ old.drop (off + bs.length)
/-- An accumulator element added onto an element of a drain's target (R196, R293). ty: the accumulator's type. -/
def addElem (fmt : Nat) (mode : Rnd) (ty t a : Nat) : Nat :=
  if fmt = 8 then (t + a) % 2 ^ 32 else (fusedSum (binOf fmt) mode [] [valF fmt t, valF (accFmt ty) a]).1
/-- A line part: for each element its offset and eight bytes of accumulator. -/
def addParts (fmt : Nat) (mode : Rnd) (ty : Nat) (old : List Byte) (parts : List Byte) : List Byte :=
  let n := fmtBits fmt / 8
  (List.range (parts.length / 9)).foldl (fun bs i =>
    let off := (parts.getD (9 * i) 0).toNat
    splice bs off (toBytes n (addElem fmt mode ty (ofBytes ((bs.drop off).take n)) (ofBytes ((parts.drop (9 * i + 1)).take 8))))) old
/-- What a lane's operation reads and writes at its home: bytes it reads, the bytes it writes at its address (none: no write), the bytes it returns. -/
def laneOp (kind : ReqKind) (old : List Byte) (a : RLane) : Option (List Byte) × List Byte :=
  match kind with
  | .store => (some a.data, [])
  | .atom op w => ((atomNew op w (ofBytes old) (ofBytes a.data) 0).map (toBytes (w / 8)), old)
  | .cas w => ((atomNew 7 w (ofBytes old) (ofBytes a.data) (ofBytes a.new)).map (toBytes (w / 8)), old)
  | .atomF op => (some (toBytes old.length (atomFNew op (ofBytes old) (ofBytes a.data))), old)
  | .chunk =>
    let r := chunkDraw (ofBytes (old.take 4)) (ofBytes ((old.drop 4).take 4)) (ofBytes ((old.drop 8).take 4)) (ofBytes ((old.drop 12).take 4))
    (r.2.2.map (toBytes 4), toBytes 4 r.1 ++ toBytes 4 r.2.1)
  | .red op => ((atomNew op 32 (ofBytes old) (ofBytes a.data) 0).map (toBytes 4), [])
  | .clean => (none, [])
  | .tdesc => (some a.data, [])
  | .copy => (some (mergeBytes old a.data a.new), [])
  | .drain => (some (mergeBytes old a.data a.new), [])
  | .drainAdd fmt rnd ty => (some (addParts fmt (rndOf rnd) ty old a.data), [])
/-- Bytes a lane's operation reads. -/
def ReqKind.width (n : Nat) : ReqKind → Nat
  | .store => 0
  | .atom _ w => w / 8
  | .cas w => w / 8
  | .atomF op => if op = 5 then 8 else 4
  | .chunk => 16
  | .red _ => 4
  | .clean => 0
  | .tdesc => 0
  | .copy => n
  | .drain => n
  | .drainAdd _ _ _ => 128
/-- Does the home perform it as an atomic (R312 item 6)? -/
def ReqKind.bank : ReqKind → Bool
  | .atom _ _ => true
  | .cas _ => true
  | .atomF _ => true
  | .chunk => true
  | .red _ => true
  | .drainAdd _ _ _ => true
  | .store => false
  | .clean => false
  | .tdesc => false
  | .copy => false
  | .drain => false
/-- Permissions at the landing (R229). -/
def ReqKind.need : ReqKind → Need
  | .store => needWr
  | .atom _ _ => needAt
  | .cas _ => needAt
  | .atomF _ => needAt
  | .chunk => needAt
  | .red _ => needAt
  | .clean => needRd
  | .tdesc => needWr
  | .copy => needWr
  | .drain => needMxW
  | .drainAdd _ _ _ => needMxW

/-! Copies of lines (R226, R227, R312) -/

/-- Drop a line from a cluster's L1 and its sector. Bytes that are pending there stay so: they are those of the requests themselves (R312 item 1). -/
def State.dropCopies (s : State) (g tag x : Nat) : State :=
  { s with l1 := s.l1.del (copyKey (clusterOf g) tag x), sec := s.sec.del (copyKey (sectorOf (clusterOf g)) tag x) }
/-- Put bytes into a copy that is present. -/
def Copy.patch (off : Nat) (bs : List Byte) (c : Copy) : Copy := { c with bytes := c.bytes.take off ++ bs ++ c.bytes.drop (off + bs.length) }
def State.patchCopies (s : State) (g tag x : Nat) (bs : List Byte) : State :=
  let f := Copy.patch (x % 128) bs
  { s with l1 := s.l1.adjust (copyKey (clusterOf g) tag x) f, sec := s.sec.adjust (copyKey (sectorOf (clusterOf g)) tag x) f }

/-- The pending stores to a line older than a mark, oldest first: those of a cluster, and those that a sector's local copy holds (R312 items 1 and 2). -/
def State.l1Stores (s : State) (cl tag ln cut : Nat) : Store Req := s.reqs.filter fun r => decide (r.1 < cut) && r.2.pending && decide (clusterOf r.2.g = cl ∧ r.2.tag = tag ∧ r.2.line = ln)
def State.secStores (s : State) (sector tag ln cut : Nat) : Store Req :=
  s.reqs.filter fun r => decide (r.1 < cut) && r.2.pending && r.2.inSec && decide (sectorOf (clusterOf r.2.g) = sector ∧ r.2.tag = tag ∧ r.2.line = ln)
/-- A request of the copy or the matrix path, which R312 item 3 does not order. -/
def Req.engine (r : Req) : Bool := r.team.isSome || r.cmd.isSome
/-- Are two requests of one instruction of one squad, for one line? The stands of a squad send one each, and the lanes are performed together (R255, R260, R321). -/
def Req.sibling (r q : Req) : Bool := decide (r.sq = q.sq ∧ r.pslot = q.pslot ∧ r.tag = q.tag ∧ r.line = q.line ∧ r.kind = q.kind) && !r.engine && !q.engine
/-- The requests of a group as one, with their open lanes ascending. -/
def joined (rs : Store Req) (r : Req) : Req :=
  match rs with
  | [_] => r
  | _ => { r with lanes := lanes32.flatMap fun l => rs.flatMap fun q => q.2.open_.filter fun a => decide (a.lane = l) }
/-- Stores by the instructions that made them, oldest first, each instruction's as one. -/
def storeGroups (rs : Store Req) : List Req :=
  (rs.filter fun r => rs.all fun q => decide (r.1 ≤ q.1) || !(r.2.sibling q.2)).map fun r => joined (rs.filter fun q => r.2.sibling q.2) r.2
/-- The byte at an address as the last of some stores that covers it leaves it. -/
def lastByte (rs : Store Req) (y : Nat) : Option Byte :=
  (storeGroups rs).foldl (fun b r => r.open_.foldl (fun b a => if y < a.addr ∨ a.addr + a.data.length ≤ y then b else a.data[y - a.addr]?) b) none
/-- The bytes of a line from its address on, with those of stores over them. -/
def overlay (rs : Store Req) (base : Nat) (bs : List Byte) : List Byte :=
  if rs.isEmpty then bs else bs.mapIdx fun i b => (lastByte rs (base + i)).getD b

/-- A landing that translates an access made under an NP entry returns the real entry, whether the access faults or not (R230). -/
def State.learn (s : State) (g c x : Nat) (np : Bool) : State :=
  if np && decide (region x < 3) && (s.translate c x).isSome then s.brandPut g (s.brandFor c x) else s
/-- A landing answers an access: its TLB entry and owner record, and, under an NP entry, the real entry for the core (R230). -/
def State.answered (s : State) (g c x : Nat) (np : Bool) (h : Home) : State := ({ s.landed c x h with fresh := s.fresh + 1 }).learn g c x np

/-- Does a hold queue bar the page (R236)? -/
def State.barred (s : State) (tag x : Nat) : Option Nat :=
  if region x = 4 then none
  else ((List.range 8).filterMap fun st => (s.holdOf st tag x).map s.holdCause).head?

/-- A fill of the cluster's L1, when the reader keeps one and the set has room (R225). -/
def State.keepL1 (s : State) (keep : Bool) (cl tag x : Nat) (bs : List Byte) : State :=
  if keep then
    match s.l1Room cl tag x with
    | some s1 => { s1 with l1 := s1.l1.put (copyKey cl tag x) { bytes := bs, lease := s.now + 512 } }
    | none => s
  else s
/-- A fill of a sector's local copy for a context, with the identifier of the access, when the set has room (R226 to R228, R241). -/
def State.keepSec (s : State) (sector tag x c tid lease : Nat) (bs : List Byte) : State :=
  let k := copyKey sector tag x
  let copy (w : Nat) : Copy := { bytes := bs, lease := lease, tid := tid, ctx := c, used := s.stamp c, way := w }
  match Store.find k s.sec with
  | some o => { s with sec := s.sec.put k { copy o.way with tid := if s.now < o.lease then o.tid else tid } }
  | none =>
    match s.l2Room sector x c with
    | some (w, s1) => { s1 with sec := s1.sec.put k (copy w) }
    | none => s
/-- A use of a local copy by a context (R228). -/
def State.useSec (s : State) (k c : Nat) : State := { s with sec := s.sec.adjust k fun o => { o with used := max o.used (s.stamp c) } }
/-- The 128 bytes of a line for a load at a scope (R253), with the sector's pending bytes older than a mark, and what reading it leaves: the bytes returned, in the copies with new leases (R312 item 4). keep: the cluster's L1 takes the line. A local copy serves while the clock is below its lease (log 104). -/
def State.readLine (s : State) (g c tag x scope tid : Nat) (np : Bool) (need : Need) (keep : Bool) (cut : Nat) : Except Nat (State × List Byte) :=
  let base := x / 128 * 128
  let cl := clusterOf g
  let sector := sectorOf cl
  let kl := copyKey cl tag x
  let ks := copyKey sector tag x
  if region x = 4 then
    let h := s.dshHome c base
    .ok (s, s.peekN h.sp h.pa 128)
  else if (s.bellOf c base).isSome then
    match s.land c base np need with
    | .error e => .error e
    | .ok h => .ok (s.answered g c base np h, s.peekN h.sp h.pa 128)
  else
    let ps := s.secStores sector tag (lineOf x) cut
    let live (pickIt : Nat) (ok : Copy → Bool) (c : Option Copy) : Option Copy := c.bind fun k => if ok k && decide (Config.fresh (s.fresh + pickIt) % 2 = 0) then some k else none
    let l1 := if scope ≤ 3 then live 0 (fun k => decide (s.now ≤ k.lease)) (Store.find kl s.l1) else none
    match l1 with
    | some k =>
      let bs := overlay ps base k.bytes
      .ok ({ s with fresh := s.fresh + 1, l1 := if ps.isEmpty then s.l1 else s.l1.put kl { k with bytes := bs } }, bs)
    | none =>
      let s := s.count g c 13 1
      let sc := if scope ≤ 4 then live 1 (fun k => decide (s.now < k.lease)) (Store.find ks s.sec) else none
      match sc with
      | some k =>
        let bs := overlay ps base k.bytes
        .ok (({ s with fresh := s.fresh + 2 }.useSec ks c).keepL1 keep cl tag x bs, bs)
      | none =>
        match s.landUse c base np need with
        | .error e => .error e
        | .ok h =>
          let s := s.answered g c base np h
          let s := s.fillHome h x tid
          let bs := overlay ps base (if h.sp = .host ∧ 8 ≤ scope then (List.range 128).map fun i => Config.hostByte s.fresh (h.pa + i) else s.peekN h.sp h.pa 128)
          let s := ({ s with fresh := s.fresh + 1 }).keepL1 keep cl tag x bs
          if region x = 3 then .ok (s.keepSec sector tag x c tid (s.now + 8192) bs, bs)
          else if homeSector x = sector then .ok (s, bs)
          else .ok (s.keepSec sector tag x c tid (s.now + 2048) bs, bs)

/-! Lanes of counted operations -/

/-- Bytes an operation's lane still has to read, and where the next lie. -/
def OLane.total (a : OLane) : Nat := a.n + (if a.scale.isSome then 2 else 0)
def OLane.open_ (a : OLane) : Bool := decide (a.fault = none ∧ a.got.length < a.total)
def OLane.next (a : OLane) : Nat := if a.got.length < a.n then a.addr + a.got.length else a.scale.getD 0 + (a.got.length - a.n)
/-- Does the next piece of a lane lie in scratchpad? scr: its data does. -/
def OLane.inScr (scr : Bool) (a : OLane) : Bool := if a.got.length < a.n then scr else a.sscr
/-- Does a lane still have to read a global line? -/
def OLane.waits (scr : Bool) (ln : Nat) (a : OLane) : Bool :=
  decide (a.fault = none) &&
  ((!scr && decide (a.got.length < a.n ∧ lineOf (a.addr + a.got.length) ≤ ln ∧ ln ≤ lineOf (a.addr + a.n - 1))) ||
   (!a.sscr && decide (a.got.length < a.total) && (match a.scale with | some y => decide (lineOf y = ln) | none => false)))
/-- Does a lane still have to read memory outside the scratchpad? -/
def OLane.outside (scr : Bool) (a : OLane) : Bool := a.open_ && (!(a.inScr scr) || (a.scale.isSome && !a.sscr))
/-- Does an operation read the scratchpad? -/
def Op.inScr (o : Op) : Bool := o.scr || o.lanes.any fun a => a.sscr

/-! Requests performed at their home -/

/-- The requests that are performed with a request. -/
def State.siblings (s : State) (id : Nat) (r : Req) : Store Req := if r.engine then [(id, r)] else s.reqs.filter fun q => r.sibling q.2
/-- Must a request wait for an older one (R312 item 3)? For one of its cluster, or one whose bytes the sector's local copy holds, on its line, that is open and not parked. -/
def Req.after (r q : Req) : Bool :=
  !q.engine && decide (q.tag = r.tag ∧ q.line = r.line) && (decide (clusterOf q.g = clusterOf r.g) || (q.pending && q.inSec && decide (sectorOf (clusterOf q.g) = sectorOf (clusterOf r.g))))
  && q.open_.any fun a => decide (a.parked = none)
/-- The order of requests (R312 item 3, R311): no older request that this one follows is left, and no earlier load of the same thread still has to read the line. -/
def State.reqFirst (s : State) (id : Nat) (r : Req) : Bool :=
  (s.reqs.all fun q => decide (id ≤ q.1) || r.sibling q.2 || !(r.after q.2))
  && (s.ops.all fun o => decide (id ≤ o.1) || decide (o.2.g ≠ r.g ∨ o.2.slot ≠ r.slot) ||
      !(o.2.lanes.any fun a => a.waits o.2.scr r.line && decide (o.2.kind ≠ .atom) && r.lanes.any fun b => decide (b.lane = a.lane)))
def State.reqReady (s : State) (id : Nat) (r : Req) : Bool := r.engine || (s.siblings id r).all fun q => s.reqFirst q.1 q.2

/-- What becomes of a request that reaches its landing. -/
inductive Fate where
  | perform (h : Home)
  | park (cause : Nat)
  | full
  deriving DecidableEq, Repr
/-- Parked requests of a landing, of which it holds 1,024, each a participant's (R236, R257). -/
def State.parkedAt (s : State) (stack : Nat) : Nat := ((s.holds.filter fun h => decide (h.stack = stack)).map fun h => h.items.length).foldl (· + ·) 0
/-- Is a landing full: 1,024 parked requests, or 64 queues? -/
def State.landFull (s : State) (stack : Nat) : Bool :=
  decide (64 ≤ (s.holds.filter fun h => decide (h.stack = stack)).length) || decide (1024 ≤ s.parkedAt stack)
/-- The landing of a request: an operation at the bank consumes its line, a store, a copy or a drain does not (R431). -/
def State.landReq (s : State) (r : Req) (np : Bool) : Except Nat Home :=
  match r.kind with
  | .atom _ _ | .cas _ | .atomF _ | .chunk | .red _ => s.landUse r.ctx (r.x / 128 * 128) np r.kind.need
  | .store | .clean | .tdesc | .copy | .drain | .drainAdd _ _ _ => s.land r.ctx (r.x / 128 * 128) np r.kind.need
/-- Do the open lanes of a request write every byte of its line? -/
def Req.fillsLine (r : Req) : Bool :=
  decide (r.kind = .store ∨ r.kind = .copy ∨ r.kind = .drain) &&
  (List.range 128).all fun i => r.open_.any fun a => decide (a.addr % 128 ≤ i ∧ i < a.addr % 128 + a.data.length) &&
    (decide (r.kind = .store) || decide (a.new = []) || decide (a.new.getD (i - a.addr % 128) 0 = 255))
def State.fate (s : State) (r : Req) : Fate :=
  match s.holdOf r.stack r.tag r.x with
  | some h => if s.landFull r.stack then .full else .park (s.holdCause h)
  | none =>
    match s.landReq r r.np with
    | .ok h => .perform h
    | .error c => if s.landFull r.stack then .full else .park c

/-- Perform one lane at its home: h is the home of the line. A store's bytes reach the copies of its cluster and sector (R312 item 5). -/
def State.performLane (s : State) (r : Req) (h : Home) (a : RLane) : State × List Byte :=
  let pa := h.pa + a.addr % 128
  let res := laneOp r.kind (s.peekN h.sp pa (r.kind.width a.data.length)) a
  match res.1 with
  | some bs =>
    let s := s.homeWrite { h with pa := pa } a.addr r.tid bs
    (if r.kind = .store ∨ r.kind = .tdesc then s.patchCopies r.g r.tag a.addr a.data else s, res.2)
  | none => (s, res.2)
/-- Perform every open lane of a request, ascending (R255, R321): the values returned by lane. -/
def State.performAll (s : State) (r : Req) (h : Home) : State × List (Nat × List Byte) :=
  r.open_.foldl (fun p a => let q := p.1.performLane r h a; (q.1, p.2 ++ [(a.lane, q.2)])) (s, [])
/-- Write a dirty line back (R263). -/
def HomeLine.clean (l : HomeLine) : HomeLine := { l with dirty := false, behind := [] }
/-- The engines of the clusters on which a context has stands drop their copies of a tensor entry, by the address of its store (R29, R267). -/
def State.dropEntry (s : State) (c x : Nat) : State :=
  let id := (x - s.normal (((s.ctx c).map (·.tidbase)).getD 0)) / 64
  { s with tcache := s.tcache.filter fun t => decide (t.1 % (256 * 4096) ≠ c * 4096 + id) }
/-- The home performs a request: copies follow R312 items 5 and 6. -/
def State.perform (s : State) (r : Req) (h : Home) : State × List (Nat × List Byte) :=
  let s := s.answered r.g r.ctx (r.x / 128 * 128) r.np h
  let p := if r.kind = .clean then ({ s with l2 := Store.adjust (homeKey h.sp h.pa) HomeLine.clean s.l2 }, []) else s.performAll r h
  let s := p.1
  let s := if r.kind.bank || decide (r.kind = .copy ∨ r.kind = .drain) then s.dropCopies r.g r.tag r.x
    else if r.kind = .tdesc then s.dropEntry r.ctx r.x
    else if r.rel then s.touch r.tag r.line (some (clusterOf r.g)) else s
  (if r.kind = .clean then s else s.writePoison h r.fillsLine r.psn, p.2)
/-- The values of a request's lanes reach the counted operation that waits for them. -/
def Op.take (vs : List (Nat × List Byte)) (o : Op) : Op := { o with lanes := o.lanes.map fun a => match vs.find? fun v => decide (v.1 = a.lane) with | some v => { a with got := v.2 } | none => a }
/-- The home acknowledges a request with those of its group: they are performed, the values they return reach their operations, their skid entries are free. -/
def State.acknowledge (s : State) (id : Nat) (r : Req) (h : Home) : State :=
  let rs := s.siblings id r
  let p := s.perform (joined rs r) h
  let s1 : State := { p.1 with reqs := rs.foldl (fun m q => Store.del q.1 m) p.1.reqs }
  { s1 with ops := (rs.filterMap fun q => q.2.op).foldl (fun m o => Store.adjust o (Op.take p.2) m) s1.ops }

/-! Counted operations -/

/-- Bytes to read from the line of the next byte. -/
def OLane.here (a : OLane) : Nat := min (if a.got.length < a.n then a.n - a.got.length else a.total - a.got.length) (128 - a.next % 128)

/-- May a line be read for an operation now? No earlier atomic of a reading thread on the line (R312 item 6), no earlier load of it (R311). -/
def State.lineFirst (s : State) (id : Nat) (o : Op) (tag ln : Nat) : Bool :=
  let mine (l : Nat) : Bool := o.lanes.any fun a => decide (a.lane = l ∧ lineOf a.next = ln) && a.open_
  (s.reqs.all fun r => decide (id ≤ r.1) || decide (r.2.g ≠ o.g ∨ r.2.slot ≠ o.slot ∨ r.2.tag ≠ tag) || decide (lineOf r.2.x ≠ ln) || r.2.engine || !r.2.kind.bank ||
      !(r.2.open_.any fun a => decide (a.parked = none) && mine a.lane))
  && (s.ops.all fun p => decide (id ≤ p.1) || decide (p.2.g ≠ o.g ∨ p.2.slot ≠ o.slot) || decide (p.2.kind = .atom) ||
      !(p.2.lanes.any fun a => a.waits p.2.scr ln && mine a.lane))
/-- The operations of one instruction of a squad, one for each of its stands. -/
def Op.sibling (o p : Op) : Bool := decide (o.sq = p.sq ∧ o.pslot = p.pslot ∧ o.g = p.g ∧ o.kind = p.kind)
def State.opGroup (s : State) (o : Op) : Store Op := s.ops.filter fun p => o.sibling p.2
/-- Is a lane to read a line next? -/
def OLane.due (ln : Nat) (a : OLane) : Bool := a.open_ && decide (lineOf a.next = ln)
/-- The participants whose loads lie in one line read it at one moment (R255): each of the group may read it. -/
def State.lineReady (s : State) (o : Op) (tag ln : Nat) : Bool := (s.opGroup o).all fun p => s.lineFirst p.1 p.2 tag ln

/-- The lines an operation may read next. -/
def Op.lines (o : Op) : List Nat := linesOf ((o.lanes.filter OLane.open_).map OLane.next)

/-- The tag under which an operation's page is accessed. -/
def State.opTag (s : State) (o : Op) (x : Nat) : Nat := s.tagFor o.g o.ctx x

/-- Change the lanes of a group of operations that are due at a line. -/
def State.atLine (s : State) (o : Op) (ln : Nat) (f : OLane → OLane) : State :=
  { s with ops := s.ops.map fun p => if o.sibling p.2 then (p.1, { p.2 with lanes := p.2.lanes.map fun a => if a.due ln then f a else a }) else p }
/-- The oldest later request of a reading thread of a group on the line: neither it nor what follows it is read (R311). -/
def State.readCut (s : State) (o : Op) (tag ln : Nat) : Nat :=
  (s.reqs.filter fun r => decide (r.2.tag = tag ∧ r.2.line = ln ∧ r.2.kind ≠ .clean) && !r.2.engine &&
    (s.opGroup o).any fun p => decide (p.1 < r.1 ∧ p.2.g = r.2.g ∧ p.2.slot = r.2.slot) && p.2.lanes.any fun a => a.due ln && r.2.open_.any fun b => decide (b.lane = a.lane)).foldl (fun m r => min m r.1) s.seq
/-- Read one line, from one copy at one moment, for every lane of a group that is due there (R255): with the pending bytes of the cluster's L1 over it (R312 item 2). -/
def State.readGroup (s : State) (o : Op) (ln : Nat) : State :=
  let x := 128 * ln
  let tag := s.opTag o x
  let np := (s.opGroup o).any fun p => p.2.lanes.any fun a => a.due ln && (if a.got.length < a.n then a.np else a.snp)
  let cut := s.readCut o tag ln
  let fail (s : State) (c : Nat) : State := { s with fresh := s.fresh + 1 }.atLine o ln fun a => { a with fault := some (c, a.next) }
  match s.barred tag x with
  | some c => fail s c
  | none =>
    match s.readLine o.g o.ctx tag x o.scope o.tid np needRd true cut with
    | .error c => fail (s.learn o.g o.ctx x np) c
    | .ok (s', bs) =>
      let all := if (s.bellOf o.ctx x).isSome then bs else overlay (s.l1Stores (clusterOf o.g) tag ln cut) x bs
      s'.atLine o ln fun a => { a with got := a.got ++ (all.drop (a.next % 128)).take a.here }

/-- ATOMS on one scratchpad word (R331). -/
def State.atomsLane (s : State) (o : Op) (op : Nat) (a : OLane) (data new : Nat) : State × List Byte :=
  let old := s.scrGet o.launch o.g a.addr 4
  match atomNew op 32 (ofBytes old) data new with
  | some v => (s.scrPut o.launch o.g a.addr (toBytes 4 v), old)
  | none => (s, old)

/-- ATOMS of one instruction: its lanes over the whole squad, ascending, in one step (R331). -/
def State.atomsGroup (s : State) (o : Op) (op : Nat) : State :=
  lanes32.foldl (fun s l => (s.opGroup o).foldl (fun s p =>
    match p.2.lanes.find? fun a => a.open_ && decide (a.lane = l) with
    | none => s
    | some a =>
      let r := s.atomsLane p.2 op a (a.bit % 2 ^ 32) (a.bit / 2 ^ 32)
      { r.1 with ops := Store.adjust p.1 (Op.take [(l, r.2)]) r.1.ops }) s) s
/-- May a scratchpad operation be performed? Those of one thread are, in order (R311). -/
def State.scrReady (s : State) (id : Nat) (o : Op) : Bool :=
  s.ops.all fun p => decide (id ≤ p.1) || decide (p.2.g ≠ o.g ∨ p.2.slot ≠ o.slot) || !p.2.inScr || !(p.2.lanes.any OLane.open_) || decide (p.2.q &&& o.q = 0)

/-- The element a TREAD decodes, from its bytes (R268). -/
def treadWords (fmt mode : Nat) (sb ssb : Int) (a : OLane) : Nat :=
  if a.n = 0 then 0
  else
    let el := bits (ofBytes (a.got.take a.n)) a.bit (fmtBits fmt)
    if mode = 1 then el
    else decodeElem fmt el sb (a.scale.map fun _ => (ofBytes (a.got.drop a.n), ssb))
/-- Word i of what a lane receives. -/
def Op.word (o : Op) (a : OLane) (i : Nat) : W :=
  match o.kind with
  | .load n sign => if sign then w32i (sx (ofBytes a.got) (8 * n)) else BitVec.ofNat 32 (ofBytes (a.got.drop (4 * i)))
  | .lds n sign => if sign then w32i (sx (ofBytes a.got) (8 * n)) else BitVec.ofNat 32 (ofBytes (a.got.drop (4 * i)))
  | .tread fmt mode sb ssb => BitVec.ofNat 32 (treadWords fmt mode sb ssb a / 2 ^ (32 * i))
  | .atom => BitVec.ofNat 32 (ofBytes (a.got.drop (4 * i)))
  | .tquery _ _ => BitVec.ofNat 32 (ofBytes (a.got.drop (4 * i)))
  | .atoms _ => BitVec.ofNat 32 (ofBytes (a.got.drop (4 * i)))
  | .value => BitVec.ofNat 32 (ofBytes (a.got.drop (4 * i)))

/-- Write V[d] in the lanes of q by an instruction whose squad held the lanes of who with the guard true (R138). -/
def Stand.wvBy (st : Stand) (who q : W) (d : Nat) (f : Nat → W) : Stand :=
  let old := st.v.getD d (.u 0)
  let full := decide (st.live &&& ~~~who = 0)
  { st with v := st.v.set d (recompress full full st.live (lanes32.map fun l => if inMask q l then f l else old.lane l)) }
/-- Lanes that take an operation's result: those of a load that faulted keep their registers (R256). -/
def Op.good (o : Op) : W := maskOf ((o.lanes.filter fun a => decide (a.fault = none) && inMask o.q a.lane).map (·.lane))
/-- The registers after an operation's results have reached some lanes of each of them (R138, R259). -/
def Op.put (o : Op) (pick : Nat → W) (st : Stand) : Stand :=
  let at_ (l i : Nat) : W := match o.lanes.find? fun a => decide (a.lane = l) with | some a => o.word a i | none => 0
  (List.range o.nreg).foldl (fun st i => if o.good &&& pick i = 0 then st else st.wvBy o.who (o.good &&& pick i) (o.d + i) fun l => at_ l i) st
/-- The registers once every result is written: the lanes that had theirs before the flag falls keep what they hold (R105). -/
def Op.write (o : Op) (st : Stand) : Stand := o.put (fun i => ~~~((o.early.getD []).getD i 0)) st
/-- The flags fall, and a load's fault becomes pending on its flag (R104, R256). -/
def Op.settle (cyc : Nat) (o : Op) (st : Stand) : Stand :=
  o.lanes.foldl (fun st a =>
    if inMask o.q a.lane then
      st.onT o.hdl a.lane fun t =>
        let t := t.flagDown cyc o.flag
        match a.fault with
        | some (c, x) => t.pendOn o.flag { cause := c, acc := 1, pkt := o.pkt, slot := o.pslot, addr := BitVec.ofNat 64 x }
        | none => t
    else st) st

/-- Before its flag falls, some lanes of an operation's destination registers may hold their result already: which ones is open (R105, log 15). Granules are not waited for. -/
def State.writeEarly (s : State) (id : Nat) (o : Op) (key : Nat) (st : Stand) : State :=
  let k := (List.range o.nreg).map fun i => BitVec.ofNat 32 (Config.fresh (s.fresh + i))
  let w := st.back o.hdl (o.put (fun i => k.getD i 0) (st.seen o.hdl))
  let go := !(s.lacks o.g st w)
  { (if go then s.setStand key (w.spent st 0) else s) with fresh := s.fresh + o.nreg, ops := Store.put id { o with early := some (if go then k else []) } s.ops }
/-- Deliver an operation whose every lane has its bytes or a fault: once its stand is on the core with its registers, and the pool gives the granules; until it does, the stand parks (R138, R140, R142). -/
def State.deliverOp (s : State) (id : Nat) : State :=
  match Store.find id s.ops with
  | none => s
  | some o =>
  let key := standKey o.g o.slot
  match s.stand key with
  | none => s
  | some st =>
    if st.launch ≠ o.launch ∨ st.place = .spilled then s
    else if ¬ (st.outRegs (vRegs o.d o.nreg)).isEmpty then (if st.reload = [] then s.setStand key { st with reload := st.outRegs (vRegs o.d o.nreg) } else s)
    else if o.early = none then s.writeEarly id o key st
    else
      let w := st.back o.hdl (o.write (st.seen o.hdl))
      if s.lacks o.g st w then
        s.setStand key { st with need := max st.need (w.hold - st.hold), grant := (0, 0) }
      else { s.setStand key ((o.settle (s.cyc o.g) w).spent st 0) with ops := s.ops.del id }
/-- Is every lane done? -/
def Op.ready (o : Op) : Bool := o.lanes.all fun a => !a.open_

/-- The read latency counters of a context (R90): reads completed in the round, and those over the target. -/
def State.countRead (s : State) (o : Op) : State :=
  s.onCtx o.ctx fun cx => { cx with loop := { cx.loop with reads := cx.loop.reads + 1, past := cx.loop.past + (if cx.lattgt < s.now - o.since then 1 else 0) } }
/-- A read is counted once, when the last of its data has returned (R90). -/
def State.countOnce (s : State) (id : Nat) : State :=
  match Store.find id s.ops with
  | some o =>
    let read := match o.kind with | .load _ _ => true | .tread _ _ _ _ => true | _ => false
    if read && o.ready && !o.counted then { s.countRead o with ops := Store.put id { o with counted := true } s.ops } else s
  | none => s

/-- The reads of a group are counted. -/
def State.countGroup (s : State) (o : Op) : State := (s.opGroup o).foldl (fun s p => s.countOnce p.1) s

/-- A request that a counted operation waits for is performed at its home. -/
def State.performFor (s : State) (rid : Nat) (r : Req) : State :=
  match s.fate r with
  | .perform h => s.acknowledge rid r h
  | .park _ => s
  | .full => s
/-- CHUNK_REQUEST (R73, R335): the home slice performs a request to a chunk counter, its lanes ascending. -/
def execChunkRequest (id : Nat) (s : State) : Res :=
  match Store.find id s.reqs with
  | none => .next s
  | some r =>
    match r.op with
    | none => .next s
    | some _ => if r.kind = .chunk ∧ s.reqReady id r then .next (s.performFor id r) else .next s

/-- One of the lines that an operation may read is read for its group. -/
def State.readSome (s : State) (id : Nat) (o : Op) : State :=
  match o.lines.filter fun ln => s.lineReady o (s.opTag o (128 * ln)) ln with
  | [] => s
  | ls => (({ s with fresh := s.fresh + 1 }).readGroup o (ls.getD (Config.pick s.fresh % ls.length) 0)).countGroup o
/-- COUNTED_COMPLETE (R104): one step of an outstanding counted operation. A load reads one of its lines; an atomic's request is performed at its home; the results are written and the flags fall. -/
def execCountedComplete (id : Nat) (s : State) : Res :=
  match Store.find id s.ops with
  | none => .next s
  | some o =>
    if o.q = 0 ∧ o.ready then .next { s with ops := s.ops.del id }
    else if o.ready then
      .next ((s.countOnce id).deliverOp id)
    else
      match o.kind with
      | .atom =>
        (match (s.reqs.filter fun r => decide (r.2.op = some id ∧ r.2.kind ≠ .chunk) && s.reqReady r.1 r.2 && (match s.fate r.2 with | .perform _ => true | .park _ => false | .full => false)) with
          | [] => .next s
          | rs =>
            match rs[Config.pick s.fresh % rs.length]? with
            | none => .next s
            | some (rid, r) => .next (({ s with fresh := s.fresh + 1 }).performFor rid r))
      | .lds _ _ =>
        if s.scrReady id o then
          .next { s with ops := Store.adjust id (fun o => { o with lanes := o.lanes.map fun a => { a with got := s.scrGet o.launch o.g a.addr a.n } }) s.ops }
        else .next s
      | .atoms op =>
        if (s.opGroup o).all fun p => s.scrReady p.1 p.2 then
          .next (s.atomsGroup o op)
        else .next s
      | .tquery sel tid =>
        let tag := ((s.ctx o.ctx).map (·.ctag)).getD 0
        let n := (s.l2.filter fun l => decide (l.2.tid = tid ∧ l.2.tag = tag) && (decide (sel = 5) || l.2.dirty)).length + (if sel = 5 then (s.sec.filter fun c => decide (c.2.tid = tid ∧ keyTag c.1 = tag)).length else 0)
        .next { s with ops := Store.adjust id (fun o => { o with lanes := o.lanes.map fun a => if a.open_ then { a with got := toBytes 4 (min n 0xFFFFFFFF) } else a }) s.ops }
      | .value => .next s
      | .load _ _ => .next (s.readSome id o)
      | .tread _ _ _ _ =>
        if o.lanes.any (fun a => a.open_ && a.inScr o.scr) then
          if s.scrReady id o then
            .next { s with ops := Store.adjust id (fun o => { o with lanes := o.lanes.map fun a => if a.open_ && a.inScr o.scr then { a with got := a.got ++ s.scrGet o.launch o.g a.next (if a.got.length < a.n then a.n - a.got.length else a.total - a.got.length) } else a }) s.ops }
          else .next s
        else .next (s.readSome id o)

/-! Hold queues and notices (R236, R366 to R368) -/

/-- Change a stand wherever it is: on its core, or in a set that has left it. -/
def State.onStandAny (s : State) (g slot launch : Nat) (f : Stand → Stand) : State :=
  let key := standKey g slot
  let here := match s.stand key with | some st => decide (st.launch = launch) | none => false
  if here then s.onStand key f
  else
    let one (st : Stand) : Stand := if st.launch = launch then f st else st
    { s with
      outs := s.outs.map fun o => if o.g = g then { o with stands := Store.adjust slot one o.stands } else o
      returning := s.returning.map fun e => if e.1 = g ∧ e.2.1 = slot then (e.1, e.2.1, one e.2.2) else e }

/-- The lanes of a group of requests that are neither done nor parked, ascending, with their requests. -/
def waitingLanes (rs : Store Req) : List (Nat × Nat) :=
  lanes32.flatMap fun l => rs.flatMap fun q => (q.2.open_.filter fun a => decide (a.lane = l ∧ a.parked = none)).map fun _ => (q.1, l)
/-- Park the lanes that a list names, of a request with a number. -/
def Req.parkLanes (id cause : Nat) (items : List (Nat × Nat)) (r : Req) : Req :=
  { r with lanes := r.lanes.map fun a => if items.contains (id, a.lane) && !a.done then { a with parked := some cause } else a }
/-- A command one of whose accesses faults writes no completion word (R244); a TDESC whose store is parked has its entry's copies dropped all the same (R267). -/
def State.parkMarks (s : State) (r : Req) : State :=
  let s := match r.cmd, r.kind with
    | some c, .copy => { s with cpys := Store.adjust c (fun k => { k with bad := true }) s.cpys }
    | _, _ => s
  if r.kind = .tdesc then s.dropEntry r.ctx r.x else s
/-- Park a request behind a fault, with those of its group (R236): their lanes enter the queue of its page in ascending order, as many as the landing has room for. Those of a killed launch (slot 33) are dropped (R357). -/
def State.parkReq (s : State) (id : Nat) (r : Req) (cause : Nat) : State :=
  let rs := s.siblings id r
  let s1 : State := { (if (s.holdOf r.stack r.tag r.x).isNone then s.learn r.g r.ctx r.x r.np else s) with fresh := s.fresh + 1 }
  if r.slot = 33 then { s1 with reqs := rs.foldl (fun (m : Store Req) q => Store.del q.1 m) s.reqs }
  else
    let items := (waitingLanes rs).take (1024 - s.parkedAt r.stack)
    let holds := match s.holdOf r.stack r.tag r.x with
      | some h => s.holds.map fun k => if k = h then { h with items := h.items ++ items } else k
      | none => s.holds ++ [{ stack := r.stack, tag := r.tag, page := r.x / 65536, items := items }]
    let reqs : Store Req := rs.foldl (fun m q => Store.put q.1 (q.2.parkLanes q.1 cause items) m) s.reqs
    State.parkMarks { s1 with holds := holds, reqs := reqs } r
/-- Has a request a lane that is neither performed nor parked? -/
def Req.waits (r : Req) : Bool := r.open_.any fun a => a.parked.isNone

/-- LANDING_FAULT_PARK (R236): a request that its landing faults, or that finds its page's queue, is parked. -/
def execLandingFaultPark (id : Nat) (s : State) : Res :=
  match Store.find id s.reqs with
  | none => .next s
  | some r =>
    if region r.x = 4 || !r.waits || !(s.reqReady id r) then .next s
    else match s.fate r with
      | .park c => .next (s.parkReq id r c)
      | .perform _ => .next s
      | .full => .next s

/-- HOLD_QUEUE_ROOM (R236): a landing with room takes the oldest request it could not park. -/
def execHoldQueueRoom (stack : Nat) (s : State) : Res :=
  if s.landFull stack then .next s
  else
    match s.reqs.find? fun r => decide (r.2.stack = stack ∧ region r.2.x ≠ 4) && r.2.waits && s.reqReady r.1 r.2 && (match s.fate r.2 with | .park _ => true | .perform _ => false | .full => false) with
    | some (id, r) => (match s.fate r with | .park c => .next (s.parkReq id r c) | .perform _ => .next s | .full => .next s)
    | none => .next s

/-- Does a thread already hold an undelivered notice for the queue of a request (R366)? -/
def State.noticed (s : State) (r : Req) (t : Thread) : Bool :=
  t.notices.any fun n => match Store.find n.req s.reqs with | some q => decide (q.stack = r.stack ∧ q.tag = r.tag ∧ q.x / 65536 = r.x / 65536) | none => false

/-- FAULT_NOTICE (R366 to R368): the notice of one parked entry reaches its thread: it is held until its point, delivered at once to a thread that waits, or put down as a ghost delivery. -/
def execFaultNotice (id : Nat) (s : State) : Res :=
  match Store.find id s.reqs with
  | none => .next s
  | some r =>
    if r.team.isSome then .next s
    else
      match r.open_.find? fun a => a.parked.isSome && !a.note with
      | none => .next s
      | some a =>
        let n : Notice := { req := id, lane := a.lane, cause := a.parked.getD 0 }
        let mark := { s with reqs := Store.put id { r with lanes := r.lanes.map fun b => if b.lane = a.lane then { b with note := true } else b } s.reqs }
        if a.ghost then
          match s.late n true 0 0 with
          | some d => .next ((mark.onStandAny r.g r.slot r.launch fun st => { st with dl := st.dl ++ [d] }).noticeDone n)
          | none => .next mark
        else
          match s.stand (standKey r.g r.slot) with
          | some st =>
            let t := st.thr.getD a.lane Thread.gone
            if st.launch ≠ r.launch then .next (mark.onStandAny r.g r.slot r.launch fun st => st.onT false a.lane fun t => { t with notices := t.notices ++ [n] })
            else if s.noticed r t then .next s
            else
              let waits := match t.st with | .held => true | .parked .delivery => false | .parked .treew => false | .parked .sign => false | .parked _ => true | _ => false
              if waits && decide (st.place = .resident) then
                match s.late n false t.pc t.slot with
                | some d => .next ((mark.take (standKey r.g r.slot) false r.launch d).noticeDone n)
                | none => .next mark
              else .next (mark.onStandAny r.g r.slot r.launch fun st => st.onT false a.lane fun t => { t with notices := t.notices ++ [n] })
          | none => .next (mark.onStandAny r.g r.slot r.launch fun st => st.onT false a.lane fun t => { t with notices := t.notices ++ [n] })

/-- GHOST_DELIVERY, TRAP_DELIVERY (R359, R368): the delivery at the head of a stand's list. -/
def execGhostDelivery (g slot : Nat) (s : State) : Res := .next (s.tryDeliver (standKey g slot))
def execTrapDelivery (g slot : Nat) (s : State) : Res := .next (s.tryDeliver (standKey g slot))

/-! Brand fills and invalidation (R230, R234) -/

/-- BRAND_FILL: the landing's entry reaches the core. -/
def execBrandFill (id : Nat) (s : State) : Res :=
  match Store.find id s.misses with
  | none => .next s
  | some m => .next { s.brandPut m.g (s.brandFor m.ctx m.va) with misses := s.misses.del id }

/-- The context tags of a function's partitions, and whether it may name a tag. -/
def State.fnTags (s : State) (fn : Nat) : List Nat := (s.ctxs.filter fun c => decide ((s.part c.2.part).fn = fn)).map fun c => c.2.ctag
def State.mayName (s : State) (fn tag : Nat) : Bool := if 0x8000 ≤ tag then decide (fn = 0) else decide (fn = 0) || (s.fnTags fn).contains tag
/-- Take away what an invalidation names: TLB entries, brand entries, owner records, copies. hit: by tag and by the page as base and size. -/
def State.invalidate (s : State) (hit : Nat → Nat → Nat → Bool) : State :=
  { s with
    tlb := s.tlb.filter fun t => !(hit t.tag (t.vpage * 2 ^ t.leaf.size) t.leaf.size)
    brand := s.brand.map fun b => (b.1, b.2.filter fun e => !(hit e.tag (e.vpn * 2 ^ pszBits e.psz) (pszBits e.psz)))
    owners := s.owners.filter fun o => !(hit o.tag (o.vpage * 2 ^ o.size) o.size)
    l1 := s.l1.filter fun c => !(hit (c.1 / 2 ^ 52 % 2 ^ 28) (c.1 % 2 ^ 52 * 128) 7)
    sec := s.sec.filter fun c => !(hit (c.1 / 2 ^ 52 % 2 ^ 28) (c.1 % 2 ^ 52 * 128) 7) }
/-- Start an invalidation command of a function, or refuse it (R234). -/
def State.invStart (s : State) (fn : Nat) (ok : Bool) (hit : Nat → Nat → Nat → Bool) : State :=
  let f := s.fn fn
  if f.invBusy then s
  else if ok then { s.invalidate hit with fns := Store.put fn { f with invBusy := true } s.fns }
  else { s with fns := Store.put fn { f with invRefused := true } s.fns }
def Fn.invTag (f : Fn) : Nat := bits f.invCmd.toNat 0 16
def execInvalidatePage (fn : Nat) (s : State) : Res :=
  let f := s.fn fn
  let a := f.invAddr / 65536 * 65536
  .next (s.invStart fn (s.mayName fn f.invTag) fun tag base size => decide (tag = f.invTag ∧ (base / 2 ^ size = a / 2 ^ size ∨ (size < 16 ∧ base / 65536 = a / 65536))))
def execInvalidateTag (fn : Nat) (s : State) : Res :=
  let f := s.fn fn
  .next (s.invStart fn (s.mayName fn f.invTag) fun tag _ _ => decide (tag = f.invTag))
def execInvalidateFunction (fn : Nat) (s : State) : Res :=
  let tags := s.fnTags fn
  .next (s.invStart fn true fun tag _ _ => tags.contains tag || (decide (fn = 0 ∧ 0x8000 ≤ tag)))
/-- Do the accesses under tags, and share: under any share-domain tag, wait for no memory (R234)? Requests that are parked have faulted; an operation that reads memory, a copy, or an accepted matrix operation may still use a page that was accepted before, unless a fault holds it up. -/
def State.settled (s : State) (tags : List Nat) (share : Bool) : Bool :=
  let mine (c : Nat) : Bool := share || tags.contains (((s.ctx c).map (·.ctag)).getD 0)
  (s.reqs.all fun r => !(tags.contains r.2.tag || share && decide (0x8000 ≤ r.2.tag)) || (r.2.open_.all fun a => a.parked.isSome))
    && (s.ops.all fun o => !(mine o.2.ctx) || !(o.2.lanes.any fun a => a.outside o.2.scr) || decide (o.2.kind = .atom ∨ o.2.kind = .value))
    && (s.cpys.all fun c => !(mine c.2.ctx) || c.2.moves.isEmpty || s.reqs.any fun r => decide (r.2.cmd = some c.1) && r.2.open_.any fun a => a.parked.isSome)
    && (s.teams.all fun t => !(mine t.2.ctx) || (match t.2.queue with | o :: _ => o.bad.isSome | [] => true))
/-- INVALIDATE_DONE: every access translated under a removed entry has reached memory or faulted (R234). -/
def execInvalidateDone (fn : Nat) (s : State) : Res :=
  let f := s.fn fn
  let whole := decide (bits f.invCmd.toNat 16 2 = 3)
  let tags := if whole then s.fnTags fn else [f.invTag]
  if f.invBusy && s.settled tags (decide (fn = 0) && (whole || decide (0x8000 ≤ f.invTag)))
  then .next { s with fns := Store.put fn { f with invBusy := false } s.fns }
  else .next s

end Sys2Proof.Machine
end

