-- ==== Sys2Proof/Machine/Tensor.lean ====
section
/-! DEFINITION. Tensor identifiers (01 R25 to R29): entries, their limits, elements and group scales. -/
namespace Sys2Proof.Machine

/-- A field of an entry's bytes. -/
def tfield (b : List Byte) (off n : Nat) : Nat := ofBytes ((b.drop off).take n)
/-- Sizes of GRP. -/
def grpSize (g : Nat) : Nat := if g = 0 then 0 else 16 * 2 ^ g
/-- Elements per unit of a sub-byte format (R26). -/
def subUnit (fmt : Nat) : Nat := if fmt = 7 ∨ fmt = 10 then 2 else if fmt = 5 then 4 else 1

/-- The element's first byte relative to BASE, its bit there, and the bytes it needs (R268). -/
def elemAt (fmt : Nat) (e : Int) : Int × Nat × Nat :=
  if fmt = 7 ∨ fmt = 10 then (e / 2, 4 * (e % 2).toNat, 1)
  else if fmt = 5 then (3 * (e / 4), 6 * (e % 4).toNat, 3)
  else (e * (fmtBits fmt / 8 : Nat), 0, fmtBits fmt / 8)

/-- Offset in elements of coordinates. -/
def TEntry.offset (t : TEntry) (i : List Nat) : Int :=
  ((List.range 4).map fun k => (i.getD k 0 : Int) * t.strs.getD k 0).foldl (· + ·) 0
/-- The byte address, bit and length of an element. -/
def TEntry.elem (t : TEntry) (i : List Nat) : Nat × Nat × Nat :=
  let r := elemAt t.fmt (t.offset i)
  (toPat (t.base + r.1) 64, r.2.1, r.2.2)
/-- Least and greatest offset of any element. -/
def TEntry.least (t : TEntry) : Int := ((List.range 4).map fun k => min 0 (((t.dims.getD k 1 : Nat) - 1 : Int) * t.strs.getD k 0)).foldl (· + ·) 0
def TEntry.most (t : TEntry) : Int := ((List.range 4).map fun k => max 0 (((t.dims.getD k 1 : Nat) - 1 : Int) * t.strs.getD k 0)).foldl (· + ·) 0

/-- The fields of an entry. -/
def parseEntry (b : List Byte) : TEntry :=
  let b8 := tfield b 8 1
  { base := tfield b 0 8, fmt := bits b8 0 4, rank := bits b8 4 2 + 1, scr := decide (bits b8 6 1 = 1), disc := decide (bits b8 7 1 = 1),
    grp := bits (tfield b 9 1) 0 2, sb := sx (tfield b 10 1) 8, tm := 16 * (bits (tfield b 11 1) 0 3 + 1), tn := 16 * (bits (tfield b 11 1) 3 3 + 1),
    scid := bits (tfield b 12 2) 0 12, dims := (List.range 4).map fun k => tfield b (16 + 4 * k) 4, strs := (List.range 4).map fun k => sx (tfield b (32 + 8 * k) 8) 64 }

/-- Canonical: sign-extended from bit 55. -/
def canonical (x : Nat) : Bool := decide (x < 2 ^ 55 ∨ 2 ^ 64 - 2 ^ 55 ≤ x)
/-- The limits of R25 and R26, and of R27 that concern the entry alone. The region of an entry in scratchpad is not judged, and an element address has to lie at or above 0 and in BASE's region before it would wrap (log 116). -/
def entryOk (b : List Byte) : Bool :=
  let t := parseEntry b
  decide (t.fmt < 11 ∧ bits (tfield b 9 1) 2 6 = 0 ∧ bits (tfield b 11 1) 6 2 = 0 ∧ bits (tfield b 12 2) 12 4 = 0 ∧ tfield b 14 2 = 0)
  && decide (t.base % 16 = 0) && (if t.scr then decide (t.base < 2 ^ 32) else canonical t.base)
  && (t.dims.all fun d => decide (1 ≤ d)) && ((List.range 4).all fun k => decide (k < t.rank) || decide (t.dims.getD k 1 = 1))
  && decide (t.strs.getD 0 0 = 1) && ((t.strs.drop 1).all fun x => decide (x % (subUnit t.fmt : Int) = 0))
  && (if t.scr then true
      else
        let lo := t.base + (elemAt t.fmt t.least).1
        let hi := t.base + (elemAt t.fmt t.most).1
        decide (0 ≤ lo ∧ lo / 2 ^ 52 = t.base / 2 ^ 52 ∧ hi / 2 ^ 52 = t.base / 2 ^ 52))
  && (if t.grp = 0 then decide (t.scid = 0) else decide ((t.fmt = 6 ∨ t.fmt = 7) ∧ 1 ≤ t.scid))

/-- The key of an entry cached by a cluster's engines (R29). -/
def tcKey (g c id : Nat) : Nat := (clusterOf g * 256 + c) * 4096 + id
/-- The bytes of an entry as the engines of a core's cluster see it: a cached copy may or may not still be there (R29). -/
def State.entryBytes (s : State) (g c id : Nat) : Except Nat (List Byte) :=
  match Store.find (tcKey g c id) s.tcache with
  | some b => if Config.fresh s.fresh % 2 = 0 then .ok b else s.vreadBlocks c (((s.ctx c).map (·.tidbase)).getD 0 + 64 * id) 4
  | none => s.vreadBlocks c (((s.ctx c).map (·.tidbase)).getD 0 + 64 * id) 4
/-- Reading an entry leaves a cached copy. -/
def State.entryUse (s : State) (g c id : Nat) : State :=
  match s.entryBytes g c id with
  | .ok b => { s with tcache := s.tcache.put (tcKey g c id) b, fresh := s.fresh + 1 }
  | .error _ => { s with fresh := s.fresh + 1 }

/-- A scale tensor fits its data (R27). -/
def scaleFits (t sc : TEntry) : Bool :=
  decide (sc.fmt = 2 ∧ sc.grp = 0 ∧ sc.rank = t.rank ∧ sc.dims.getD 0 0 = (t.dims.getD 0 0 + grpSize t.grp - 1) / grpSize t.grp ∧ sc.dims.drop 1 = t.dims.drop 1)

/-- An identifier checked as an engine checks it (R25, R28, R266): the entry, its scale entry; or a cause and an address. -/
def State.entry (s : State) (g c id : Nat) : Except (Nat × Nat) (TEntry × Option TEntry) :=
  if id = 0 then .error (0x28, 0)
  else if 4096 ≤ id then .error (0x04, 0)
  else
    let tid := ((s.ctx c).map (·.tidbase)).getD 0
    match s.entryBytes g c id with
    | .error _ => .error (0x1F, tid + 64 * id)
    | .ok b =>
      if !(entryOk b) then .error (0x29, 0)
      else
        let t := parseEntry b
        if t.grp = 0 then .ok (t, none)
        else
          match s.entryBytes g c t.scid with
          | .error _ => .error (0x1F, tid + 64 * t.scid)
          | .ok sb => if entryOk sb && scaleFits t (parseEntry sb) then .ok (t, some (parseEntry sb)) else .error (0x29, 0)

/-- The scale element's address for coordinates (R27). -/
def scaleAddr (t : TEntry) (sc : Option TEntry) (i : List Nat) : Option Nat :=
  sc.map fun u => (u.elem ((i.getD 0 0 / grpSize t.grp) :: i.drop 1)).1
/-- Do coordinates lie in the extents? -/
def TEntry.inside (t : TEntry) (i : List Nat) : Bool := (List.range 4).all fun k => decide (i.getD k 0 < t.dims.getD k 1)
/-- Scratchpad bytes past the last element of a scratchpad-resident tensor. -/
def TEntry.scrEnd (t : TEntry) : Int := t.base + (elemAt t.fmt t.most).1 + (elemAt t.fmt t.most).2.2

end Sys2Proof.Machine
end

