-- ==== Sys2Proof/Machine/MemOps.lean ====
section
/-! DEFINITION. Loads, stores, cache control, tensor access, copies, atomics (11 R249 to R275, 15 R331 to R336). -/
namespace Sys2Proof.Machine

/-! Loads and stores (R251) -/

def execLdB8 (x : MMem) (s : State) : Res := loadOp (.ldB8 x) x (widthOf 1 1 false) s
def execLdB16 (x : MMem) (s : State) : Res := loadOp (.ldB16 x) x (widthOf 2 1 false) s
def execLdB32 (x : MMem) (s : State) : Res := loadOp (.ldB32 x) x (widthOf 4 1 false) s
def execLdB64 (x : MMem) (s : State) : Res := loadOp (.ldB64 x) x (widthOf 8 2 false) s
def execLdB128 (x : MMem) (s : State) : Res := loadOp (.ldB128 x) x (widthOf 16 4 false) s
def execLdS8 (x : MMem) (s : State) : Res := loadOp (.ldS8 x) x (widthOf 1 1 true) s
def execLdS16 (x : MMem) (s : State) : Res := loadOp (.ldS16 x) x (widthOf 2 1 true) s
def execStB8 (x : MMem) (s : State) : Res := storeOp (.stB8 x) x (widthOf 1 1 false) s
def execStB16 (x : MMem) (s : State) : Res := storeOp (.stB16 x) x (widthOf 2 1 false) s
def execStB32 (x : MMem) (s : State) : Res := storeOp (.stB32 x) x (widthOf 4 1 false) s
def execStB64 (x : MMem) (s : State) : Res := storeOp (.stB64 x) x (widthOf 8 2 false) s
def execStB128 (x : MMem) (s : State) : Res := storeOp (.stB128 x) x (widthOf 16 4 false) s
def execStS8 (x : MMem) (s : State) : Res := storeOp (.stS8 x) x (widthOf 1 1 true) s
def execStS16 (x : MMem) (s : State) : Res := storeOp (.stS16 x) x (widthOf 2 1 true) s
def execLdsB8 (x : MMem) (s : State) : Res := ldsOp (.ldsB8 x) x (widthOf 1 1 false) s
def execLdsB16 (x : MMem) (s : State) : Res := ldsOp (.ldsB16 x) x (widthOf 2 1 false) s
def execLdsB32 (x : MMem) (s : State) : Res := ldsOp (.ldsB32 x) x (widthOf 4 1 false) s
def execLdsB64 (x : MMem) (s : State) : Res := ldsOp (.ldsB64 x) x (widthOf 8 2 false) s
def execLdsB128 (x : MMem) (s : State) : Res := ldsOp (.ldsB128 x) x (widthOf 16 4 false) s
def execLdsS8 (x : MMem) (s : State) : Res := ldsOp (.ldsS8 x) x (widthOf 1 1 true) s
def execLdsS16 (x : MMem) (s : State) : Res := ldsOp (.ldsS16 x) x (widthOf 2 1 true) s
def execStsB8 (x : MMem) (s : State) : Res := stsOp (.stsB8 x) x (widthOf 1 1 false) s
def execStsB16 (x : MMem) (s : State) : Res := stsOp (.stsB16 x) x (widthOf 2 1 false) s
def execStsB32 (x : MMem) (s : State) : Res := stsOp (.stsB32 x) x (widthOf 4 1 false) s
def execStsB64 (x : MMem) (s : State) : Res := stsOp (.stsB64 x) x (widthOf 8 2 false) s
def execStsB128 (x : MMem) (s : State) : Res := stsOp (.stsB128 x) x (widthOf 16 4 false) s
def execStsS8 (x : MMem) (s : State) : Res := stsOp (.stsS8 x) x (widthOf 1 1 true) s
def execStsS16 (x : MMem) (s : State) : Res := stsOp (.stsS16 x) x (widthOf 2 1 true) s

/-! Cache control (R261 to R265) -/

/-- The checks of a cache-control address: width 1, RD. -/
def cctl (i : Instr) (a : Addr) (okRegion : Nat → Bool) (acc : Nat) (f : Env → W → State → State) (s : State) : Res :=
  let addr (e : Env) (l : Nat) : Nat := (e.st.gaddr a l).toNat
  s.gate (fun e => ((lanesOf e.q).map (addr e)).filter fun x => (s.pre e x 1 okRegion).isNone) fun s =>
    if s.envs.any fun e => (lanesOf e.q).any fun l => s.acqWait e.sq.g e.slot l e.sq.hdl then .next s.again
    else .next (s.on i fun e s =>
      let j := e.split (addr e) fun l => s.chk e (addr e l) 1 needRd okRegion
      (f e j.1 s).raise e acc .here j.2)

/-- PREF (R262): a fill at level 0 or 1; a landing fault is dropped. -/
def execPref (x : MPref) (s : State) : Res :=
  cctl (.pref x) x.addr anyRegion 1 (fun e q s =>
    (lanesOf q).foldl (fun s l =>
      let a := s.normal (e.st.gaddr x.addr l).toNat
      if region a = 4 then s
      else
        match s.readLine e.sq.g e.ctx (s.tagAt e a) a (if x.level = 0 then 0 else 4) 0 (s.npAt e a) needRd (decide (x.level = 0)) s.seq with
        | .ok p => p.1
        | .error _ => { s.learn e.sq.g e.ctx a (s.npAt e a) with fresh := s.fresh + 1 }) s) s
/-- CLEAN (R263): a request with a skid entry. -/
def execClean (x : MAddr) (s : State) : Res :=
  if 256 < s.skidUsed ((s.issue.map (·.g)).headD 0) + ((s.envs.map fun e => (lanesOf e.q).length).foldl (· + ·) 0) then .next s.again
  else cctl (.clean x) x.addr (fun r => decide (r ≠ 4)) 10 (fun e q s =>
    s.reqLines e .clean 10 0 false none ((lanesOf q).map fun l => rlane l (s.normal (e.st.gaddr x.addr l).toNat) [] [])) s
/-- INVAL (R264): the line leaves the cluster's L1 and the sector's copies; region 4 is untouched. -/
def execInval (x : MAddr) (s : State) : Res :=
  cctl (.inval x) x.addr anyRegion 1 (fun e q s =>
    (lanesOf q).foldl (fun s l =>
      let a := s.normal (e.st.gaddr x.addr l).toNat
      if region a = 4 then s else s.dropCopies e.sq.g (s.tagAt e a) a) s) s

/-! Instructions that stall at their slot until units have answered -/

def WalkRec.of (w : WalkRec) (e : Env) : Bool := decide (w.g = e.sq.g ∧ w.slot = e.slot ∧ w.hdl = e.sq.hdl)
/-- The records of a stand's stalled instruction. -/
def State.walksOf (s : State) (e : Env) : List (Nat × WalkRec) := s.walks.filter fun w => w.2.of e
/-- Has a record been answered? A TDESC's is when its store is acknowledged or parked (R267). -/
def State.walkDone (s : State) (w : WalkRec) : Bool :=
  match w.kind with
  | .tdesc r => (match Store.find r s.reqs with | some q => q.open_.any fun a => a.parked.isSome | none => true)
  | .send _ _ _ => w.status.isSome
  | .tdiscard _ _ => w.status.isSome
  | .hold _ _ _ _ _ => w.status.isSome
/-- Record a stall. -/
def State.stall (s : State) (e : Env) (lane : Nat) (kind : WalkKind) : State :=
  { s with walks := s.walks ++ [(s.seq, { g := e.sq.g, slot := e.slot, lane := lane, hdl := e.sq.hdl, kind := kind, status := none, sq := e.sq.id })], seq := s.seq + 1 }
/-- Record a stand whose action is over, while participants of it are left in the squad: they have no effect of their own and wait for the squad's other stands. -/
def State.stallOver (s : State) (e : Env) : State :=
  if s.envs.any fun x => decide (x.key = e.key) then
    { s with walks := s.walks ++ [(s.seq, { g := e.sq.g, slot := e.slot, lane := lowest e.q, hdl := e.sq.hdl, kind := .tdesc s.seq, status := some 0 })], seq := s.seq + 1 }
  else s
/-- Start the stands that have not started; stall while a record is unanswered; then finish every stand. -/
def State.stallOp (s : State) (i : Instr) (start : Env → State → State) (finish : List WalkRec → Env → State → State) : Res :=
  let s1 := s.on i fun e s => if (s.walksOf e).isEmpty then start e s else s
  if s1.envs.any fun e => (s1.walksOf e).any fun w => !(s1.walkDone w.2) then .next s1.again
  else .next (s1.on i fun e s =>
    let ws := s.walksOf e
    finish (ws.map (·.2)) e { s with walks := s.walks.filter fun w => !(w.2.of e) })

/-- TDISCARD (R265): once for each stand, with the identifier of its lowest participant. -/
def execTdiscard (x : MAddr) (s : State) : Res :=
  if s.envs.any fun e => (s.walksOf e).isEmpty && (lanesOf e.q).any fun l => s.acqWait e.sq.g e.slot l e.sq.hdl then .next s.again
  else s.stallOp (.tdiscard x)
    (fun e s =>
      let l := lowest e.q
      let id := match x.addr with
        | .s n => (e.st.rs n).toNat
        | .sl _ w => w.toNat
        | .v _ => 0
        | .vl _ _ => 0
      match s.entry e.sq.g e.ctx id with
      | .error (c, a) => (s.entryUse e.sq.g e.ctx id).raise e 0 .here ((lanesOf e.q).map fun l => { lane := l, cause := c, addr := BitVec.ofNat 64 a })
      | .ok (t, _) =>
        let s := s.entryUse e.sq.g e.ctx id
        if t.scr || !t.disc then s
        else s.stall e l (.tdiscard id (((s.ctx e.ctx).map (·.ctag)).getD 0)))
    (fun _ _ s => s)

/-- A discarded line: what memory holds again, if it had not been written back (R265): which is open. -/
def State.discardLine (s : State) (k : Nat) (l : HomeLine) : State :=
  let keep := Config.fresh s.fresh % 2 = 0
  let s := { s with fresh := s.fresh + 1, l2 := s.l2.del k }
  if !l.dirty || keep then s
  else
    let a := k % 2 ^ 64 * 128
    if k / 2 ^ 64 = 0 then { s with mem := memWrite s.mem a l.behind }
    else if k / 2 ^ 64 = 1 then s.pokeN .tier a l.behind
    else s.pokeN .host a l.behind
/-- TDISCARD_DONE: every slice has dropped its lines with the identifier and the tag, home lines and local copies; the leases of the tag's L1 lines have ended. A pending store's bytes stay with their request, which then writes the line that memory fills (R265, R312). -/
def execTdiscardDone (id : Nat) (s : State) : Res :=
  match Store.find id s.walks with
  | none => .next s
  | some w =>
    match w.kind with
    | .tdiscard tid tag =>
      let hit := s.l2.filter fun l => decide (l.2.tid = tid ∧ l.2.tag = tag)
      let s := hit.foldl (fun s l => s.discardLine l.1 l.2) s
      .next { s with l1 := s.l1.filter fun c => decide (keyTag c.1 ≠ tag), sec := s.sec.filter fun c => !decide (c.2.tid = tid ∧ keyTag c.1 = tag), walks := Store.put id { w with status := some 0 } s.walks }
    | .tdesc _ => .next s
    | .send _ _ _ => .next s
    | .hold _ _ _ _ _ => .next s

/-! Tensor access (R266 to R269) -/

/-- Must a TDESC wait before it reads its source: for the lowest participant's acquire load (R254), or for its own atomics on the line (R312 item 6)? -/
def State.tdescWait (s : State) (e : Env) (x : XDesc) : Bool :=
  let l := lowest e.q
  let y := s.normal (e.st.rs64 x.b).toNat
  s.acqWait e.sq.g e.slot l e.sq.hdl ||
  (decide (x.q = 1) && s.reqs.any fun r => decide (r.2.g = e.sq.g ∧ r.2.slot = e.slot ∧ r.2.tag = s.tagAt e y ∧ r.2.line = lineOf y) && r.2.kind.bank && !r.2.engine &&
    r.2.open_.any fun a => decide (a.lane = l ∧ a.parked = none))
/-- The cause of TDESC's checks in the lowest participant, or the state after its read and the bytes it writes (R267). -/
def State.tdescRead (s : State) (e : Env) (x : XDesc) : Except (Nat × Nat) (State × List Byte) :=
  let id := (e.st.xsrc x.id).toNat
  let a := if x.q = 1 then (e.st.rs64 x.b).toNat else (e.st.rs x.b).toNat
  if id = 0 then .error (0x28, 0)
  else if 4096 ≤ id then .error (0x04, 0)
  else
    let bytes : Except (Nat × Nat) (State × List Byte) :=
      if x.q = 1 then
        match s.chkB e a 64 needRd anyRegion with
        | some c => .error (c, a)
        | none =>
          let y := s.normal a
          let tag := s.tagAt e y
          match s.barred tag y with
          | some c => .error (c, a)
          | none =>
            match s.readLine e.sq.g e.ctx tag y 0 0 (s.npAt e y) needRd true s.seq with
            | .error c => .error (c, a)
            | .ok p => .ok (p.1, ((overlay (s.l1Stores (clusterOf e.sq.g) tag (lineOf y) s.seq) (y / 128 * 128) p.2).drop (y % 128)).take 64)
      else
        match s.scrChk e a 64 with
        | some c => .error (c, a)
        | none => .ok (s, s.scrGet e.sq.launch e.sq.g a 64)
    match bytes with
    | .error c => .error c
    | .ok (s1, b) =>
      let t := ((s.ctx e.ctx).map (·.tidbase)).getD 0 + 64 * id
      if !(entryOk b) then .error (0x29, 0)
      else match s.chkB e t 1 needWr anyRegion with
        | some c => .error (c, t)
        | none => .ok (s1, b)
/-- TDESC: the store takes a skid entry; every cached copy of the entry in the context's clusters goes, now and when the store is acknowledged or parked (R29). -/
def execTdesc (x : XDesc) (s : State) : Res :=
  let tbl (e : Env) : Nat := ((s.ctx e.ctx).map (·.tidbase)).getD 0 + 64 * (e.st.xsrc x.id).toNat
  s.gate (fun e =>
      ((if x.q = 1 then [(e.st.rs64 x.b).toNat] else []) ++ (if (e.st.xsrc x.id).toNat < 4096 ∧ (e.st.xsrc x.id).toNat ≠ 0 then [tbl e] else [])).filter fun a => (s.pre e a 1 anyRegion).isNone) fun s =>
    if (s.envs.any fun e => (s.walksOf e).isEmpty && s.tdescWait e x) || decide (256 < s.skidUsed ((s.issue.map (·.g)).headD 0) + (s.envs.filter fun e => (s.walksOf e).isEmpty).length) then .next s.again
    else
      s.stallOp (.tdesc x)
        (fun e s =>
          match s.tdescRead e x with
          | .error (c, a) =>
            let y := s.normal a
            ((s.learn e.sq.g e.ctx y (s.npAt e y)).raise e (if c = 0x13 ∧ a = tbl e then 11 else 1) .here [{ lane := lowest e.q, cause := c, addr := BitVec.ofNat 64 a }]).stallOver e
          | .ok (s, b) =>
            let id := (e.st.xsrc x.id).toNat
            let s := { s with fresh := s.fresh + 1, tcache := s.tcache.filter fun t => decide (t.1 % (256 * 4096) ≠ e.ctx * 4096 + id) }
            (s.req e .tdesc 11 0 false none 0 [rlane (lowest e.q) (s.normal (tbl e)) b []]).stall e (lowest e.q) (.tdesc s.seq))
        (fun _ _ s => s)

/-- The addresses at which the pages of n bytes are checked: the first byte, and the first of a second page. -/
def elemPages (a n : Nat) : List Nat := if a % 65536 + n ≤ 65536 then [a] else [a, (a / 65536 + 1) * 65536]
/-- Where a TREAD lane reads, or its cause (R268): register-index, the format against the mode, the coordinates, then the checks of the access. none: zero-filled. -/
def State.treadLane (s : State) (e : Env) (x : XRead) (t : TEntry) (sc : Option TEntry) (l : Nat) : Except (Nat × Nat) (Option (Nat × Nat × Nat × Option Nat)) :=
  if e.l.hdr.vregs < x.d + t.rank then .error (0x20, 0)
  else if (match x.idx with | 0 => decide (t.fmt = 3 ∨ t.fmt = 8) | 1 => decide (t.fmt = 3) | _ => decide (t.fmt ≠ 3)) then .error (0x04, 0)
  else
    let i := (List.range 4).map fun k => if k < t.rank then (e.st.rv (x.d + k) l).toNat else 0
    if !(t.inside i) then (if x.q = 1 then .ok none else .error (0x04, 0))
    else
      let p := t.elem i
      let data : Option (Nat × Nat) := if t.scr then (if s.scrSize e.sq.launch e.sq.g < p.1 + p.2.2 then some (0x12, p.1) else none) else (elemPages p.1 p.2.2).findSome? fun a => (s.chkB e a 1 needRd anyRegion).map fun c => (c, a)
      let scale : Option (Nat × Nat) := match scaleAddr t sc i, sc with
        | some y, some u => if u.scr then (if s.scrSize e.sq.launch e.sq.g < y + 2 then some (0x12, y) else none) else (s.chkB e y 1 needRd anyRegion).map fun c => (c, y)
        | _, _ => none
      match data, scale with
      | some c, _ => .error c
      | none, some c => .error c
      | none, none => .ok (some (if t.scr then p.1 else s.normal p.1, p.2.1, p.2.2, (scaleAddr t sc i).map fun y => if (sc.map (·.scr)).getD false then y else s.normal y))
/-- TREAD: a counted read of one element for each participant. -/
def execTread (x : XRead) (s : State) : Res :=
  let ent (s : State) (e : Env) : Except (Nat × Nat) (TEntry × Option TEntry) := s.entry e.sq.g e.ctx (e.st.xsrc x.id).toNat
  let pages (e : Env) : List Nat :=
    match ent s e with
    | .error _ => []
    | .ok (t, sc) =>
      ((lanesOf e.q).flatMap fun l =>
        let i := (List.range 4).map fun k => if k < t.rank then (e.st.rv (x.d + k) l).toNat else 0
        if t.inside i then (if t.scr then [] else elemPages (t.elem i).1 (t.elem i).2.2) ++ (if (sc.map (·.scr)).getD false then [] else (scaleAddr t sc i).toList) else []).filter fun a => (s.pre e a 1 anyRegion).isNone
  s.gate pages fun s =>
    s.ordered plainOrder fun s => .next (s.on (.tread x) fun e s =>
      match ent s e with
      | .error (c, a) => (s.entryUse e.sq.g e.ctx (e.st.xsrc x.id).toNat).raise e 1 .here ((lanesOf e.q).map fun l => { lane := l, cause := c, addr := BitVec.ofNat 64 a })
      | .ok (t, sc) =>
        let s := s.entryUse e.sq.g e.ctx (e.st.xsrc x.id).toNat
        let r (l : Nat) := s.treadLane e x t sc l
        let ok := maskOf ((lanesOf e.q).filter fun l => match r l with | .ok _ => true | .error _ => false)
        let bad := (lanesOf e.q).filterMap fun l => match r l with | .ok _ => none | .error (c, a) => some { lane := l, cause := c, addr := BitVec.ofNat 64 a }
        let lane (l : Nat) : OLane :=
          match r l with
          | .ok (some (a, b, n, y)) => { lane := l, addr := a, n := n, bit := b, scale := y, got := [], fault := none, np := !t.scr && s.npAt e a, sscr := (sc.map (·.scr)).getD false, snp := match y with | some y => !((sc.map (·.scr)).getD false) && s.npAt e y | none => false }
          | .ok none => { lane := l, addr := 0, n := 0, bit := 0, scale := none, got := [], fault := none, np := false }
          | .error _ => { lane := l, addr := 0, n := 0, bit := 0, scale := none, got := [], fault := none, np := false }
        (s.startOp e (.tread t.fmt x.idx t.sb ((sc.map (·.sb)).getD 0)) x.d (if x.idx = 2 then 2 else 1) 0 false t.scr (e.st.xsrc x.id).toNat ok ((lanesOf ok).map lane)).raise e 1 .here bad)

/-- TQUERY (R269): an entry's extents and control bytes, its size, or the lines that carry it. -/
def execTquery (x : XRead) (s : State) : Res :=
  s.ordered plainOrder fun s => .next (s.on (.tquery x) fun e s =>
    let id := (e.st.xsrc x.id).toNat
    match s.entry e.sq.g e.ctx id with
    | .error (c, a) => (s.entryUse e.sq.g e.ctx id).raise e 1 .here ((lanesOf e.q).map fun l => { lane := l, cause := c, addr := BitVec.ofNat 64 a })
    | .ok (t, _) =>
      let v : Option Nat :=
        match x.idx with
        | 4 => some (match s.entryBytes e.sq.g e.ctx id with | .ok b => tfield b 8 4 | .error _ => 0)
        | 5 => none
        | 6 => none
        | 7 => some (min (t.dims.foldl (· * ·) 1) 0xFFFFFFFF)
        | k => some (t.dims.getD k 1)
      let s := s.entryUse e.sq.g e.ctx id
      s.startOp e (.tquery x.idx id) x.d 1 0 false true id e.q ((lanesOf e.q).map fun l =>
        { lane := l, addr := 0, n := 4, bit := 0, scale := none, got := match v with | some n => toBytes 4 n | none => [], fault := none, np := false }))

/-! Copies (R270 to R274) -/

/-- Commands of a core's cluster in progress. -/
def State.copies (s : State) (g : Nat) : Nat := (s.cpys.filter fun c => decide (clusterOf c.2.g = clusterOf g)).length
/-- Issue a command: its skid entry is the record itself. -/
def State.command (s : State) (e : Env) (tid : Nat) (word : Option (Nat × W)) (moves : List Move) : State :=
  let c : Cpy :=
    { g := e.sq.g, slot := e.slot, lane := lowest e.q, ctx := e.ctx, launch := e.sq.launch, pkt := e.l.pkt e.sq.pc, pslot := e.sq.k,
      moves := moves, word := word, bad := false, tid := tid, hdl := e.sq.hdl }
  { s with cpys := s.cpys ++ [(s.seq, c)], seq := s.seq + 1 }
/-- The addresses at which a range's pages are checked. -/
def pagesOf (a n : Nat) : List Nat := (List.range ((a % 65536 + n + 65535) / 65536)).map fun i => if i = 0 then a else (a / 65536 + i) * 65536
/-- Commands that a core may issue now: its skid has an entry for each, and its cluster's engine holds 16 in progress (R271). -/
def State.copyRoom (s : State) (g : Nat) : Nat := min (256 - s.skidUsed g) (16 - s.copies g)
/-- Issue one command for each stand: as many as there is room for, in ascending stand slots; the others stall at the slot, and those whose command has left wait for them. -/
def State.issueCopies (s : State) (i : Instr) (f : Env → State → State) : Res :=
  let todo := s.envs.filter fun e => (s.walksOf e).isEmpty
  let n := s.copyRoom ((s.issue.map (·.g)).headD 0)
  if todo.length ≤ n then .next (s.on i fun e s => if (s.walksOf e).isEmpty then f e s else { s with walks := s.walks.filter fun w => !(w.2.of e) })
  else .next (s.on i fun e s => if ((todo.take n).map (·.slot)).contains e.slot then (f e s).stallOver e else s).again
/-- Check a global range on the copy path (R271). -/
def State.rangeChk (s : State) (e : Env) (a n w : Nat) (need : Need) : Option (Nat × Nat) :=
  match (pagesOf a n).filterMap fun x => (s.chkB e x (if x = a then w else 1) need anyRegion).map fun c => (c, x) with
  | [] => none
  | c :: _ => some c
/-- Check a scratchpad range of a command. -/
def State.scrRange (s : State) (e : Env) (a n w : Nat) : Option (Nat × Nat) :=
  if a % w ≠ 0 then some (0x10, a) else if s.scrSize e.sq.launch e.sq.g < a + n then some (0x12, a) else none
/-- Causes in order: the first that is there. -/
def firstOf : List (Option (Nat × Nat)) → Option (Nat × Nat)
  | [] => none
  | some c :: _ => some c
  | none :: t => firstOf t

/-- The block of a CPY (R272): source, destination, length, and its cause. -/
structure CpyBlock where
  srcScr : Bool
  dstScr : Bool
  src : Nat
  dst : Nat
  n : Nat
  word : Option (Nat × W)
  deriving DecidableEq, Repr
def Env.cpyBlock (e : Env) (x : XCpy) : CpyBlock :=
  let ss := decide (x.dir = 1 ∨ x.dir = 3)
  let ds := decide (x.dir = 2 ∨ x.dir = 3)
  { srcScr := ss, dstScr := ds, src := if ss then (e.st.rs x.a).toNat else (e.st.rs64 x.a).toNat, dst := if ds then (e.st.rs (x.a + 2)).toNat else (e.st.rs64 (x.a + 2)).toNat,
    n := (e.st.rs (x.a + 4)).toNat, word := x.w.map fun v => ((e.st.rs (x.a + 5)).toNat, e.st.xsrc v) }
def CpyBlock.lenBad (b : CpyBlock) : Bool := decide (b.n < 16 ∨ 4194304 < b.n ∨ b.n % 16 ≠ 0)
def State.cpyCause (s : State) (e : Env) (b : CpyBlock) : Option (Nat × Nat) :=
  firstOf
    [ if b.lenBad then some (0x04, 0) else none,
      if b.srcScr then s.scrRange e b.src b.n 16 else s.rangeChk e b.src b.n 16 needRd,
      if b.dstScr then s.scrRange e b.dst b.n 16 else s.rangeChk e b.dst b.n 16 needWr,
      if b.srcScr = b.dstScr ∧ b.src < b.dst + b.n ∧ b.dst < b.src + b.n then some (0x04, 0) else none,
      match b.word with | some (a, _) => s.scrRange e a 4 4 | none => none ]
def execCpy (x : XCpy) (s : State) : Res :=
  s.gate (fun e =>
    let b := e.cpyBlock x
    if b.lenBad then [] else ((if b.srcScr then [] else pagesOf b.src b.n) ++ (if b.dstScr then [] else pagesOf b.dst b.n)).filter fun a => (s.pre e a 1 anyRegion).isNone) fun s =>
  s.issueCopies (.cpy x) fun e s =>
    let b := e.cpyBlock x
    match s.cpyCause e b with
    | some (c, a) => s.raise e (if a = b.dst then 7 else 6) .here [{ lane := lowest e.q, cause := c, addr := BitVec.ofNat 64 a }]
    | none => s.command e 0 b.word [{ src := some b.src, srcBit := 0, srcScr := b.srcScr, dst := b.dst, dstBit := 0, dstScr := b.dstScr, nbits := 8 * b.n, lane := lowest e.q }]

/-- The block of a CPYT (R273). -/
structure TileBlock where
  sid : Nat
  did : Nat
  si : List Nat
  di : List Nat
  deriving DecidableEq, Repr
def Env.tileBlock (e : Env) (x : XCpy) : TileBlock :=
  let r (i : Nat) : Nat := (e.st.rs (x.a + i)).toNat
  { sid := r 0, did := r 1, si := [r 2, r 3, bits (r 6) 0 16, bits (r 6) 16 16], di := [r 4, r 5, bits (r 7) 0 16, bits (r 7) 16 16] }
/-- The pieces of a tile: element by element; outside the source extents zero bits, outside the destination nothing. -/
def tileMoves (t d : TEntry) (b : TileBlock) (lane : Nat) : List Move :=
  let at_ (i : List Nat) (x y : Nat) : List Nat := [i.getD 0 0 + x, i.getD 1 0 + y, i.getD 2 0, i.getD 3 0]
  (List.range t.tm).flatMap fun y => (List.range t.tn).filterMap fun x =>
    let di := at_ b.di x y
    if d.inside di then
      let p := d.elem di
      let si := at_ b.si x y
      let q := t.elem si
      some { src := if t.inside si then some q.1 else none, srcBit := q.2.1, srcScr := t.scr, dst := p.1, dstBit := p.2.1, dstScr := d.scr, nbits := fmtBits t.fmt, lane := lane }
    else none
/-- Where the pages of a piece's source and destination in global space are checked. -/
def Move.srcs (m : Move) : List Nat := match m.src with | some a => if m.srcScr then [] else elemPages a ((m.srcBit + m.nbits + 7) / 8) | none => []
def Move.dsts (m : Move) : List Nat := if m.dstScr then [] else elemPages m.dst ((m.dstBit + m.nbits + 7) / 8)
/-- Distinct 64 KiB pages of addresses, each by its lowest. -/
def distinctPages (xs : List Nat) : List Nat := xs.foldl (fun a x => if a.any fun y => decide (y / 65536 = x / 65536) then a.map fun y => if y / 65536 = x / 65536 then min x y else y else a ++ [x]) []
/-- The cause with the lowest address (R229). -/
def lowestOf : List (Nat × Nat) → Option (Nat × Nat)
  | [] => none
  | c :: t => some (t.foldl (fun b c => if c.2 < b.2 then c else b) c)
def State.tileCause (s : State) (e : Env) (x : XCpy) (b : TileBlock) : Except (Nat × Nat) (List Move × Option (Nat × W)) :=
  match s.entry e.sq.g e.ctx b.sid, s.entry e.sq.g e.ctx b.did with
  | .error c, _ => .error c
  | .ok _, .error c => .error c
  | .ok (t, _), .ok (d, _) =>
    let size := s.scrSize e.sq.launch e.sq.g
    if t.fmt ≠ d.fmt then .error (0x04, 0)
    else if (t.scr && decide ((size : Int) < t.scrEnd)) || (d.scr && decide ((size : Int) < d.scrEnd)) then .error (0x04, 0)
    else if b.si.getD 0 0 % subUnit t.fmt ≠ 0 ∨ b.di.getD 0 0 % subUnit t.fmt ≠ 0 then .error (0x04, 0)
    else
      let ms := tileMoves t d b (lowest e.q)
      let word := x.w.map fun v => ((e.st.rs (x.a + 8)).toNat, e.st.xsrc v)
      match firstOf ([lowestOf ((distinctPages (ms.flatMap Move.srcs)).filterMap fun a => (s.chkB e a 1 needRd anyRegion).map fun c => (c, a)),
          lowestOf ((distinctPages (ms.flatMap Move.dsts)).filterMap fun a => (s.chkB e a 1 needWr anyRegion).map fun c => (c, a)),
          match word with | some (a, _) => s.scrRange e a 4 4 | none => none]) with
      | some c => .error c
      | none => .ok (ms, word)
def execCpyt (x : XCpy) (s : State) : Res :=
  let ms (s : State) (e : Env) : List Nat :=
    let b := e.tileBlock x
    match s.entry e.sq.g e.ctx b.sid, s.entry e.sq.g e.ctx b.did with
    | .ok (t, _), .ok (d, _) => if t.fmt = d.fmt then (distinctPages ((tileMoves t d b 0).flatMap fun m => m.srcs ++ m.dsts)).filter fun a => (s.pre e a 1 anyRegion).isNone else []
    | _, _ => []
  s.gate (ms s) fun s =>
  s.issueCopies (.cpyt x) fun e s =>
    let b := e.tileBlock x
    match s.tileCause e x b with
    | .error (c, a) => ((s.entryUse e.sq.g e.ctx b.sid).entryUse e.sq.g e.ctx b.did).raise e 6 .here [{ lane := lowest e.q, cause := c, addr := BitVec.ofNat 64 a }]
    | .ok (m, word) => ((s.entryUse e.sq.g e.ctx b.sid).entryUse e.sq.g e.ctx b.did).command e b.sid word m

/-- CPYV (R274): each participant gathers S[b] bytes; with .W, S[b+1] and S[b+2] give the completion word. -/
def State.gatherChk (s : State) (e : Env) (x : XCpyV) (l : Nat) : Option (Nat × Nat) :=
  let n := (e.st.rs x.b).toNat
  firstOf
    [ if n < 16 ∨ 4096 < n ∨ n % 16 ≠ 0 then some (0x04, 0) else none,
      s.rangeChk e (e.st.rv64 x.a l).toNat n 16 needRd,
      s.scrRange e (e.st.rv (x.a + 2) l).toNat n 16,
      if x.q = 1 then s.scrRange e (e.st.rs (x.b + 1)).toNat 4 4 else none ]
def execCpyv (x : XCpyV) (s : State) : Res :=
  s.gate (fun e =>
    let n := (e.st.rs x.b).toNat
    if n < 16 ∨ 4096 < n then [] else ((lanesOf e.q).flatMap fun l => pagesOf (e.st.rv64 x.a l).toNat n).filter fun a => (s.pre e a 1 anyRegion).isNone) fun s =>
  s.issueCopies (.cpyv x) fun e s =>
    let bad := (lanesOf e.q).filterMap fun l => (s.gatherChk e x l).map fun c => { lane := l, cause := c.1, addr := BitVec.ofNat 64 c.2 }
    if bad.isEmpty then
      s.command e 0 (if x.q = 1 then some ((e.st.rs (x.b + 1)).toNat, e.st.rs (x.b + 2)) else none)
        ((lanesOf e.q).map fun l => { src := some (e.st.rv64 x.a l).toNat, srcBit := 0, srcScr := false, dst := (e.st.rv (x.a + 2) l).toNat, dstBit := 0, dstScr := true, nbits := 8 * (e.st.rs x.b).toNat, lane := l })
    else s.raise e 6 .here bad

/-! Atomics (R328 to R336) -/

def atomRegion (r : Nat) : Bool := decide (r ≠ 2)
def chunkRegion (r : Nat) : Bool := decide (r = 0 ∨ r = 4)
/-- A global read-modify-write of n bytes: a counted operation and one request for each line. data, new: the operand bytes of a lane. -/
def atomOp (i : Instr) (x : MMem) (kind : ReqKind) (acc n nreg : Nat) (okRegion : Nat → Bool) (data new : Env → Nat → List Byte) (s : State) : Res :=
  let o := orderOf x.ord x.scp
  let addr (e : Env) (l : Nat) : Nat := (e.st.gaddr x.addr l).toNat
  s.gate (fun e => ((lanesOf e.q).map (addr e)).filter fun a => (s.pre e a n okRegion).isNone) fun s =>
    s.ordered o fun s =>
      if 256 < s.skidUsed ((s.issue.map (·.g)).headD 0) + ((s.envs.map fun e => (lanesOf e.q).length).foldl (· + ·) 0) then .next s.again
      else .next (s.on i fun e s =>
        let j := e.split (addr e) fun l => s.chkB e (addr e l) n needAt okRegion
        let ls := (lanesOf j.1).map fun l => { lane := l, addr := s.normal (addr e l), n := 4 * nreg, bit := 0, scale := none, got := [], fault := none, np := false }
        let rs := (lanesOf j.1).map fun l => rlane l (s.normal (addr e l)) (data e l) (new e l)
        ((s.startOp e .atom x.d nreg x.scp o.acq false 0 j.1 ls).reqLines e kind acc x.scp o.rel (some s.seq) rs).raise e acc .here j.2)
/-- The memory form of an atomic. -/
def atomMem (x : MAtom) : MMem := { c := x.c, ord := x.ord, scp := x.scp, d := x.d, addr := x.addr }
def casMem (x : MCas) : MMem := { c := x.c, ord := x.ord, scp := x.scp, d := x.d, addr := x.addr }
def data32 (b : Src) (e : Env) (l : Nat) : List Byte := toBytes 4 (e.st.src b l).toNat
def data64 (b : Src) (e : Env) (l : Nat) : List Byte := toBytes 8 (e.st.src64 b l).toNat
def noData (_ : Env) (_ : Nat) : List Byte := []
/-- RED (R336): uncounted, nothing returned. -/
def redOp (i : Instr) (x : MMem) (op : Nat) (s : State) : Res :=
  let o := orderOf x.ord x.scp
  let addr (e : Env) (l : Nat) : Nat := (e.st.gaddr x.addr l).toNat
  s.gate (fun e => ((lanesOf e.q).map (addr e)).filter fun a => (s.pre e a 4 atomRegion).isNone) fun s =>
    s.ordered o fun s =>
      if 256 < s.skidUsed ((s.issue.map (·.g)).headD 0) + ((s.envs.map fun e => (lanesOf e.q).length).foldl (· + ·) 0) then .next s.again
      else .next (s.on i fun e s =>
        let j := e.split (addr e) fun l => s.chkB e (addr e l) 4 needAt atomRegion
        (s.reqLines e (.red op) 4 x.scp o.rel none ((lanesOf j.1).map fun l => rlane l (s.normal (addr e l)) (toBytes 4 (e.st.rv x.d l).toNat) [])).raise e 4 .here j.2)
/-- ATOMS (R331): in the scratchpad. -/
def atomsOp (i : Instr) (x : MMem) (op : Nat) (d c : Env → Nat → W) (s : State) : Res :=
  let o := orderOf x.ord x.scp
  let addr (e : Env) (l : Nat) : Nat := (e.st.saddr x.addr l).toNat
  s.ordered o fun s => .next (s.on i fun e s =>
    let j := e.split (addr e) fun l =>
      match s.scrChk e (addr e l) 4 with
      | some c => some c
      | none => if s.locked e.sq.launch e.sq.g (addr e l) (addr e l + 4) then some 0x27 else none
    let ls := (lanesOf j.1).map fun l => { lane := l, addr := addr e l, n := 4, bit := (d e l).toNat + 2 ^ 32 * (c e l).toNat, scale := none, got := [], fault := none, np := false }
    (s.startOp e (.atoms op) x.d 1 x.scp o.acq true 0 j.1 ls).raise e 3 .here j.2)

def execAtomAdd (x : MAtom) (s : State) : Res := atomOp (.atomAdd x) (atomMem x) (.atom 0 32) 3 4 1 atomRegion (data32 x.b) noData s
def execAtomMin (x : MAtom) (s : State) : Res := atomOp (.atomMin x) (atomMem x) (.atom 1 32) 3 4 1 atomRegion (data32 x.b) noData s
def execAtomMax (x : MAtom) (s : State) : Res := atomOp (.atomMax x) (atomMem x) (.atom 2 32) 3 4 1 atomRegion (data32 x.b) noData s
def execAtomAnd (x : MAtom) (s : State) : Res := atomOp (.atomAnd x) (atomMem x) (.atom 3 32) 3 4 1 atomRegion (data32 x.b) noData s
def execAtomOr (x : MAtom) (s : State) : Res := atomOp (.atomOr x) (atomMem x) (.atom 4 32) 3 4 1 atomRegion (data32 x.b) noData s
def execAtomXor (x : MAtom) (s : State) : Res := atomOp (.atomXor x) (atomMem x) (.atom 5 32) 3 4 1 atomRegion (data32 x.b) noData s
def execAtomExch (x : MAtom) (s : State) : Res := atomOp (.atomExch x) (atomMem x) (.atom 6 32) 3 4 1 atomRegion (data32 x.b) noData s
def execAtomCas (x : MCas) (s : State) : Res := atomOp (.atomCas x) (casMem x) (.cas 32) 3 4 1 atomRegion (data32 x.b) (data32 x.n) s
def execAtom64Add (x : MAtom) (s : State) : Res := atomOp (.atom64Add x) (atomMem x) (.atom 0 64) 3 8 2 atomRegion (data64 x.b) noData s
def execAtom64Min (x : MAtom) (s : State) : Res := atomOp (.atom64Min x) (atomMem x) (.atom 1 64) 3 8 2 atomRegion (data64 x.b) noData s
def execAtom64Max (x : MAtom) (s : State) : Res := atomOp (.atom64Max x) (atomMem x) (.atom 2 64) 3 8 2 atomRegion (data64 x.b) noData s
def execAtom64And (x : MAtom) (s : State) : Res := atomOp (.atom64And x) (atomMem x) (.atom 3 64) 3 8 2 atomRegion (data64 x.b) noData s
def execAtom64Or (x : MAtom) (s : State) : Res := atomOp (.atom64Or x) (atomMem x) (.atom 4 64) 3 8 2 atomRegion (data64 x.b) noData s
def execAtom64Xor (x : MAtom) (s : State) : Res := atomOp (.atom64Xor x) (atomMem x) (.atom 5 64) 3 8 2 atomRegion (data64 x.b) noData s
def execAtom64Exch (x : MAtom) (s : State) : Res := atomOp (.atom64Exch x) (atomMem x) (.atom 6 64) 3 8 2 atomRegion (data64 x.b) noData s
def execAtom64Cas (x : MCas) (s : State) : Res := atomOp (.atom64Cas x) (casMem x) (.cas 64) 3 8 2 atomRegion (data64 x.b) (data64 x.n) s
def execAtomsAdd (x : MAtom) (s : State) : Res := atomsOp (.atomsAdd x) (atomMem x) 0 (fun e l => e.st.src x.b l) (fun _ _ => 0) s
def execAtomsMin (x : MAtom) (s : State) : Res := atomsOp (.atomsMin x) (atomMem x) 1 (fun e l => e.st.src x.b l) (fun _ _ => 0) s
def execAtomsMax (x : MAtom) (s : State) : Res := atomsOp (.atomsMax x) (atomMem x) 2 (fun e l => e.st.src x.b l) (fun _ _ => 0) s
def execAtomsAnd (x : MAtom) (s : State) : Res := atomsOp (.atomsAnd x) (atomMem x) 3 (fun e l => e.st.src x.b l) (fun _ _ => 0) s
def execAtomsOr (x : MAtom) (s : State) : Res := atomsOp (.atomsOr x) (atomMem x) 4 (fun e l => e.st.src x.b l) (fun _ _ => 0) s
def execAtomsXor (x : MAtom) (s : State) : Res := atomsOp (.atomsXor x) (atomMem x) 5 (fun e l => e.st.src x.b l) (fun _ _ => 0) s
def execAtomsExch (x : MAtom) (s : State) : Res := atomsOp (.atomsExch x) (atomMem x) 6 (fun e l => e.st.src x.b l) (fun _ _ => 0) s
def execAtomsCas (x : MCas) (s : State) : Res := atomsOp (.atomsCas x) (casMem x) 7 (fun e l => e.st.src x.b l) (fun e l => e.st.src x.n l) s
def execAtomfFadd32 (x : MAtom) (s : State) : Res := atomOp (.atomfFadd32 x) (atomMem x) (.atomF 0) 3 4 1 atomRegion (data32 x.b) noData s
def execAtomfFaddBf2 (x : MAtom) (s : State) : Res := atomOp (.atomfFaddBf2 x) (atomMem x) (.atomF 1) 3 4 1 atomRegion (data32 x.b) noData s
def execAtomfFaddH2 (x : MAtom) (s : State) : Res := atomOp (.atomfFaddH2 x) (atomMem x) (.atomF 2) 3 4 1 atomRegion (data32 x.b) noData s
def execAtomfFmin32 (x : MAtom) (s : State) : Res := atomOp (.atomfFmin32 x) (atomMem x) (.atomF 3) 3 4 1 atomRegion (data32 x.b) noData s
def execAtomfFmax32 (x : MAtom) (s : State) : Res := atomOp (.atomfFmax32 x) (atomMem x) (.atomF 4) 3 4 1 atomRegion (data32 x.b) noData s
def execAtomfFadd64 (x : MAtom) (s : State) : Res := atomOp (.atomfFadd64 x) (atomMem x) (.atomF 5) 3 8 2 atomRegion (data64 x.b) noData s
def execChunk (x : MMem) (s : State) : Res := atomOp (.chunk x) x .chunk 5 16 2 chunkRegion noData noData s
def execRedAdd (x : MMem) (s : State) : Res := redOp (.redAdd x) x 0 s
def execRedMin (x : MMem) (s : State) : Res := redOp (.redMin x) x 1 s
def execRedMax (x : MMem) (s : State) : Res := redOp (.redMax x) x 2 s
def execRedAnd (x : MMem) (s : State) : Res := redOp (.redAnd x) x 3 s
def execRedOr (x : MMem) (s : State) : Res := redOp (.redOr x) x 4 s
def execRedXor (x : MMem) (s : State) : Res := redOp (.redXor x) x 5 s

end Sys2Proof.Machine
end

