-- ==== Sys2Proof/Machine/Copy.lean ====
section
/-! DEFINITION. The copy engine: one unit of a command at a time (10 R243, R244, 11 R271 to R274). -/
namespace Sys2Proof.Machine

/-- Units of a piece: 16 bytes, or an element. -/
def Move.units (m : Move) : Nat := (m.nbits + 127) / 128
/-- The piece from unit j on, and the piece before it. -/
def Move.from_ (m : Move) (j : Nat) : Move := { m with src := m.src.map (· + 16 * j), dst := m.dst + 16 * j, nbits := m.nbits - 128 * j }
def Move.upTo (m : Move) (j : Nat) : Move := { m with nbits := 128 * j }
def Move.unit (m : Move) (j : Nat) : Move := { m.from_ j with nbits := min 128 (m.nbits - 128 * j) }
def Move.some_ (m : Move) : List Move := if m.nbits = 0 then [] else [m]
/-- Take unit j of piece i out of a list. -/
def takeUnit (i j : Nat) : List Move → List Move
  | [] => []
  | m :: t => if i = 0 then (m.upTo j).some_ ++ (m.from_ (j + 1)).some_ ++ t else m :: takeUnit (i - 1) j t
/-- The piece and unit of the n-th unit. -/
def nthUnit : Nat → Nat → List Move → Option (Nat × Nat × Move)
  | _, _, [] => none
  | i, n, m :: t => if n < m.units then some (i, n, m.unit n) else nthUnit (i + 1) (n - m.units) t
/-- The first piece that covers a destination, which precedes a later one of a higher lane (R274). -/
def firstUnit (u : Move) : Nat → List Move → Option (Nat × Nat × Move)
  | _, [] => none
  | i, m :: t =>
    if m.dstScr = u.dstScr ∧ m.dstBit = u.dstBit ∧ m.dst ≤ u.dst ∧ u.dst < m.dst + max 1 (m.nbits / 8) then some (i, (u.dst - m.dst) / 16, m.unit ((u.dst - m.dst) / 16))
    else firstUnit u (i + 1) t

/-- The units of a piece whose source does not lie in a 64 KiB page. -/
def Move.outside (p : Nat) (m : Move) : List Move :=
  (((List.range m.units).map m.unit).filter fun u => match u.src with | some a => u.srcScr || decide (a / 65536 ≠ p) | none => true)

/-- The NP bit of a page as a core's entry gives it; a page whose entry has gone since acceptance is judged at the landing (R230, R234). -/
def State.pageNp (s : State) (g c y : Nat) : Bool := match s.brandOf g c y with | some b => b.np | none => true
/-- The line parts of n bytes from an address: where each begins, and its length. -/
def lineParts : Nat → Nat → Nat → List (Nat × Nat)
  | 0, _, _ => []
  | f + 1, x, n => if n = 0 then [] else let k := min n (128 - x % 128); (x, k) :: lineParts f (x + k) (n - k)
/-- One line part of an engine's read: through the L2, with the pending bytes of a local copy (R243, R312). np: under an NP entry. -/
def State.engLine (s : State) (g c tid : Nat) (need : Need) (x n : Nat) : Except (Nat × Nat) (State × List Byte) :=
  let y := s.normal x
  let tag := s.tagFor g c y
  match s.barred tag y with
  | some e => .error (e, x)
  | none =>
    match (s.brandUse g c y).readLine g c tag y 4 tid (s.pageNp g c y) need false s.seq with
    | .error e => .error (e, x)
    | .ok (s', bs) => .ok (s', (bs.drop (y % 128)).take n)
/-- Read bytes for an engine of a core (R229, R243): need is what the landing asks under an NP entry. -/
def State.engRead (s : State) (g c tid : Nat) (need : Need) (x n : Nat) : Except (Nat × Nat) (State × List Byte) :=
  (lineParts (n + 1) x n).foldl (fun r p =>
    match r with
    | .error e => .error e
    | .ok (s, bs) => (match s.engLine g c tid need p.1 p.2 with | .error e => .error e | .ok (s', b) => .ok (s', bs ++ b))) (.ok (s, []))

/-- The bytes of a source with a poisoned line: a copy takes them without a fault (R431). -/
def State.poisonedRead (s : State) (c : Nat) (x n : Nat) : Except Nat (List Byte) :=
  (List.range n).foldl (fun (r : Except Nat (List Byte)) i =>
    match r, s.land c (s.normal (x + i)) false needNone with
    | .ok l, .ok h => .ok (l ++ s.peekN h.sp h.pa 1)
    | .ok _, .error e => .error e
    | .error e, _ => .error e) (.ok [])
/-- A write of the engine to global memory: a request of the command for each line. -/
def State.copyReq (s : State) (id : Nat) (c : Cpy) (acc lane x : Nat) (parked : Option Nat) (data mask : List Byte) (psn : Bool := false) : State :=
  let y := s.normal x
  let tag := s.tagFor c.g c.ctx y
  let np := s.pageNp c.g c.ctx y
  let r : Req :=
    { g := c.g, slot := c.slot, ctx := c.ctx, tag := tag, launch := c.launch, pkt := c.pkt, pslot := c.pslot, kind := .copy, acc := acc, scope := 0, rel := false,
      lanes := [{ rlane lane y data mask with parked := parked }], op := none, tid := c.tid, cmd := some id, team := none, ord := none, hdl := c.hdl, np := np, psn := psn }
  { s with reqs := s.reqs ++ [(s.seq, r)], seq := s.seq + 1 }
/-- Move one unit whose source bytes are known. -/
def State.copyUnit (s : State) (id : Nat) (c : Cpy) (u : Move) (bs : List Byte) (psn : Bool := false) : State :=
  let v := bits (ofBytes bs) u.srcBit u.nbits
  let nb := (u.dstBit + u.nbits + 7) / 8
  let data := toBytes nb (v * 2 ^ u.dstBit)
  let mask := if u.nbits % 8 = 0 ∧ u.dstBit = 0 then [] else toBytes nb ((2 ^ u.nbits - 1) * 2 ^ u.dstBit)
  if u.dstScr then s.scrPut c.launch c.g u.dst (mergeBytes (s.scrGet c.launch c.g u.dst nb) data mask)
  else
    let k := min nb (128 - u.dst % 128)
    let s := s.copyReq id c 7 u.lane u.dst none (data.take k) (mask.take k) psn
    if k = nb then s else s.copyReq id c 7 u.lane (u.dst + k) none (data.drop k) (mask.drop k) psn

/-- COPY_COMPLETE (R244): the engine moves one unit of a command; with no unit and no write left, it writes the completion word, unless an access faulted, and the command ends. -/
def execCopyComplete (id : Nat) (s : State) : Res :=
  match Store.find id s.cpys with
  | none => .next s
  | some c =>
    let total := (c.moves.map Move.units).foldl (· + ·) 0
    if total = 0 then
      if s.reqs.any fun r => decide (r.2.cmd = some id) then .next s
      else
        match c.word with
        | none => .next { s with cpys := s.cpys.del id }
        | some (a, v) =>
          if c.bad then .next { s with cpys := s.cpys.del id }
          else if s.locked c.launch c.g a (a + 4) then .next s
          else .next { s.scrPut c.launch c.g a (toBytes 4 v.toNat) with cpys := s.cpys.del id }
    else if s.cpys.any fun k => decide (k.1 < id ∧ k.2.g = c.g) && !k.2.begun && !k.2.moves.isEmpty then .next s
    else
      let s := { s with fresh := s.fresh + 1 }
      match nthUnit 0 (Config.pick s.fresh % total) c.moves with
      | none => .next s
      | some (_, _, u0) =>
        match firstUnit u0 0 c.moves with
        | none => .next s
        | some (i, j, u) =>
          if u.dstScr && s.locked c.launch c.g u.dst (u.dst + (u.dstBit + u.nbits + 7) / 8) then .next s
          else
            let n := (u.srcBit + u.nbits + 7) / 8
            let left (s : State) (ms : List Move) (bad : Bool) : State := { s with cpys := Store.put id { c with moves := ms, bad := c.bad || bad, begun := true } s.cpys }
            match u.src with
            | none => .next ((left s (takeUnit i j c.moves) false).copyUnit id c u (List.replicate n 0))
            | some a =>
              if u.srcScr then .next ((left s (takeUnit i j c.moves) false).copyUnit id c u (s.scrGet c.launch c.g a n))
              else
                match s.engRead c.g c.ctx c.tid needRd a n with
                | .ok (s', bs) => .next ((left s' (takeUnit i j c.moves) false).copyUnit id c u bs)
                | .error (e, x) =>
                  match (if e = 0x17 ∧ u.dstScr = false then s.poisonedRead c.ctx a n else .error e) with
                  | .ok bs => .next ((left s (takeUnit i j c.moves) false).copyUnit id c u bs true)
                  | .error e => .next ((left (s.learn c.g c.ctx (s.normal x) (s.pageNp c.g c.ctx (s.normal x))) (c.moves.flatMap (Move.outside (x / 65536))) true).copyReq id c 6 u.lane x (some e) [] [])

end Sys2Proof.Machine
end

