-- ==== Sys2Proof/Machine/Matrix.lean ====
section
/-! DEFINITION. The matrix engine: signing, acceptance, the bucker, batches, drains (08 R192 to R196, 12 R276 to R302). -/
namespace Sys2Proof.Machine

/-! Teams and their threads -/

/-- A stand wherever it is, by its name. -/
def State.standAny (s : State) (g slot : Nat) : Option Stand :=
  match s.stand (standKey g slot) with
  | some st => some st
  | none => (((s.outs.filter fun o => decide (o.g = g)).filterMap fun o => Store.find slot o.stands) ++ (s.returning.filter fun e => decide (e.1 = g ∧ e.2.1 = slot)).map (·.2.2)).head?
/-- The launch of a thread: a team's members may be of several launches of its context (R130). -/
def State.launchOf (s : State) (w : Who) : Nat := ((s.standAny w.1 w.2.1).map (·.launch)).getD 0
/-- A thread past the instruction it waited at. -/
def Thread.past (cyc : Nat) (t : Thread) : Thread :=
  if 3 ≤ t.w.next then { t.ready cyc with pc := t.pc + 1, slot := 0 } else { t.ready cyc with slot := t.w.next }
/-- A waiting thread goes on. -/
def State.proceed (s : State) (w : Who) : State :=
  match s.stand (standKey w.1 w.2.1) with
  | some st => let t := st.tw w.2.2; s.goOn (standKey w.1 w.2.1) (decide (32 ≤ w.2.2)) st.launch (w.2.2 % 32) t.pc t.w.next
  | none => s.onStandAny w.1 w.2.1 (s.launchOf w) fun st => st.onTw w.2.2 (Thread.past (s.cyc w.1))
/-- A delivery to a thread that waits, wherever its stand is. -/
def State.takeAny (s : State) (w : Who) (d : Delivery) : State :=
  match s.stand (standKey w.1 w.2.1) with
  | some st => s.take (standKey w.1 w.2.1) (decide (32 ≤ w.2.2)) st.launch d
  | none => s.onStandAny w.1 w.2.1 (s.launchOf w) fun st => { st.onTs false d.mask (Thread.park .delivery) with dl := st.dl ++ [d] }

/-! Operands (R282 to R284, R290) -/

/-- Bytes of an accumulator (R276). -/
def Team.accBytes (t : Team) : Nat := if t.accs ≤ 4 then 32768 else 16384
def accSize (ty : Nat) : Nat := if ty = 2 then 8 else 4
/-- Formats of the first and second row of R284. -/
def mxFp (fmt : Nat) : Bool := decide (fmt = 1 ∨ fmt = 2 ∨ (4 ≤ fmt ∧ fmt ≤ 7) ∨ fmt = 9 ∨ fmt = 10)
def mxInt (fmt : Nat) : Bool := decide (fmt = 6 ∨ fmt = 7 ∨ fmt = 9 ∨ fmt = 10)

/-- A cause with its address and access kind. -/
structure MCause where
  cause : Nat
  addr : Nat
  acc : Nat
  deriving DecidableEq, Repr
def mcause (c : Nat) : MCause := { cause := c, addr := 0, acc := 0 }

/-- Depth of an operand word. -/
def opK (w : Nat) : Nat := 8 * (bits w 12 3 + 1)
/-- The entry an operand word names, copied and checked (R280 item 1); a tile names none. -/
def State.wordEntry (s : State) (g c w : Nat) : Except MCause (Option (TEntry × Option TEntry)) :=
  if bits w 15 1 = 1 then .ok none
  else match s.entry g c (bits w 0 12) with
    | .ok p => .ok (some p)
    | .error (x, a) => .error { cause := x, addr := a, acc := 0 }
/-- The entries an accepted word names stay cached (R29). -/
def State.useWord (s : State) (g c w : Nat) : State :=
  match s.wordEntry g c w with
  | .ok (some (e, some _)) => (s.entryUse g c (bits w 0 12)).entryUse g c e.scid
  | .ok (some (_, none)) => s.entryUse g c (bits w 0 12)
  | .ok none => s
  | .error _ => s
/-- An operand word's own rules (R282, R283): the tile's record is that of the latest accepted TLD. -/
def Team.operand (t : Team) (w : Nat) (e : Option (TEntry × Option TEntry)) : Except MCause Operand :=
  match e with
  | some (x, sc) => if bits w 16 16 % 8 ≠ 0 then .error (mcause 0x04) else .ok (.tensor (bits w 0 12) x sc (opK w) (bits w 16 16))
  | none =>
    let i := bits w 0 3
    if bits w 3 9 ≠ 0 ∨ bits w 16 16 ≠ 0 then .error (mcause 0x04)
    else if t.tiles ≤ i then .error (mcause 0x20)
    else
      match t.tile[i]? with
      | none => .error (mcause 0x20)
      | some x => if x.k = opK w then .ok (.tile i x.r x.k x.fmt x.sb) else .error (mcause 0x04)

def Operand.k : Operand → Nat
  | .none => 0
  | .tensor _ _ _ k _ => k
  | .tile _ _ k _ _ => k
  | .latch k => k
/-- Rows an operand gives as A (TM) or as B (TN). -/
def Operand.rows (asB : Bool) : Operand → Nat
  | .none => 0
  | .tensor _ e _ _ _ => if asB then e.tn else e.tm
  | .tile _ r _ _ _ => r
  | .latch _ => 0
/-- Format and whether SB and GRP are 0. -/
def Operand.fmt : Operand → Nat
  | .none => 0
  | .tensor _ e _ _ _ => e.fmt
  | .tile _ _ _ f _ => f
  | .latch _ => 0
def Operand.plain : Operand → Bool
  | .none => true
  | .tensor _ e _ _ _ => decide (e.sb = 0 ∧ e.grp = 0)
  | .tile _ _ _ _ sb => decide (sb = 0)
  | .latch _ => true
def Operand.isTensor : Operand → Bool
  | .tensor _ _ _ _ _ => true
  | .tile _ _ _ _ _ => false
  | .latch _ => false
  | .none => false
/-- Do two operands suit an accumulator's type (R284)? latch: A is the latch. -/
def mxSuits (ty : Nat) (a b : Operand) (latch : Bool) : Bool :=
  if latch then decide (ty = 0) && mxFp b.fmt
  else if ty = 0 then mxFp a.fmt && mxFp b.fmt
  else if ty = 1 then mxInt a.fmt && mxInt b.fmt && a.plain && b.plain
  else decide (a.fmt = 3 ∧ b.fmt = 3)

/-- Addresses and lengths that rows of a tensor read along k, with the scale tensor's apart. -/
def TEntry.rowReads (t : TEntry) (koff k : Nat) (rows : List Nat) : List (Nat × Nat) :=
  rows.flatMap fun r => (List.range k).filterMap fun x =>
    let i := [koff + x, r, 0, 0]
    if t.inside i then (let p := t.elem i; some (p.1, p.2.2)) else none
def TEntry.scaleReads (t : TEntry) (sc : Option TEntry) (koff k : Nat) (rows : List Nat) : List (Nat × Nat) :=
  rows.flatMap fun r => (List.range k).filterMap fun x =>
    let i := [koff + x, r, 0, 0]
    if t.inside i then (scaleAddr t sc i).map fun a => (a, 2) else none
/-- Ranges in global space and in scratchpad that an operand reads. -/
def Operand.reads (rows : List Nat) : Operand → List (Bool × Nat × Nat)
  | .none => []
  | .tile _ _ _ _ _ => []
  | .latch _ => []
  | .tensor _ e sc k koff =>
    (e.rowReads koff k rows).map (fun p => (e.scr, p.1, p.2)) ++ (e.scaleReads sc koff k rows).map fun p => ((sc.map (·.scr)).getD false, p.1, p.2)

/-- A page's entry reaches the core if it is not there (R230), and the page is checked under steps 1 to 4 of R250. -/
def State.fillAt (s : State) (g c x : Nat) : State :=
  let x := s.normal x
  if region x ≠ 4 ∧ (s.brandOf g c x).isNone then s.brandPut g (s.brandFor c x) else s
def State.pageChk (s : State) (g c x acc : Nat) (n : Need) : Option MCause :=
  if s.rangeBad (s.partOf c) x || (s.bellOf c x).isSome then some { cause := 0x11, addr := x, acc := acc }
  else
    let y := s.normal x
    if region y = 4 then none
    else match s.brandOf g c y with
      | some b => if b.gives n then none else some { cause := 0x13, addr := x, acc := acc }
      | none => none
/-- The cause with the lowest address (R229). -/
def lowestCause : List MCause → Option MCause
  | [] => none
  | c :: t => some (t.foldl (fun b c => if c.addr < b.addr then c else b) c)
/-- Items 3 and 4 of R280: every page of the global ranges, then every scratchpad range against SCRATCH of the home core. -/
def State.rangesChk (s : State) (g c launch home acc : Nat) (n : Need) (rs : List (Bool × Nat × Nat)) : State × Option MCause :=
  let glob := distinctPages ((rs.filter fun r => !r.1).flatMap fun r => [r.2.1, r.2.1 + r.2.2 - 1])
  let s := (glob.filter fun x => !(s.rangeBad (s.partOf c) x)).foldl (fun s x => s.fillAt g c x) s
  let s := s.use g c (glob.filter fun x => !(s.rangeBad (s.partOf c) x))
  let bad := glob.filterMap fun x => s.pageChk g c x acc n
  let scr := (rs.filter fun r => r.1 && decide (s.scrSize launch home < r.2.1 + r.2.2)).map fun r => { cause := 0x12, addr := r.2.1, acc := acc : MCause }
  (s, (lowestCause bad).or (lowestCause scr))
/-- The read lock of a list of scratchpad reads. -/
def lockOf (batch : Nat) (rs : List (Nat × Nat)) : List Lock :=
  match rs with
  | [] => []
  | r :: t => [{ lo := t.foldl (fun m x => min m x.1) r.1, hi := t.foldl (fun m x => max m (x.1 + x.2)) (r.1 + r.2), batch := batch }]
def Operand.locks (batch : Nat) (rows : List Nat) : Operand → List Lock
  | .none => []
  | .tile _ _ _ _ _ => []
  | .latch _ => []
  | .tensor _ e sc k koff =>
    if e.scr then
      lockOf batch (e.rowReads koff k rows) ++ (match sc with | some u => if u.scr then lockOf batch (e.scaleReads sc koff k rows) else [] | Option.none => [])
    else []

/-! Acceptance (R280, R281) -/

/-- What acceptance answers. -/
inductive Judged where
  | wait
  | bad (s : State) (c : MCause)
  | ok (s : State) (t : Team) (op : Option MOp) (locks : List Lock)

/-- An operation before its operands are filled in. -/
def blankOp (t : Team) (w : Who) (pkt pslot : Nat) (form i : Nat) : MOp :=
  { form := form, i := i, a := .none, b := .none, m := 0, n := 0, ty := 0, roff := 0, idx := [], rnd := 0, ord := none, batch := t.openB.id, next := 0, bad := none,
    g := w.1, slot := w.2.1, lane := w.2.2, pkt := pkt, pslot := pslot, fl := [], signers := [] }

/-- The last signer as acceptance sees it: its name, its stand as its code sees it (R360), its thread, its launch. -/
structure Signer where
  w : Who
  st : Stand
  t : Thread
  l : Launch
  pkt : Nat
  deriving DecidableEq, Repr

/-- MMA, MMAG: the operands' rules and ranges. -/
def State.judgeMma (s : State) (t : Team) (x : Signer) (i wa wb : Nat) (latch : Bool) : Judged :=
  let g := x.w.1
  let c := x.l.ctx
  match (if latch then .ok none else s.wordEntry g c wa), s.wordEntry g c wb with
  | .error e, _ => .bad s e
  | .ok _, .error e => .bad s e
  | .ok ea, .ok eb =>
    match (if latch then .ok (Operand.latch (opK wb)) else t.operand wa ea), t.operand wb eb with
    | .error e, _ => .bad s e
    | .ok _, .error e => .bad s e
    | .ok a, .ok b =>
      let acc := t.acc.getD i { m := 0, n := 0, ty := 0, el := [] }
      let m := if latch then 16 * (bits wa 0 3 + 1) else a.rows false
      let n := b.rows true
      if (latch && (decide (bits wa 3 29 ≠ 0) || (List.range ((m + 31) / 32)).any fun r => decide (t.depth.getD r 0 ≠ b.k)))
          || decide (m ≠ acc.m ∨ n ≠ acc.n ∨ a.k ≠ b.k) || !(mxSuits acc.ty a b latch) then .bad s (mcause 0x04)
      else
        match s.rangesChk g c t.launch t.home 8 needMx (a.reads (List.range m) ++ b.reads (List.range n)) with
        | (s, some e) => .bad s e
        | (s, none) =>
          .ok ((if latch then s else s.useWord g c wa).useWord g c wb) { t with openB := { t.openB with targets := t.openB.targets ++ [i] } }
            (some { blankOp t x.w x.pkt x.t.slot (if latch then 1 else 0) i with a := a, b := b, m := m, n := n, ty := acc.ty })
            (a.locks t.openB.id (List.range m) ++ b.locks t.openB.id (List.range n))

/-- MZERO (R297). -/
def State.judgeMzero (s : State) (t : Team) (x : Signer) (i w : Nat) : Judged :=
  let m := 16 * (bits w 0 3 + 1)
  let n := 16 * (bits w 3 3 + 1)
  let ty := bits w 6 2
  if bits w 8 24 ≠ 0 ∨ ty = 3 ∨ t.accBytes < m * n * accSize ty then .bad s (mcause 0x04)
  else .ok s { t with openB := { t.openB with targets := t.openB.targets ++ [i] }, acc := t.acc.modify i fun a => { a with m := m, n := n, ty := ty } }
    (some { blankOp t x.w x.pkt x.t.slot 2 i with m := m, n := n, ty := ty }) []

/-- GATH (R298): the index vector is read at acceptance. -/
def State.judgeGath (s : State) (t : Team) (x : Signer) (grp va w : Nat) : Judged :=
  match s.wordEntry x.w.1 x.l.ctx w with
  | .error e => .bad s e
  | .ok e =>
    match t.operand w e with
    | .error e => .bad s e
    | .ok o =>
      if !o.isTensor || !(mxFp o.fmt) then .bad s (mcause 0x04)
      else
        let idx := lanes32.map fun l => x.st.rv va l
        match s.rangesChk x.w.1 x.l.ctx t.launch t.home 8 needMx (o.reads (idx.map (·.toNat))) with
        | (s, some e) => .bad s e
        | (s, none) =>
          .ok (s.useWord x.w.1 x.l.ctx w) { t with depth := t.depth.set grp o.k } (some { blankOp t x.w x.pkt x.t.slot 3 grp with a := o, idx := idx }) (o.locks t.openB.id (idx.map (·.toNat)))

/-- TLD (R299): the tile's record is set at acceptance, its elements when it runs. -/
def State.judgeTld (s : State) (t : Team) (x : Signer) (i w rw : Nat) : Judged :=
  match s.wordEntry x.w.1 x.l.ctx w with
  | .error e => .bad s e
  | .ok e =>
    match t.operand w e with
    | .error e => .bad s e
    | .ok o =>
      let grp := match e with | some (y, _) => y.grp | none => 0
      let sb := match e with | some (y, _) => y.sb | none => 0
      if !o.isTensor || !(mxFp o.fmt) || decide (grp ≠ 0) || decide (bits rw 3 13 ≠ 0) then .bad s (mcause 0x04)
      else
        let r := 16 * (bits rw 0 3 + 1)
        let roff := bits rw 16 16
        let rows := (List.range r).map (roff + ·)
        match s.rangesChk x.w.1 x.l.ctx t.launch t.home 8 needMx (o.reads rows) with
        | (s, some e) => .bad s e
        | (s, none) =>
          .ok (s.useWord x.w.1 x.l.ctx w) { t with tile := t.tile.modify i fun y => { y with r := r, k := o.k, fmt := o.fmt, sb := sb } } (some { blankOp t x.w x.pkt x.t.slot 4 i with a := o, m := r, roff := roff })
            (o.locks t.openB.id rows)

/-- Elements (i, j) of a drain that lie in the destination's extents: with the element's place. -/
def drainElems (d : TEntry) (m n : Nat) : List (Nat × Nat × (Nat × Nat × Nat)) :=
  (List.range m).flatMap fun i => (List.range n).filterMap fun j => if d.inside [j, i, 0, 0] then some (i, j, d.elem [j, i, 0, 0]) else none

/-- MDRAIN, MDRAINA (R292 to R294). An ordered drain to another region than 0 and 4 takes the operand-range cause of R294, an unordered one the range cause of R240's table (log 105). -/
def State.judgeDrain (s : State) (t : Team) (x : Signer) (add : Bool) (q i wd mode : Nat) : Judged :=
  match s.entry x.w.1 x.l.ctx (bits wd 0 12) with
  | .error (c, a) => .bad s { cause := c, addr := a, acc := 0 }
  | .ok (d, _) =>
    let acc := t.acc.getD i { m := 0, n := 0, ty := 0, el := [] }
    let base := s.normal d.base
    let ordered := decide (q = 1)
    let fits := if acc.ty = 0 then decide (d.fmt < 3) else if acc.ty = 1 then decide (d.fmt = 8) else decide (d.fmt = 3)
    if bits wd 12 20 ≠ 0 ∨ 5 ≤ bits mode 0 3 ∨ bits mode 4 12 ≠ 0 ∨ (ordered = false ∧ (bits mode 3 1 ≠ 0 ∨ bits mode 16 16 ≠ 0)) ∨ d.grp ≠ 0
        ∨ (add ∧ (d.sb ≠ 0 ∨ fits = false)) ∨ (add ∧ ordered ∧ (d.scr ∨ (region base ≠ 0 ∧ region base ≠ 4))) then .bad s (mcause 0x04)
    else if add ∧ d.scr = false ∧ region base ≠ 0 ∧ region base ≠ 4 then .bad s { cause := 0x11, addr := d.base, acc := 9 }
    else
      match s.rangesChk x.w.1 x.l.ctx t.launch t.home 9 needMxW ((drainElems d acc.m acc.n).map fun y => (d.scr, y.2.2.1, y.2.2.2.2)) with
      | (s, some e) => .bad s e
      | (s, none) =>
        .ok (s.useWord x.w.1 x.l.ctx (bits wd 0 12)) { t with openB := { t.openB with targets := t.openB.targets ++ [i] } }
          (some { blankOp t x.w x.pkt x.t.slot (if add then 6 else 5) i with
            a := .tensor (bits wd 0 12) d Option.none 0 0, m := acc.m, n := acc.n, ty := acc.ty, rnd := bits mode 0 3,
            ord := if ordered then some (bits mode 16 16, decide (bits mode 3 1 = 1)) else none }) []

/-- MCOMMIT: the open batch is committed; a full list of batches makes it wait (R287), as a full queue does every acceptance (R281). -/
def State.judgeCommit (s : State) (t : Team) : Judged :=
  if 4 ≤ t.batches.length then .wait
  else .ok { s with seq := s.seq + 1 } { t with batches := t.batches ++ [t.openB], openB := { id := s.seq, left := 0, targets := [], faults := [] } } none []

/-- The operation a signature stands for, judged with the last signer's operands. -/
def State.judge (s : State) (t : Team) (x : Signer) (sig : List W) : Judged :=
  let full := decide (16 ≤ t.queue.length)
  let v (b : XSrc) : Nat := (x.st.xsrc b).toNat
  match decode sig with
  | some (.mma y, _) => if full then .wait else s.judgeMma t x y.i (v y.a) (v y.b) false
  | some (.mmag y, _) => if full then .wait else s.judgeMma t x y.i (v y.a) (v y.b) true
  | some (.mzero y, _) => if full then .wait else s.judgeMzero t x y.i (v y.a)
  | some (.gath y, _) => if full then .wait else s.judgeGath t x y.i y.a (v y.b)
  | some (.tld y, _) => if full then .wait else s.judgeTld t x y.i (v y.a) (v y.b)
  | some (.mdrain y, _) => if full then .wait else s.judgeDrain t x false 0 y.i (v y.a) (v y.b)
  | some (.mdraina y, _) => if full then .wait else s.judgeDrain t x true y.q y.i (v y.a) (v y.b)
  | some (.mcommit _, _) => if full then .wait else s.judgeCommit t
  | some _ => .wait
  | none => .wait

/-- The flags the signers of a counted form hold up. -/
def State.signFlags (s : State) (ws : List Who) : List (Nat × Nat × Nat × Nat) :=
  ws.filterMap fun w => match s.standAny w.1 w.2.1 with
    | some st => (let f := (st.tw w.2.2).w.d; if f < 12 then some (w.1, w.2.1, w.2.2, f) else none)
    | none => none
/-- An idle register; an open one has a signature, whether a signer is left or not (R278 to R280). -/
def Cv.idle : Cv := { sig := [], count := 0, signers := [] }

/-- Try the acceptance of a convergence register whose count has reached the declared size (R279, R280). -/
def State.tryAccept (s : State) (tid cv : Nat) : State :=
  match s.team tid with
  | none => s
  | some t =>
    let y := t.cv.getD cv Cv.idle
    match y.signers.getLast? with
    | none => s
    | some w =>
      if y.count < t.size then s
      else
        match s.standAny w.1 w.2.1, s.launch (s.launchOf w) with
        | some st, some l =>
          let th := st.tw w.2.2
          (match s.judge t { w := w, st := st.seen (decide (32 ≤ w.2.2)), t := th, l := l, pkt := l.pkt th.pc } y.sig with
            | .wait => s
            | .bad s c =>
              let s := { s with fresh := s.fresh + 1 }
              let s := s.onTeam tid fun t => { t with cv := t.cv.set cv { y with count := y.count - 1, signers := y.signers.dropLast } }
              let s := if th.w.d < 12 then s.onStandAny w.1 w.2.1 st.launch (fun st => st.onTw w.2.2 fun t => t.flagDown (s.cyc w.1) t.w.d) else s
              s.takeAny w { cause := c.cause, kind := 0, acc := c.acc, ghost := false, lanes := [{ lane := w.2.2 % 32, pkt := l.pkt th.pc, slot := th.slot, addr := BitVec.ofNat 64 c.addr, retPc := th.pc, retSlot := th.slot }] }
            | .ok s t' op locks =>
              let s := { s with fresh := s.fresh + 1 }
              let fl := s.signFlags y.signers
              let t2 := { t' with cv := t'.cv.set cv Cv.idle, locks := t'.locks ++ locks }
              let t3 := match op with
                | some o => { t2 with queue := t2.queue ++ [{ o with fl := fl, signers := y.signers }], openB := { t2.openB with left := t2.openB.left + 1 } }
                | none => t2
              y.signers.foldl (fun s w => s.proceed w) { s with teams := Store.put tid t3 s.teams })
        | _, _ => s
/-- Retry the acceptances that wait. -/
def State.reAccept (s : State) (tid : Nat) : State := (List.range 8).foldl (fun s cv => s.tryAccept tid cv) s

/-! Signing (R278, R279) -/

/-- The signature of the executing instruction: its word without the chain bit, then its literals. -/
def Env.sig (e : Env) : List W :=
  match (e.sq.ws.drop e.sq.k).take (e.next - e.sq.k) with
  | [] => []
  | w :: t => (w &&& 0x7FFFFFFF) :: t
/-- One participant signs; or the cause it raises. -/
def State.signLane (s : State) (e : Env) (cv : Nat) (commit counted : Bool) (l : Nat) : State × List Raise :=
  let bad (c : Nat) : State × List Raise := (s, [{ lane := l, cause := c, addr := 0 }])
  match e.team l with
  | none => bad 0x23
  | some tid =>
    match s.team tid with
    | none => bad 0x23
    | some t =>
      let y0 := t.cv.getD cv Cv.idle
      let y := if y0.sig = [] then { Cv.idle with sig := e.sig } else y0
      if y.sig ≠ e.sig then bad 0x24
      else if commit && decide (4 ≤ t.batches.length) then (s.onTeam tid fun t => { t with cv := t.cv.set cv y }, (bad 0x25).2)
      else
        let f := if counted then e.flag else 15
        let up (t : Thread) : Thread := if counted then t.flagUp f else t
        let s := s.onTeam tid fun t => { t with cv := t.cv.set cv { sig := e.sig, count := y.count + 1, signers := y.signers ++ [e.who l] } }
        let s := s.parkAt e (bit l) .sign fun _ t => { up t with w := { t.w with d := f, next := e.next } }
        (s.tryAccept tid cv, [])
/-- A signed form: the participants of the squad sign in ascending lanes (R175). A scratchpad operation of a signer is performed first (R281). -/
def signOp (i : Instr) (cv : Nat) (commit counted : Bool) (s : State) : Res :=
  if s.envs.any s.scrBusy then .next s.again
  else .next (s.onLanes i 0 fun e l s => s.signLane e cv commit counted l)

def execMma (x : XM) (s : State) : Res := signOp (.mma x) x.cv false false s
def execMmag (x : XM) (s : State) : Res := signOp (.mmag x) x.cv false false s
def execMzero (x : XMA) (s : State) : Res := signOp (.mzero x) x.cv false false s
def execGath (x : XMV) (s : State) : Res := signOp (.gath x) x.cv false true s
def execTld (x : XM) (s : State) : Res := signOp (.tld x) x.cv false true s
def execMcommit (x : XCV) (s : State) : Res := signOp (.mcommit x) x.cv true false s
def execMdrain (x : XM) (s : State) : Res := signOp (.mdrain x) x.cv false false s
def execMdraina (x : XMQ) (s : State) : Res := signOp (.mdraina x) x.cv false false s

/-! Batches (R287 to R291) -/

/-- The faults of a batch: a suspended operation's, a parked write's of the running drain, those kept of completed drains. -/
def State.batchFaults (s : State) (tid : Nat) (t : Team) (b : Nat) : List BFault :=
  let susp := (t.queue.filter fun o => decide (o.batch = b)).filterMap (·.bad)
  let parked := match t.queue with
    | o :: _ =>
      if o.batch = b then
        ((s.reqs.filter fun r => decide (r.2.team = some tid)).filterMap fun r => (r.2.open_.filterMap fun a => a.parked.map fun c => { cause := c, addr := a.addr, acc := 9, pkt := o.pkt, pslot := o.pslot, told := [] : BFault }).head?)
      else []
    | [] => []
  susp ++ parked ++ ((t.openB :: t.batches).filter fun x => decide (x.id = b)).flatMap (·.faults)
/-- The first fault of a batch. -/
def State.batchFault (s : State) (tid : Nat) (t : Team) (b : Nat) : Option BFault := (s.batchFaults tid t b).head?
def Batch.forgive (w : Who) (b : Batch) : Batch := { b with faults := b.faults.filter fun f => !(f.told.contains w) }
/-- A thread that has been told of a fault executes its wait again: the operation is retried, a completed drain's fault is spent. -/
def Team.forgive (t : Team) (w : Who) (bs : List Nat) : Team :=
  { t with
    queue := t.queue.map fun o => if bs.contains o.batch && (match o.bad with | some f => f.told.contains w | none => false) then { o with bad := none } else o
    openB := if bs.contains t.openB.id then t.openB.forgive w else t.openB
    batches := t.batches.map fun b => if bs.contains b.id then b.forgive w else b }
/-- Note who has been told of a fault: of one that stands in a list once or more, the first. -/
def BFault.tell (ws : List Who) (f : BFault) : BFault := { f with told := f.told ++ ws }
def tellFirst (ws : List Who) (f : BFault) : List BFault → List BFault
  | [] => []
  | x :: t => if x = f then x.tell ws :: t else x :: tellFirst ws f t
def Team.tell (t : Team) (ws : List Who) (b : Nat) (f : BFault) : Team :=
  { t with
    queue := t.queue.map fun o => if o.batch = b ∧ o.bad = some f then { o with bad := some (f.tell ws) } else o
    openB := if t.openB.id = b then { t.openB with faults := tellFirst ws f t.openB.faults } else t.openB
    batches := t.batches.map fun x => if x.id = b then { x with faults := tellFirst ws f x.faults } else x }
def Team.waited (t : Team) (bs : List Nat) : Team :=
  { t with batches := t.batches.filter fun b => !(bs.contains b.id), locks := t.locks.filter fun k => !(bs.contains k.batch) }

/-- What a wait for batches finds. -/
inductive Waited where
  | go
  | wait
  | fault (b : Nat) (f : BFault)
  deriving DecidableEq, Repr
def State.waitFor (s : State) (tid : Nat) (t : Team) (bs : List Nat) : Waited :=
  let mine := t.batches.filter fun b => bs.contains b.id
  if mine.any fun b => decide (b.left ≠ 0) && (s.batchFault tid t b.id).isNone then .wait
  else match (mine.filterMap fun b => (s.batchFault tid t b.id).map fun f => (b.id, f)).head? with
    | some (b, f) => .fault b f
    | none => .go
/-- A batch fault as a delivery to lanes of a stand (R291). -/
def BFault.delivery (f : BFault) (lanes : List (Nat × BitVec 52 × Nat)) : Delivery :=
  { cause := f.cause, kind := 1, acc := f.acc, ghost := false, lanes := lanes.map fun x => { lane := x.1, pkt := f.pkt, slot := f.pslot, addr := BitVec.ofNat 64 f.addr, retPc := x.2.1, retSlot := x.2.2 } }

/-- MWAITB of one participant (R288): it marks its batches, or parks until BATCH_COMPLETE finds them complete or faulted. -/
def State.mwaitbLane (s : State) (e : Env) (n l : Nat) : State × List Raise :=
  match (e.team l).bind fun tid => (s.team tid).map fun t => (tid, t) with
  | none => (s, [{ lane := l, cause := 0x23, addr := 0 }])
  | some (tid, t0) =>
    let c := t0.batches.length
    if c ≤ n then (s, [])
    else
      let bs := (t0.batches.take (c - n)).map (·.id)
      let t := t0.forgive (e.who l) bs
      let s := { s with teams := Store.put tid t s.teams }
      let park := (s.parkAt e (bit l) .mwaitb fun _ t => { t with w := { t.w with a := bs.foldl max 0, next := e.next } }, ([] : List Raise))
      match s.waitFor tid t bs with
      | .go => (({ s with teams := Store.put tid (t.waited bs) s.teams } : State).reAccept tid, [])
      | .wait => park
      | .fault _ _ => park
/-- Distinct entries of a list, in order. -/
def distinct {α : Type} [DecidableEq α] (xs : List α) : List α := xs.foldl (fun a x => if a.contains x then a else a ++ [x]) []
/-- Deliver batch faults found by lanes of one stand (team, batch, fault, lane), one delivery for each batch, and note who was told. -/
def State.tellAll (s : State) (g slot launch : Nat) (at_ : Nat → BitVec 52 × Nat) (xs : List (Nat × Nat × BFault × Nat)) : State :=
  (distinct (xs.map fun x => (x.1, x.2.1))).foldl (fun s k =>
    let mine := xs.filter fun x => decide (x.1 = k.1 ∧ x.2.1 = k.2)
    match mine with
    | [] => s
    | x :: _ =>
      (s.onTeam k.1 fun t => t.tell (mine.map fun y => (g, slot, y.2.2.2)) k.2 x.2.2.1).take (standKey g slot) (decide (32 ≤ x.2.2.2)) launch
        (x.2.2.1.delivery (mine.map fun y => (y.2.2.2 % 32, at_ y.2.2.2)))) s

/-- MWAITB (R288), by ascending lanes of the squad (R175). -/
def execMwaitb (x : XN) (s : State) : Res := .next (s.onLanes (.mwaitb x) 0 fun e l s => s.mwaitbLane e x.n l)

end Sys2Proof.Machine
end

