-- ==== Sys2Proof/Machine/Engine.lean ====
section
/-! DEFINITION. The bucker at work: k-slices, gathers, tile loads, drains, ordered split-K, and access to accumulators (08 R192 to R196, 12 R285 to R301). -/
namespace Sys2Proof.Machine

/-- Do something for every item of a list, or stop at the first fault (cause, address). -/
def mapE {α β : Type} (f : State → α → Except (Nat × Nat) (State × β)) : State → List α → Except (Nat × Nat) (State × List β)
  | s, [] => .ok (s, [])
  | s, x :: t =>
    match f s x with
    | .error e => .error e
    | .ok (s1, y) => (match mapE f s1 t with | .error e => .error e | .ok (s2, ys) => .ok (s2, y :: ys))

/-- The raw bits of an element for a team's engine: the home core's scratchpad, or through the L2 under the entries of core g, that of the operation's last signer (R280, R291). -/
def State.elemRaw (s : State) (t : Team) (g id : Nat) (e : TEntry) (i : List Nat) : Except (Nat × Nat) (State × Nat) :=
  let p := e.elem i
  if e.scr then .ok (s, bits (ofBytes (s.scrGet t.launch t.home p.1 p.2.2)) p.2.1 (fmtBits e.fmt))
  else match s.engRead g t.ctx id needMx p.1 p.2.2 with
    | .error x => .error x
    | .ok (s', b) => .ok (s', bits (ofBytes b) p.2.1 (fmtBits e.fmt))
/-- The format operands decode into (R192). -/
def opBin (fmt : Nat) : Bin := if fmt = 3 then fp64 else fp32
/-- A decoded element (R192, R283): +0 outside the extents; ints: as an exact integer (R194). -/
def State.elemVal (s : State) (t : Team) (g : Nat) (ints : Bool) (id : Nat) (e : TEntry) (sc : Option TEntry) (i : List Nat) : Except (Nat × Nat) (State × Num) :=
  if !(e.inside i) then .ok (s, .fin false 0 0)
  else
    match s.elemRaw t g id e i with
    | .error x => .error x
    | .ok (s1, raw) =>
      if ints then .ok (s1, valF e.fmt raw)
      else
        match sc with
        | none => .ok (s1, (opBin e.fmt).val (decodeElem e.fmt raw e.sb none))
        | some u =>
          match s1.elemRaw t g e.scid u ((i.getD 0 0 / grpSize e.grp) :: i.drop 1) with
          | .error x => .error x
          | .ok (s2, w) => .ok (s2, (opBin e.fmt).val (decodeElem e.fmt raw e.sb (some (w, u.sb))))
/-- An operand's value in row r at depth k. -/
def State.operandAt (s : State) (t : Team) (g : Nat) (ints : Bool) (o : Operand) (r k : Nat) : Except (Nat × Nat) (State × Num) :=
  match o with
  | .none => .ok (s, .fin false 0 0)
  | .tensor id e sc _ koff => s.elemVal t g ints id e sc [koff + k, r, 0, 0]
  | .tile i _ kk fmt sb =>
    let raw := ((t.tile[i]?.map (·.el)).getD []).getD (r * kk + k) 0
    .ok (s, if ints then valF fmt raw else (opBin fmt).val (decodeElem fmt raw sb Option.none))
  | .latch _ => .ok (s, fp32.val ((t.latch.getD r []).getD k 0).toNat)
/-- Eight values along k of each of a number of rows. -/
def State.sliceOf (s : State) (t : Team) (g : Nat) (ints : Bool) (o : Operand) (rows k0 : Nat) : Except (Nat × Nat) (State × List (List Num)) :=
  mapE (fun s r => mapE (fun s k => s.operandAt t g ints o r (k0 + k)) s (List.range 8)) s (List.range rows)

/-- One group of R193 or R194 on an accumulator element. -/
def macc (ty c : Nat) (a b : List Num) : Nat :=
  if ty = 1 then toPat (sx c 32 + ((a.zip b).map fun p => p.1.units 0 * p.2.units 0).foldl (· + ·) 0) 32
  else
    let f := if ty = 2 then fp64 else fp32
    (fadd f c (fusedSum f .rne (a.zip b) []).1).1
/-- An accumulator after one k-slice. -/
def sliceSum (ty m n : Nat) (el : List Nat) (a b : List (List Num)) : List Nat :=
  (List.range m).flatMap fun i => (List.range n).map fun j => macc ty (el.getD (i * n + j) 0) (a.getD i []) (b.getD j [])

/-- A batch counts an operation that has completed, with the fault the operation kept (R287, R294). -/
def Batch.less (op : MOp) (b : Batch) : Batch := { b with left := b.left - 1, faults := b.faults ++ op.split.toList }
/-- The operation at the head of a team's queue has completed (R287, R295): it leaves, its batch counts it, its signers' flags fall. -/
def State.opDone (s : State) (tid : Nat) (op : MOp) : State :=
  let s := op.fl.foldl (fun s w => s.onStandAny w.1 w.2.1 (s.launchOf (w.1, w.2.1, w.2.2.1)) fun st => st.onTw w.2.2.1 fun t => t.flagDown (s.cyc w.1) w.2.2.2) s
  let s := s.onTeam tid fun t => { t with
    queue := t.queue.tail
    openB := if t.openB.id = op.batch then t.openB.less op else t.openB
    batches := t.batches.map fun b => if b.id = op.batch then b.less op else b }
  s.reAccept tid

/-! Drains (R292, R293) -/

/-- The bytes an MDRAIN writes: address, data, mask. -/
def drainBytes (d : TEntry) (op : MOp) (el : List Nat) : List (Nat × Byte × Byte) :=
  (drainElems d op.m op.n).flatMap fun x =>
    let v := (roundF d.fmt (rndOf op.rnd) ((valF (accFmt op.ty) (el.getD (x.1 * op.n + x.2.1) 0)).scale (-d.sb))).1 % 2 ^ fmtBits d.fmt
    let w := v * 2 ^ x.2.2.2.1
    let k := (2 ^ fmtBits d.fmt - 1) * 2 ^ x.2.2.2.1
    (List.range x.2.2.2.2).filterMap fun b => if bits k (8 * b) 8 = 0 then none else some (x.2.2.1 + b, BitVec.ofNat 8 (bits w (8 * b) 8), BitVec.ofNat 8 (bits k (8 * b) 8))
/-- The elements an MDRAINA adds: address, accumulator element. -/
def drainAdds (d : TEntry) (op : MOp) (el : List Nat) : List (Nat × Nat) :=
  (drainElems d op.m op.n).map fun x => (x.2.2.1, el.getD (x.1 * op.n + x.2.1) 0)
/-- The bytes of one line and their masks. -/
def lineBytes (ln : Nat) (bs : List (Nat × Byte × Byte)) : List Byte × List Byte :=
  bs.foldl (fun p b =>
    if lineOf b.1 = ln then
      let o := b.1 % 128
      (p.1.set o ((p.1.getD o 0 &&& ~~~b.2.2) ||| (b.2.1 &&& b.2.2)), p.2.set o (p.2.getD o 0 ||| b.2.2))
    else p) (List.replicate 128 0, List.replicate 128 0)
/-- The line part of one line. -/
def linePart (ln : Nat) (xs : List (Nat × Nat)) : List Byte :=
  (xs.filter fun x => decide (lineOf x.1 = ln)).flatMap fun x => BitVec.ofNat 8 (x.1 % 128) :: toBytes 8 x.2

/-- Does another team hold a read lock on a range of a drain (R290)? -/
def State.lockedFor (s : State) (tid : Nat) (t : Team) (a : Nat) : Bool :=
  s.teams.any fun u => decide (u.1 ≠ tid ∧ u.2.home = t.home ∧ u.2.launch = t.launch) && u.2.locks.any fun k => decide (k.lo ≤ a ∧ a < k.hi)

/-- The lines a drain writes, in order. -/
def State.drainLines (s : State) (d : TEntry) (op : MOp) : List Nat := linesOf ((drainElems d op.m op.n).flatMap fun x => [s.normal x.2.2.1, s.normal (x.2.2.1 + x.2.2.2.2 - 1)])
/-- A drain to scratchpad, whole. -/
def State.drainScr (s : State) (t : Team) (d : TEntry) (op : MOp) (el : List Nat) : State :=
  if op.form = 6 then
    (drainAdds d op el).foldl (fun s x =>
      let n := fmtBits d.fmt / 8
      s.scrPut t.launch t.home x.1 (toBytes n (addElem d.fmt (rndOf op.rnd) op.ty (ofBytes (s.scrGet t.launch t.home x.1 n)) x.2))) s
  else (drainBytes d op el).foldl (fun s b => s.scrPut t.launch t.home b.1 (mergeBytes (s.scrGet t.launch t.home b.1 1) [b.2.1] [b.2.2])) s
/-- The next line of a drain leaves for its home slice with a skid entry, which carries the last signer's coordinates and position (R292); its page's entry is that of the last signer's core, which the acceptance checked. -/
def State.drainSend (s : State) (tid : Nat) (t : Team) (id : Nat) (d : TEntry) (op : MOp) (el : List Nat) (ln : Nat) : State :=
  let x := 128 * ln
  let p : List Byte × List Byte :=
    if op.form = 6 then (linePart ln ((drainAdds d op el).map fun y => (s.normal y.1, y.2)), [])
    else lineBytes ln ((drainBytes d op el).map fun b => (s.normal b.1, b.2))
  let r : Req :=
    { g := op.g, slot := op.slot, ctx := t.ctx, tag := s.tagFor op.g t.ctx x, launch := t.launch, pkt := op.pkt, pslot := op.pslot,
      kind := if op.form = 6 then .drainAdd d.fmt op.rnd op.ty else .drain, acc := 9, scope := 0, rel := false, lanes := [rlane (op.lane % 32) x p.1 p.2],
      op := none, tid := id, cmd := none, team := some tid, ord := op.ord, hdl := false, np := s.pageNp op.g t.ctx x }
  { s with reqs := s.reqs ++ [(s.seq, r)], seq := s.seq + 1 }

/-! One step of the engine -/

def Team.setEl (t : Team) (i : Nat) (el : List Nat) : Team := { t with acc := t.acc.modify i fun a => { a with el := el } }
def Team.headNext (t : Team) (n : Nat) : Team := { t with queue := match t.queue with | o :: q => { o with next := n } :: q | [] => [] }
def Team.elOf (t : Team) (i : Nat) : List Nat := (t.acc[i]?.map (·.el)).getD []

/-- A drain's next step: all of a scratchpad target, or the next line; complete when every line is settled. -/
def State.drainStep (s : State) (tid : Nat) (t : Team) (op : MOp) : State :=
  match op.a with
  | .tensor id d _ _ _ =>
    let el := t.elOf op.i
    if d.scr then
      (if (drainElems d op.m op.n).any fun x => (List.range x.2.2.2.2).any fun b => s.lockedFor tid t (x.2.2.1 + b) then s
       else (s.drainScr t d op el).opDone tid op)
    else
      match (s.drainLines d op)[op.next]? with
      | some ln => if s.skidUsed t.home < 256 then (s.drainSend tid t id d op el ln).onTeam tid fun t => t.headNext (op.next + 1) else s
      | none => if s.reqs.any fun r => decide (r.2.team = some tid) then s else s.opDone tid op
  | .none => s.opDone tid op
  | .tile _ _ _ _ _ => s.opDone tid op
  | .latch _ => s.opDone tid op

/-- The next step of an operation, or the landing fault that suspends it. -/
def State.engineStep (s : State) (tid : Nat) (t : Team) (op : MOp) : Except (Nat × Nat) State :=
  match op.form with
  | 2 => .ok ((s.onTeam tid fun t => t.setEl op.i (List.replicate (op.m * op.n) 0)).opDone tid op)
  | 3 =>
    (match op.a with
      | .tensor id e sc k koff =>
        (match mapE (fun s l => mapE (fun s x => let v := (op.idx.getD l 0).toNat; s.elemVal t op.g false id e sc [koff + x, v, 0, 0]) s (List.range k)) s (List.range 32) with
          | .error x => .error x
          | .ok (s, rows) =>
            let put (la : List (List W)) (l : Nat) : List (List W) := la.set (32 * op.i + l) ((rows.getD l []).map fun v => BitVec.ofNat 32 (fp32.round .rne v).1)
            .ok ((s.onTeam tid fun t => { t with latch := lanes32.foldl put t.latch }).opDone tid op))
      | .none => .ok (s.opDone tid op)
      | .tile _ _ _ _ _ => .ok (s.opDone tid op)
      | .latch _ => .ok (s.opDone tid op))
  | 4 =>
    (match op.a with
      | .tensor id e _ k koff =>
        (match mapE (fun s r => mapE (fun s x => let i := [koff + x, op.roff + r, 0, 0]; if e.inside i then s.elemRaw t op.g id e i else .ok (s, 0)) s (List.range k)) s (List.range op.m) with
          | .error x => .error x
          | .ok (s, rows) => .ok ((s.onTeam tid fun t => { t with tile := t.tile.modify op.i fun y => { y with el := rows.flatten } }).opDone tid op))
      | .none => .ok (s.opDone tid op)
      | .tile _ _ _ _ _ => .ok (s.opDone tid op)
      | .latch _ => .ok (s.opDone tid op))
  | 5 => .ok (s.drainStep tid t op)
  | 6 => .ok (s.drainStep tid t op)
  | _ =>
    if op.b.k ≤ 8 * op.next then .ok (s.opDone tid op)
    else
      let ints := decide (op.ty = 1)
      match s.sliceOf t op.g ints op.a op.m (8 * op.next) with
      | .error x => .error x
      | .ok (s1, a) =>
        match s1.sliceOf t op.g ints op.b op.n (8 * op.next) with
        | .error x => .error x
        | .ok (s2, b) => .ok (s2.onTeam tid fun t => (t.setEl op.i (sliceSum op.ty op.m op.n (t.elOf op.i) a b)).headNext (op.next + 1))

/-- The head of a team's queue, when the engine may work on it: nothing suspended, the state not saved. -/
def Team.head (t : Team) : Option MOp :=
  match t.queue with
  | o :: _ => if o.bad.isSome || t.saved then none else some o
  | [] => none
/-- Can the engine do something for the operation at the head of a team's queue? A drain waits for locks, for a skid entry, and at its end for its writes. -/
def State.canRun (s : State) (tid : Nat) (t : Team) (op : MOp) : Bool :=
  match op.a with
  | .tensor _ d _ _ _ =>
    if op.form ≠ 5 ∧ op.form ≠ 6 then true
    else if d.scr then !((drainElems d op.m op.n).any fun x => (List.range x.2.2.2.2).any fun b => s.lockedFor tid t (x.2.2.1 + b))
    else if op.next < (s.drainLines d op).length then decide (s.skidUsed t.home < 256)
    else !(s.reqs.any fun r => decide (r.2.team = some tid))
  | .none => true
  | .tile _ _ _ _ _ => true
  | .latch _ => true
/-- Is it a team's turn on its engine (R281): round-robin over the teams of the engine that have an operation ready? -/
def State.engineTurn (s : State) (tid : Nat) (t : Team) : Bool :=
  s.teams.all fun u => decide (u.2.home ≠ t.home) || decide (t.ran < u.2.ran ∨ (t.ran = u.2.ran ∧ tid ≤ u.1)) || (match u.2.head with | some o => !(s.canRun u.1 u.2 o) | none => true)
/-- The operation that the engine works on next for a team, when it is the team's turn. -/
def State.engineHead (s : State) (tid : Nat) : Option (Team × MOp) :=
  match s.team tid with
  | none => none
  | some t => (match t.head with | some o => if s.canRun tid t o && s.engineTurn tid t then some (t, o) else none | none => none)
/-- A team's turn is over: it goes behind every team of its engine. -/
def State.turnOver (s : State) (tid : Nat) : State :=
  match s.team tid with
  | none => s
  | some t => s.onTeam tid fun x => { x with ran := 1 + ((s.teams.filter fun u => decide (u.2.home = t.home)).map fun u => u.2.ran).foldl max 0 }
/-- MATRIX_OP_COMPLETE: the engine's next step for a team (R281, R285, R286). -/
def execMatrixOpComplete (tid : Nat) (s : State) : Res :=
  match s.engineHead tid with
  | none => .next s
  | some (t, o) =>
    match s.engineStep tid t o with
    | .ok s' => .next ((s'.turnOver tid).count t.home t.ctx 11 1)
    | .error _ => .next { s with fresh := s.fresh + 1 }
/-- OPERAND_FAULT (R291): a landing fault on an operand read suspends the operation at the start of its k-slice. -/
def execOperandFault (tid : Nat) (s : State) : Res :=
  match s.engineHead tid with
  | none => .next s
  | some (t, o) =>
    match s.engineStep tid t o with
    | .ok _ => .next s
    | .error (c, a) =>
      let y := s.normal a
      .next (({ s.learn o.g t.ctx y (s.pageNp o.g t.ctx y) with fresh := s.fresh + 1 }).onTeam tid fun t => { t with
        queue := match t.queue with | x :: q => { x with bad := some { cause := c, addr := a, acc := 8, pkt := x.pkt, pslot := x.pslot, told := [] } } :: q | [] => [] })

/-- The threads of a stand that wait in MWAITB for a team. -/
def Stand.batchWaiters (st : Stand) (tid : Nat) : List (Nat × Thread) :=
  ((List.range 64).map fun l => (l, st.tw l)).filter fun x => decide (x.2.st = .parked .mwaitb ∧ (st.t false (x.1 % 32)).team = some tid)
/-- One waiting thread of MWAITB (R288): it goes on and marks its batches, or its fault is to be delivered. -/
def State.batchWake (s : State) (tid key launch l : Nat) (t : Thread) : State × List (Nat × Nat × BFault × Nat) :=
  match s.team tid with
  | none => (s.goOn key (decide (32 ≤ l)) launch (l % 32) t.pc t.w.next, [])
  | some tm =>
    let bs := (tm.batches.filter fun b => decide (b.id ≤ t.w.a)).map (·.id)
    match s.waitFor tid tm bs with
    | .go => (({ s with teams := Store.put tid (tm.waited bs) s.teams }).goOn key (decide (32 ≤ l)) launch (l % 32) t.pc t.w.next, [])
    | .wait => (s, [])
    | .fault b f => (s, [(tid, b, f, l)])
/-- BATCH_COMPLETE (R287, R288): the waits of a team's members are judged again, and the acceptances that wait. -/
def execBatchComplete (tid : Nat) (s : State) : Res :=
  let s := s.reAccept tid
  let go (s : State) (e : Nat × Stand) : State :=
    let r := (e.2.batchWaiters tid).foldl (fun (p : State × List (Nat × Nat × BFault × Nat)) x =>
      let q := p.1.batchWake tid e.1 e.2.launch x.1 x.2; (q.1, p.2 ++ q.2)) (s, [])
    r.1.tellAll (gOf e.1) (slotOf e.1) e.2.launch (fun l => let t := e.2.tw l; (t.pc, t.slot)) r.2
  .next (((s.stands.filter fun e => decide (e.2.place = .resident)).foldl go s).reAccept tid)

/-! Ordered split-K (R294) -/

/-- The slice of a line. -/
def sliceKey (x : Nat) : Nat := if region x = 4 then 48 * bits x 50 2 + x % 2 ^ 26 / 128 % 48 else 48 * (stackOf x / 2) + sliceOf x
def State.ordRec (s : State) (tag ln : Nat) : Option OrdRec := s.ordRecs.find? fun r => decide (r.tag = tag ∧ r.line = ln)
/-- Put, change or free a line's record: a record that expects 0 and holds nothing is free. -/
def State.setOrd (s : State) (r : OrdRec) : State :=
  let rest := s.ordRecs.filter fun x => !decide (x.tag = r.tag ∧ x.line = r.line)
  { s with ordRecs := if r.expect = 0 ∧ r.held = [] then rest else rest ++ [r] }
/-- Room at a slice: for a held part, and for a new line's record. -/
def State.heldRoom (s : State) (x : Nat) : Bool :=
  decide (((s.ordRecs.filter fun r => decide (sliceKey (128 * r.line) = sliceKey x)).map fun r => r.held.length).foldl (· + ·) 0 < 16)
def State.recRoom (s : State) (tag x : Nat) : Bool :=
  (s.ordRec tag (lineOf x)).isSome || decide ((s.ordRecs.filter fun r => decide (sliceKey (128 * r.line) = sliceKey x)).length < 256)
/-- Add the part a line expects, then the held parts that follow it; a landing fault parks the part. -/
def State.ordAdd (s : State) (id : Nat) : Nat → State
  | 0 => s
  | n + 1 =>
    match Store.find id s.reqs with
    | none => s
    | some r =>
      match s.fate r, r.ord with
      | .perform h, some (seq, last) =>
        let rec_ := (s.ordRec r.tag (lineOf r.x)).getD { tag := r.tag, line := lineOf r.x, expect := 0, held := [] }
        let next := if last then 0 else seq + 1
        let s := (s.acknowledge id r h).setOrd { rec_ with expect := next, held := rec_.held.filter fun x => decide (x.1 ≠ next) }
        (match rec_.held.find? fun x => decide (x.1 = next) with
          | some (_, rid) => s.ordAdd rid n
          | none => s)
      | .perform _, none => s
      | .park c, _ => s.parkReq id r c
      | .full, _ => s
/-- The split-sequence fault of the drain that runs for a team: one, however many of its parts are discarded (R294). -/
def State.splitFault (s : State) (tid : Nat) (r : Req) : State :=
  let f : BFault := { cause := 0x2A, addr := r.x, acc := 9, pkt := r.pkt, pslot := r.pslot, told := [] }
  s.onTeam tid fun t => { t with queue := match t.queue with | o :: q => { o with split := some (o.split.getD f) } :: q | [] => [] }
/-- SPLITK_PART_ARRIVE (R294): a line part of an ordered drain at its slice. -/
def execSplitkPartArrive (id : Nat) (s : State) : Res :=
  match Store.find id s.reqs with
  | none => .next s
  | some r =>
    match r.ord, r.team with
    | some (seq, last), some tid =>
      if r.open_.any fun a => a.parked.isSome then .next s
      else
        let rec_ := (s.ordRec r.tag (lineOf r.x)).getD { tag := r.tag, line := lineOf r.x, expect := 0, held := [] }
        if rec_.held.any fun x => decide (x.2 = id) then .next s
        else if seq = rec_.expect then
          (if last || s.recRoom r.tag r.x then .next (s.ordAdd id 17) else .next s)
        else if rec_.expect < seq ∧ (rec_.held.all fun x => decide (x.1 ≠ seq)) then
          (if s.heldRoom r.x && s.recRoom r.tag r.x then .next (s.setOrd { rec_ with held := rec_.held ++ [(seq, id)] }) else .next s)
        else .next (({ s with reqs := s.reqs.del id }).splitFault tid r)
    | _, _ => .next s

/-! MACCR and MACCW (R301) -/

/-- The index operand of a lane. -/
def Stand.midx (st : Stand) (i : MIdx) (l : Nat) : Nat :=
  match i with
  | .v n => (st.rv n l).toNat
  | .x b => (st.xsrc b).toNat
/-- The team of a participant, the accumulator and the index it names, or a cause: team-state, then operand-range, register-index, accumulator-hazard. -/
def State.accAt (s : State) (e : Env) (x : XAcc) (l : Nat) : Except Nat (Nat × Acc × Nat) :=
  match (e.team l).bind fun tid => (s.team tid).map fun t => (tid, t) with
  | none => .error 0x23
  | some (tid, t) =>
    let a := t.acc.getD x.i { m := 0, n := 0, ty := 0, el := [] }
    let j := e.st.midx x.idx l
    if a.m * a.n ≤ j ∨ (a.ty = 2 ∧ x.a % 2 = 1) then .error 0x04
    else if a.ty = 2 ∧ e.l.hdr.vregs ≤ x.a + 1 then .error 0x20
    else if (t.openB :: t.batches).any fun b => b.targets.contains x.i then .error 0x26
    else .ok (tid, a, j)
/-- The lanes with a cause. -/
def accRaises (e : Env) (f : Nat → Except Nat (Nat × Acc × Nat)) : List Raise :=
  (lanesOf e.q).filterMap fun l => match f l with | .ok _ => none | .error c => some { lane := l, cause := c, addr := 0 }
/-- Lanes whose accumulator has one word, or two, as a counted read of its value. -/
def State.accRead (s : State) (e : Env) (x : XAcc) (two : Bool) : State :=
  let f := s.accAt e x
  let hit (l : Nat) : Option OLane :=
    match f l with
    | .ok (_, a, j) => if decide (a.ty = 2) = two then some { lane := l, addr := 0, n := if two then 8 else 4, bit := 0, scale := none, got := toBytes (if two then 8 else 4) (a.el.getD j 0), fault := none, np := false } else none
    | .error _ => none
  let ls := (lanesOf e.q).filterMap hit
  s.startOp e .value x.a (if two then 2 else 1) 0 false true 0 (maskOf (ls.map (·.lane))) ls
def execMaccr (x : XAcc) (s : State) : Res :=
  .next (s.on (.maccr x) fun e s => ((s.accRead e x false).accRead e x true).raise e 0 .here (accRaises e (s.accAt e x)))
def execMaccw (x : XAcc) (s : State) : Res :=
  .next (s.on (.maccw x) fun e s =>
    let put (s : State) (l : Nat) : State :=
      match s.accAt e x l with
      | .ok (tid, a, j) => s.onTeam tid fun t => t.setEl x.i ((t.elOf x.i).set j (if a.ty = 2 then (e.st.rv64 x.a l).toNat else (e.st.rv x.a l).toNat))
      | .error _ => s
    ((lanesOf e.q).foldl put s).raise e 0 .here (accRaises e (s.accAt e x)))

end Sys2Proof.Machine
end

