-- ==== Sys2Proof/Machine/Sync.lean ====
section
/-! DEFINITION. Fences, barriers, watches and waits, messages, the reduction tree, beats, draws, time (04 R76 to R78, 08 R198, 10 R245 to R248, 15 R337 to R350). -/
namespace Sys2Proof.Machine

/-! Fences (R319, R337) -/

/-- Accesses of a participant on the paths COPY, MATRIX and COLLECTIVE of a mask that are not yet performed; a copy of which only parked writes are left is passed over (R337): outside a handler its fault has been delivered. -/
def State.pathWait (s : State) (mask : Nat) (e : Env) (l : Nat) : Bool :=
  (decide (bits mask 1 1 = 1) && s.cpys.any fun c => decide (c.2.g = e.sq.g ∧ c.2.slot = e.slot ∧ c.2.lane = l) &&
      (!c.2.moves.isEmpty || !(s.reqs.any fun r => decide (r.2.cmd = some c.1)) || s.reqs.any fun r => decide (r.2.cmd = some c.1) && r.2.open_.any fun a => decide (a.parked = none)))
  || (decide (bits mask 2 1 = 1) && s.teams.any fun t => t.2.queue.any fun o => o.signers.any fun w => decide (w.1 = e.sq.g ∧ w.2.1 = e.slot ∧ w.2.2 % 32 = l))
  || (decide (bits mask 3 1 = 1) && s.rounds.any fun r => r.ins.any fun m => decide (m.g = e.sq.g ∧ m.slot = e.slot) && m.flag.isSome && inMask m.q l)
/-- A thread's parked copy write: its notice, or its first parked entry. -/
def State.parkedCopy (s : State) (g slot l : Nat) (t : Thread) : Option Notice :=
  match t.notices.find? fun n => (match Store.find n.req s.reqs with | some r => decide (r.kind = .copy) | none => false) with
  | some n => some n
  | none => (s.reqs.filterMap fun r =>
      if r.2.g = g ∧ r.2.slot = slot ∧ r.2.kind = .copy then ((r.2.open_.find? fun a => decide (a.lane = l) && a.parked.isSome && !a.ghost).map fun a => { req := r.1, lane := l, cause := a.parked.getD 0 }) else none).head?
/-- Deliver the parked copy writes of a stand's participants at a FENCE.X that names COPY (R337). -/
def State.lateCopies (s : State) (e : Env) : State :=
  s.takeLate e.key e.sq.hdl e.sq.launch ((lanesOf e.q).filterMap fun l =>
    (s.parkedCopy e.sq.g e.slot l (e.raw.t e.sq.hdl l)).bind fun n => (s.late n false e.sq.pc e.sq.k).map fun d => (n, d))
/-- FENCE: a release and an acquire. -/
def execFence (x : MFence) (s : State) : Res := s.ordered { acq := true, rel := true, scope := x.scp } .next
/-- FENCE.X: with LS as a FENCE; a parked access of a named path is delivered at the fence. -/
def execFenceX (x : MFenceX) (s : State) : Res :=
  let ls := decide (bits x.mask 0 1 = 1)
  s.ordered { acq := ls, rel := ls, scope := x.scp } fun s =>
    let s := if ls ∨ bits x.mask 1 1 = 0 then s else s.envs.foldl (fun s e => if e.sq.hdl then s else s.lateCopies e) s
    if s.envs.any fun e => (lanesOf e.q).any (s.pathWait x.mask e) then .next s.setMark.again else .next s

/-! Team barriers (R338) -/

/-- A waiter of a completed phase goes on, with its acquire. -/
def Thread.barOut (t : Thread) : Thread := { t with barP := false, syncW := false }
def State.barGo (s : State) (w : Who) (launch : Nat) (scope : Nat) : State :=
  (s.onStandAny w.1 w.2.1 launch fun st => st.onT false (w.2.2 % 32) Thread.barOut).endLeases w.1 scope |>.proceed w
/-- Waiters of a team on a resident stand whose phase has passed. -/
def Stand.barWaiters (st : Stand) (tid ph : Nat) : List Nat :=
  (List.range 64).filter fun n => let p := st.t false (n % 32); decide ((st.tw n).st = .parked .bar ∧ p.team = some tid ∧ p.barPh ≠ ph)
/-- Release the waiters of a team on the stands that are on their cores; those that are out are released when they return. -/
def State.barRelease (s : State) (tid : Nat) : State :=
  match s.team tid with
  | none => s
  | some t =>
    (s.stands.filter fun e => decide (e.2.place = .resident)).foldl (fun s e =>
      (e.2.barWaiters tid t.barPh).foldl (fun s n => s.barGo (gOf e.1, slotOf e.1, n) e.2.launch (e.2.tw n).w.scp) s) s
/-- A phase completes when its count has reached the declared size. -/
def State.barJudge (s : State) (tid : Nat) : State :=
  match s.team tid with
  | none => s
  | some t => if 1 ≤ t.barN ∧ t.size ≤ t.barN then (s.onTeam tid fun t => { t with barN := 0, barPh := (t.barPh + 1) % 2 ^ 32 }).barRelease tid else s
/-- ARRIVE of one participant. -/
def State.barArrive (s : State) (e : Env) (l tid : Nat) : State :=
  let ph := ((s.team tid).map (·.barPh)).getD 0
  ((s.onT e.key false l fun t => { t with barP := true, barPh := ph }).onTeam tid fun t => { t with barN := t.barN + 1 }).barJudge tid
/-- WAIT of one participant. -/
def State.barWait (s : State) (e : Env) (l tid scope : Nat) (sync : Bool) : State :=
  let p := ((s.stand e.key).map fun st => st.t false l).getD Thread.gone
  match s.team tid with
  | none => s
  | some t =>
    if t.barPh ≠ p.barPh then (s.onT e.key false l Thread.barOut).endLeases e.sq.g scope
    else ((s.onT e.key false l fun t => { t with syncW := sync }).parkAt e (bit l) .bar fun _ t => { t with w := { t.w with acq := true, scp := scope, next := e.next } })
/-- What a BAR form does for each participant: arrive, wait, or its cause. -/
def State.barLane (s : State) (e : Env) (arrive wait : Bool) (scope l : Nat) : State × List Raise :=
  let p := e.raw.t false l
  match p.team.bind fun tid => (s.team tid).map fun _ => tid with
  | none => (s, raiseAll (bit l) 0x23)
  | some tid =>
    let only := arrive && wait && p.syncW
    if arrive && !only && p.barP then (s, raiseAll (bit l) 0x23)
    else if !arrive && !p.barP then (s, raiseAll (bit l) 0x23)
    else
      let s := if arrive && !only then s.barArrive e l tid else s
      (if wait then s.barWait e l tid scope arrive else s, [])
def barOp (i : Instr) (arrive wait : Bool) (scope : Nat) (s : State) : Res :=
  s.ordered { acq := wait, rel := arrive, scope := scope } fun s => .next (s.onLanes i 0 fun e l s => s.barLane e arrive wait scope l)
def execBarArrive (x : SBar) (s : State) : Res := barOp (.barArrive x) true false x.s s
def execBarWait (x : SBar) (s : State) : Res := barOp (.barWait x) false true x.s s
def execBarSync (x : SBar) (s : State) : Res := barOp (.barSync x) true true x.s s

/-! Watches (R339 to R341) -/

/-- The watches of a core: tag and line, state, first arm, a recent loss of the thread. -/
def State.watches (s : State) (g : Nat) : List (Watch × Bool) :=
  (s.standsOn g).flatMap fun e => e.2.thr.filterMap fun t => t.watch.map fun w => (w, match t.lostAt with | some c => decide (s.cyc g - c < 2 ^ 20) | none => false)
/-- Does a watch hold its line in the monitor table? -/
def Watch.inTable (w : Watch) : Bool := decide (w.st ≠ .lost) && !w.gone
/-- The lines a core's monitor table holds. -/
def State.lines (s : State) (g : Nat) : List (Nat × Nat) := distinct (((s.watches g).filter fun w => w.1.inTable).map fun w => (w.1.tag, w.1.line))
/-- The line to evict: the one whose first arm is oldest among the lines with no protected watcher. -/
def State.evictable (s : State) (g : Nat) : Option (Nat × Nat) :=
  let ws := (s.watches g).filter fun w => w.1.inTable
  let free := (s.lines g).filter fun k => !(ws.any fun w => decide ((w.1.tag, w.1.line) = k) && w.2)
  let age (k : Nat × Nat) : Nat := ((ws.filter fun w => decide ((w.1.tag, w.1.line) = k)).map fun w => w.1.first).foldl min (2 ^ 64)
  match free with
  | [] => none
  | k :: t => some (t.foldl (fun a b => if age b < age a then b else a) k)
/-- A line leaves a core's monitor table. -/
def State.evictLine (s : State) (g : Nat) (k : Nat × Nat) : State :=
  { s with stands := s.stands.map fun e => if e.1 / 32 = g then (e.1, { e.2 with thr := e.2.thr.map (Thread.loseIf (s.cyc g) fun w => decide ((w.tag, w.line) = k)) }) else e }
/-- Arm a watch for a thread; none when every line is protected. -/
def State.arm (s : State) (e : Env) (l tag line scope : Nat) : Option State :=
  let s := s.onT e.key false l fun t => { t with watch := none }
  let put (s : State) (first : Nat) : State := s.onT e.key false l fun t => { t with watch := some { tag := tag, line := line, scope := scope, st := .armed, first := first } }
  let old := ((s.watches e.sq.g).filter fun w => w.1.inTable && decide (w.1.tag = tag ∧ w.1.line = line)).map fun w => w.1.first
  match old with
  | f :: t => some (put s (t.foldl min f))
  | [] =>
    if (s.lines e.sq.g).length < 256 then some (put s (s.cyc e.sq.g))
    else match s.evictable e.sq.g with
      | some k => some (put (s.evictLine e.sq.g k) (s.cyc e.sq.g))
      | none => none
/-- MONA. -/
def execMona (x : MMona) (s : State) : Res :=
  let addr (e : Env) (l : Nat) : Nat := (e.st.gaddr x.addr l).toNat
  let okR (r : Nat) : Bool := decide (r ≠ 2)
  s.gate (fun e => ((lanesOf e.q).map (addr e)).filter fun a => (s.pre e a 1 okR).isNone) fun s =>
    if s.envs.any fun e => (lanesOf e.q).any fun l => s.acqWait e.sq.g e.slot l e.sq.hdl then .next s.again
    else
      let good (s : State) (e : Env) := e.split (addr e) fun l => s.chk e (addr e l) 1 needRd okR
      let armAll (s : State) (e : Env) : Option State := (lanesOf (good s e).1).foldl (fun o l => o.bind fun s => let a := s.normal (addr e l); s.arm e l (s.tagAt e a) (lineOf a) x.scp) (some s)
      match s.envs.foldl (fun o e => o.bind fun s => armAll s e) (some s) with
      | none => .next s.again
      | some _ => .next (s.on (.mona x) fun e s => ((armAll s e).getD s).raise e 0 .here (good s e).2)

/-- The timeout of an MWAIT in a lane. -/
def Stand.ticks (st : Stand) (a : Addr) (l : Nat) : Nat :=
  match a with
  | .v n => (st.rv n l).toNat
  | .s n => (st.rs n).toNat
  | .sl _ w => w.toNat
  | .vl _ w => w.toNat
/-- What an MWAIT finds: write, timeout, lost; none: it waits. -/
inductive WakeBy where
  | write
  | timeout
  | lost
  deriving DecidableEq, Repr
def wakeOf (w : Option Watch) : Option WakeBy :=
  match w with
  | none => some .lost
  | some w => (match w.st with | .triggered => some .write | .lost => some .lost | .armed => none)
/-- The status predicates. -/
def Stand.mwaitP (st : Stand) (q : W) (d : Nat) (r : WakeBy) : Stand :=
  (st.wp q d fun _ => decide (r = .write)).wp q (d + 1) fun _ => decide (r = .lost)
/-- MWAIT. -/
def execMwait (x : MMem) (s : State) : Res :=
  s.ordered { acq := decide (x.ord = 1), rel := false, scope := x.scp } fun s => .next (s.on (.mwait x) fun e s =>
    let look (l : Nat) : Option WakeBy := wakeOf (e.raw.t false l).watch
    let w := (lanesOf e.q).foldl (fun st l => match look l with | some r => st.mwaitP (bit l) x.d r | none => st) e.st
    let s := s.commit e w []
    let s := (lanesOf e.q).foldl (fun s l => if (look l).isSome then s.onT e.key false l fun t => { t with watch := none } else s) s
    let wait := maskOf ((lanesOf e.q).filter fun l => (look l).isNone)
    s.parkAt e wait .mwait fun l t =>
      let k := e.st.ticks x.addr l
      { t with mwdl := if k = 0 then 0 else s.now + k, w := { t.w with d := x.d, acq := decide (x.ord = 1), scp := x.scp, next := e.next } })

/-- A waiting thread's registers are written, and it goes on with its acquire. -/
def State.wakeWith (s : State) (w : Who) (st : Stand) (t : Thread) (f : Stand → Stand) : State :=
  let key := standKey w.1 w.2.1
  let hdl := decide (32 ≤ w.2.2)
  let s := s.setStand key ((st.back hdl (f (st.seen hdl))).spent st 0)
  let s := if t.w.acq then s.endLeases w.1 t.w.scp else s
  s.goOn key hdl st.launch (w.2.2 % 32) t.pc t.w.next
/-- End an MWAIT with a result. -/
def State.mwaitDone (s : State) (w : Who) (st : Stand) (t : Thread) (r : WakeBy) : State :=
  (s.wakeWith w st t fun v => v.mwaitP (bit (w.2.2 % 32)) t.w.d r).onStand (standKey w.1 w.2.1) fun st => (st.onT false (w.2.2 % 32) fun t => { t with watch := none }).onTw w.2.2 fun t => { t with mwdl := 0 }
/-- The waiting threads of a lane: the program's, or the handler's. -/
def Stand.waiting (st : Stand) (lane : Nat) (k : Wait) : Option (Nat × Thread) :=
  if (st.tw lane).st = .parked k then some (lane, st.tw lane) else if (st.tw (lane + 32)).st = .parked k then some (lane + 32, st.tw (lane + 32)) else none
/-- Does a thread watch a line of a peer chip, whose home another agent may write at any time (R340)? -/
def Thread.watchesPeer (t : Thread) : Bool := match t.watch with | some w => decide (w.st = .armed ∧ region (128 * w.line) = 3) | none => false
/-- WATCH_TRIGGER (R340 to R342): a watch that was triggered or lost ends its MWAIT; a scratchpad word that differed when it was written ends its WAITA. -/
def execWatchTrigger (g slot lane : Nat) (s : State) : Res :=
  match s.stand (standKey g slot) with
  | none => .next s
  | some st =>
    if st.place ≠ .resident then .next s
    else
      match st.waiting lane .mwait, st.waiting lane .waita with
      | some (n, t), _ =>
        (match wakeOf (st.t false lane).watch with
          | some r => .next (s.mwaitDone (g, slot, n) st t r)
          | none => if (st.t false lane).watchesPeer && decide (Config.fresh s.fresh % 2 = 1) then .next ({ s with fresh := s.fresh + 1 }.mwaitDone (g, slot, n) st t .write) else .next { s with fresh := s.fresh + 1 })
      | none, some (n, t) =>
        (match t.w.hit with
          | some v =>
            if (st.outRegs [.v t.w.d]).isEmpty then
              let w := st.back (decide (32 ≤ n)) ((st.seen (decide (32 ≤ n))).wv (bit lane) t.w.d .auto fun _ => v)
              if s.lacks g st w then .next (s.setStand (standKey g slot) { st with need := max st.need (w.hold - st.hold), grant := (0, 0) })
              else .next (s.wakeWith (g, slot, n) st t fun x => x.wv (bit lane) t.w.d .auto fun _ => v)
            else .next (s.setStand (standKey g slot) { st with reload := [t.w.d] })
          | none => .next s)
      | none, none => .next s
/-- MWAIT_TIMEOUT (R341): t ticks have passed; a trigger goes before. -/
def execMwaitTimeout (g slot lane : Nat) (s : State) : Res :=
  match s.stand (standKey g slot) with
  | none => .next s
  | some st =>
    match st.waiting lane .mwait with
    | some (n, t) =>
      if st.place = .resident ∧ t.mwdl ≠ 0 ∧ t.mwdl ≤ s.now then .next (s.mwaitDone (g, slot, n) st t ((wakeOf (st.t false lane).watch).getD .timeout))
      else .next s
    | none => .next s

/-- WAITA (R342). -/
def execWaita (x : MMem) (s : State) : Res :=
  let addr (e : Env) (l : Nat) : Nat := (e.st.saddr x.addr l).toNat
  s.ordered { acq := decide (x.ord = 1), rel := false, scope := x.scp } fun s =>
    if s.envs.any s.scrBusy then .next s.again
    else .next (s.on (.waita x) fun e s =>
      let j := e.split (addr e) fun l => s.scrChk e (addr e l) 4
      let word (l : Nat) : W := BitVec.ofNat 32 (ofBytes (s.scrGet e.sq.launch e.sq.g (addr e l) 4))
      let now := maskOf ((lanesOf j.1).filter fun l => decide (word l ≠ e.st.rv x.d l))
      let s := s.commit e (if now = 0 then e.st else e.st.wv now x.d .auto word) []
      (s.parkAt e (j.1 &&& ~~~now) .waita fun l t =>
        { t with w := { d := x.d, a := addr e l, v := e.st.rv x.d l, hit := none, acq := decide (x.ord = 1), scp := x.scp, next := e.next } }).raise e 0 .here j.2)

/-! Messages (R344, R245 to R248) -/

/-- A message's fields, or a cause. -/
def State.sendMsg (s : State) (e : Env) (x : XSend) (l : Nat) : Except (Nat × Nat) RingMsg :=
  let a := (e.st.rv x.a l).toNat
  let b := (e.st.rv (x.a + 1) l).toNat
  let c := (e.st.rv (x.a + 2) l).toNat
  let len := bits b 0 9
  if len < 16 ∨ 256 < len ∨ bits b 9 7 ≠ 0 ∨ 384 ≤ bits c 0 9 ∨ bits c 20 12 ≠ 0 then .error (0x04, 0)
  else if a % 16 ≠ 0 then .error (0x10, a)
  else if s.scrSize e.sq.launch e.sq.g < a + len then .error (0x12, a)
  else .ok { launch := e.sq.launch, core := bits c 0 9, chip := bits c 9 7, ring := bits c 16 4, mtag := bits b 16 16, srcCore := e.sq.g, srcChip := s.pkg.chip,
             payload := s.scrGet e.sq.launch e.sq.g a len, answer := none }
/-- A message leaves for its target: here it waits for its append; at another chip it is sent, or it is unreachable. -/
def State.sendOut (s : State) (e : Env) (x : XSend) (l : Nat) (m : RingMsg) : State :=
  let id := s.seq
  let s := s.stall e l (.send { m with answer := some id } x.a x.b)
  let st (n : Nat) : State := { s with walks := Store.adjust id (fun w => { w with status := some n }) s.walks }
  if m.chip = s.pkg.chip then s
  else if !(s.inDomain m.chip) || !(s.reachable m.chip) then st 3
  else
    match (s.launch m.launch).bind (·.repl) with
    | some _ => { s with outbox := s.outbox ++ [.flit m.chip 1 ([id, m.core, m.ring, m.mtag, m.srcCore] ++ m.payload.map (·.toNat))] }
    | none => st 2
/-- Has a participant sent its message already? -/
def State.sent (s : State) (e : Env) (l : Nat) : Bool := (s.walksOf e).any fun w => decide (w.2.lane = l)
/-- SEND: participants stall until the status of each is final; a squad's messages leave in ascending lanes. One that parked for granules before it took its status does not send again. -/
def execSend (x : XSend) (s : State) : Res :=
  if s.envs.any s.scrBusy then .next s.again
  else if s.envs.any fun e => (lanesOf e.q).any fun l => !(s.sent e l) then
    let s1 := s.on (.send x) fun e s => s.raise e 0 .here ((lanesOf e.q).filterMap fun l => if s.sent e l then none else match s.sendMsg e x l with | .ok _ => none | .error c => some { lane := l, cause := c.1, addr := BitVec.ofNat 64 c.2 })
    let ps := lanes32.flatMap fun l => (s1.envs.filter fun e => inMask e.q l && !(s1.sent e l)).map fun e => (e, l)
    if s1.envs.isEmpty then .next s1
    else .next (ps.foldl (fun s p => match s.sendMsg p.1 x p.2 with | .ok m => s.sendOut p.1 x p.2 m | .error _ => s) s1).again
  else if s.envs.any fun e => (s.walksOf e).any fun w => !(s.walkDone w.2) then .next s.again
  else .next (s.on (.send x) fun e s =>
    let ws := (s.walksOf e).map (·.2)
    let st (l : Nat) : Nat := ((ws.find? fun w => decide (w.lane = l)).bind (·.status)).getD 0
    let w := (e.st.wv e.q (x.a + 3) .auto fun l => BitVec.ofNat 32 (st l)).wp e.q x.b fun l => decide (st l = 0)
    if s.fits e w then { s.commit e w [] with walks := s.walks.filter fun w => !(w.2.of e && inMask e.q w.2.lane) } else s.commit e w [])

/-- A ring header (R246). -/
structure Ring where
  base : Nat
  z : Nat
  head : Nat
  tail : Nat
  hdr : Nat
  deriving DecidableEq, Repr
def State.ring (s : State) (launch g r : Nat) : Option Ring :=
  match s.launch launch with
  | none => none
  | some l =>
    let n := s.scrSize launch g
    let h := n - 256 + 16 * r
    let w (i : Nat) : Nat := ofBytes (s.scrGet launch g (h + 4 * i) 4)
    if n < 512 ∨ bits l.hdr.feature 8 1 = 0 ∨ w 1 < 8 ∨ 16 < w 1 ∨ w 0 % 16 ≠ 0 ∨ n - 256 < w 0 + 2 ^ w 1 then none
    else some { base := w 0, z := 2 ^ w 1, head := w 2, tail := w 3, hdr := h }
/-- Append a message (R247, R248): the status and the new state, or none while a range is read-locked (R238). -/
def State.append (s : State) (m : RingMsg) : Option (State × Nat) :=
  match s.ring m.launch m.core m.ring with
  | none => some (s, 2)
  | some r =>
    let need := 16 + 16 * ((m.payload.length + 15) / 16)
    let off := r.tail % r.z
    let pad := if r.z - off < need then r.z - off else 0
    let used := (r.tail + 2 ^ 32 - r.head) % 2 ^ 32
    if r.z < used ∨ r.z - used < pad + need then some (s, 1)
    else
      let at_ := r.base + (off + pad) % r.z
      if s.locked m.launch m.core (r.base + off) (r.base + off + pad) || s.locked m.launch m.core at_ (at_ + need) || s.locked m.launch m.core (r.hdr + 12) (r.hdr + 16) then none
      else
        let put (s : State) (a : Nat) (bs : List Byte) : State := s.scrPut m.launch m.core a bs
        let c := ((s.launch m.launch).map (·.ctx)).getD 0
        let rec_ := toBytes 2 m.payload.length ++ toBytes 2 m.mtag ++ toBytes 2 m.srcCore ++ toBytes 1 m.srcChip ++ [0] ++ toBytes 4 (s.guestNow c) ++ [0, 0, 0, 0]
          ++ m.payload ++ List.replicate (need - 16 - m.payload.length) 0
        let s := if pad = 0 then s else put s (r.base + off) (List.replicate 16 0)
        some (put (put s at_ rec_) (r.hdr + 12) (toBytes 4 (r.tail + pad + need)), 0)
/-- Does an earlier message of the same squad to the same ring still wait for its append (R344)? -/
def State.ringBehind (s : State) (m : RingMsg) : Bool :=
  match m.answer.bind fun id => (Store.find id s.walks).map fun w => (id, w) with
  | some (id, w) => decide (m.srcChip = s.pkg.chip) && s.walks.any fun v => decide (v.1 < id ∧ v.2.g = w.g ∧ v.2.sq = w.sq) && v.2.status.isNone &&
      (match v.2.kind with | .send n _ _ => decide (n.launch = m.launch ∧ n.chip = m.chip ∧ n.core = m.core ∧ n.ring = m.ring) | .tdiscard _ _ => false | .tdesc _ => false | .hold _ _ _ _ _ => false)
  | none => false
/-- RING_APPEND: a message reaches the network interface of its core. -/
def execRingAppend (m : RingMsg) (s : State) : Res :=
  if s.ringBehind m then .next s
  else match s.append m with
  | none => .next s
  | some (s, n) =>
    match m.answer with
    | some id => if m.srcChip = s.pkg.chip then .next { s with walks := Store.adjust id (fun w => { w with status := some n }) s.walks } else .next { s with outbox := s.outbox ++ [.flit m.srcChip 2 [id, n]] }
    | none => .next s
/-- SEND_STATUS: the answer of another chip. -/
def execSendStatus (id status : Nat) (s : State) : Res :=
  match Store.find id s.walks with
  | none => .next s
  | some w =>
    (match w.kind, w.status with
      | .send _ _ _, none => .next { s with walks := Store.put id { w with status := some status } s.walks }
      | _, _ => .next s)

/-! The reduction tree (R198, R345) -/

/-- One step of an operation on a 32-bit element. -/
def combine (op fmt x y : Nat) : Nat :=
  if fmt = 0 then (if op = 0 then (fadd fp32 x y).1 else (fminmax fp32 (decide (op = 2)) x y).1)
  else (atomNew op 32 x y 0).getD x
/-- One sweep of the canonical tree: neighbours at distance w. -/
def treeSweep (op fmt : Nat) : List Nat → List Nat
  | x :: y :: t => combine op fmt x y :: treeSweep op fmt t
  | t => t
/-- The canonical tree over n contributions. -/
def treeFold (op fmt : Nat) : Nat → List Nat → Nat
  | 0, v => v.headD 0
  | k + 1, v => treeFold op fmt k (treeSweep op fmt v)
/-- The result of a round, element by element. -/
def TreeRound.result (r : TreeRound) : List Byte :=
  (List.range (r.len / 4)).flatMap fun i => toBytes 4 (treeFold r.op r.fmt 12 (r.vals.map fun v => ofBytes ((v.2.drop (4 * i)).take 4)))
/-- Is a round decided? -/
def TreeRound.done (r : TreeRound) : Bool := r.failed || decide (r.vals.length = r.n)
/-- Write a member's buffer, unless the range is read-locked (R238). -/
def State.treeWrite (s : State) (r : TreeRound) (m : TreeIn) : State × TreeIn :=
  if m.res.isSome then (s, m)
  else if r.failed then (s, { m with res := some false })
  else if decide (0 < r.len) && s.locked m.launch m.g m.buf (m.buf + r.len) then (s, m)
  else (s.scrPut m.launch m.g m.buf r.result, { m with res := some true })
/-- Give a member its predicate and let it go on, once its stand is on the core. -/
def State.treeGive (s : State) (m : TreeIn) : State × List TreeIn :=
  match m.res, s.stand (standKey m.g m.slot) with
  | some ok, some st =>
    if st.launch ≠ m.launch ∨ st.place ≠ .resident then (s, [m])
    else
      let q := maskOf ((lanesOf m.q).filter fun l => decide ((st.t m.hdl l).st ≠ .exited))
      let st := st.back m.hdl ((st.seen m.hdl).wp q m.p fun _ => ok)
      let s := s.setStand (standKey m.g m.slot) st
      (match m.flag with
        | some f => (s.onTs (standKey m.g m.slot) m.hdl q fun t => t.flagDown (s.cyc m.g) f, [])
        | none =>
          ((lanesOf q).foldl (fun s l => let t := st.t m.hdl l; if t.st = .parked .treew then s.goOn (standKey m.g m.slot) m.hdl m.launch l t.pc t.w.next else s) (s.endLeases m.g 7), []))
  | _, _ => (s, [m])
/-- Settle a round: buffers, predicates, and its end. -/
def State.treeSettle (s : State) (c grp round : Nat) : State :=
  match s.rounds.find? fun r => decide (r.ctx = c ∧ r.grp = grp ∧ r.round = round) with
  | none => s
  | some r =>
    if !r.done then s
    else
      let p := r.ins.foldl (fun (p : State × List TreeIn) m => let w := p.1.treeWrite r m; let g := w.1.treeGive w.2; (g.1, p.2 ++ g.2)) (s, [])
      let rest := p.1.rounds.filter fun x => !decide (x.ctx = c ∧ x.grp = grp ∧ x.round = round)
      { p.1 with rounds := if p.2.isEmpty && decide (r.n ≤ r.came) then rest else { r with ins := p.2 } :: rest }
/-- Is some chip of the domain cut off (R417)? -/
def State.cutOff (s : State) : Bool := s.pkg.routes.any fun r => decide (bits r.2.toNat 16 1 = 1) && !(s.reachable r.1)
/-- A contribution arrives. A round that needs a chip that is cut off fails; which rounds do, the specification does not say. -/
def State.treeJoin (s : State) (c grp round rank n len op fmt : Nat) (data : List Byte) (m : List TreeIn) : State :=
  let r := (s.rounds.find? fun r => decide (r.ctx = c ∧ r.grp = grp ∧ r.round = round)).getD
    { ctx := c, grp := grp, round := round, n := n, len := len, op := op, fmt := fmt, vals := [], came := 0, failed := false, ins := [] }
  let cut := s.cutOff && decide (Config.fresh s.fresh % 2 = 1)
  let s := if s.cutOff then { s with fresh := s.fresh + 1 } else s
  let bad := decide (r.n ≠ n ∨ r.len ≠ len ∨ r.op ≠ op ∨ r.fmt ≠ fmt) || (Store.find rank r.vals).isSome || cut
  let r := { r with vals := if bad then r.vals else Store.put rank data r.vals, came := r.came + 1, failed := r.failed || bad, ins := r.ins ++ m }
  ({ s with rounds := r :: s.rounds.filter fun x => !decide (x.ctx = c ∧ x.grp = grp ∧ x.round = round) }).treeSettle c grp round
/-- TREE_CONTRIBUTION: a contribution from a chip of the domain; for a round already decided, what is still due is given; for a context in reset the completer of last resort fails the round (R409). -/
def execTreeContribution (t : TreeMsg) (s : State) : Res :=
  if (s.part (s.partOf t.ctx)).resetAt.isSome then .next { s with outbox := s.outbox ++ [.flit s.pkg.chip 5 [t.ctx, t.grp, t.round]] }
  else match s.rounds.find? fun r => decide (r.ctx = t.ctx ∧ r.grp = t.grp ∧ r.round = t.round) with
  | some r =>
    if r.done && decide (r.n ≤ r.came) then .next (s.treeSettle t.ctx t.grp t.round)
    else .next (s.treeJoin t.ctx t.grp t.round t.rank t.n t.len t.op t.fmt t.data [])
  | none => .next (s.treeJoin t.ctx t.grp t.round t.rank t.n t.len t.op t.fmt t.data [])

/-- A TREE block's cause (R345). -/
def State.treeCause (s : State) (e : Env) (a : Nat) : Option (Nat × Nat) :=
  let buf := (e.st.rs a).toNat
  let b := (e.st.rs (a + 1)).toNat
  let c := (e.st.rs (a + 2)).toNat
  let len := bits b 0 7
  let op := bits b 8 3
  let fmt := bits b 12 4
  if 64 < len ∨ len % 4 ≠ 0 ∨ bits b 7 1 ≠ 0 ∨ bits b 11 1 ≠ 0 ∨ bits b 16 16 ≠ 0 ∨ bits c 12 4 ≠ 0 ∨ bits c 28 4 ≠ 0 ∨ 6 ≤ op ∨ (fmt ≠ 0 ∧ fmt ≠ 8) ∨ (3 ≤ op ∧ fmt = 0)
      ∨ bits c 16 12 + 1 ≤ bits c 0 12 then some (0x04, 0)
  else if buf % 16 ≠ 0 then some (0x10, buf)
  else if s.scrSize e.sq.launch e.sq.g < buf + len then some (0x12, buf)
  else none
/-- A stand contributes once. -/
def State.treeGo (s : State) (e : Env) (x : XTree) (counted : Bool) : State :=
  let buf := (e.st.rs x.a).toNat
  let b := (e.st.rs (x.a + 1)).toNat
  let c := (e.st.rs (x.a + 2)).toNat
  let round := e.raw.tcnt.getD x.i 0
  let data := s.scrGet e.sq.launch e.sq.g buf (bits b 0 7)
  let m : TreeIn := { g := e.sq.g, slot := e.slot, launch := e.sq.launch, hdl := e.sq.hdl, buf := buf, p := x.b, q := e.q, flag := if counted then some e.flag else none, res := none }
  let s := s.onStand e.key fun st => { st with tcnt := st.tcnt.set x.i ((round + 1) % 2 ^ 32) }
  let s := if counted then s.onTs e.key e.sq.hdl e.q fun t => t.flagUp e.flag else s.parkAt e e.q .treew fun _ t => { t with w := { t.w with next := e.next } }
  let s := if s.pkg.routes.isEmpty then s else { s with outbox := s.outbox ++ [.flit s.pkg.chip 3 ([e.ctx, x.i, round, bits c 0 12, bits c 16 12 + 1, bits b 0 7, bits b 8 3, bits b 12 4] ++ data.map (·.toNat))] }
  s.treeJoin e.ctx x.i round (bits c 0 12) (bits c 16 12 + 1) (bits b 0 7) (bits b 8 3) (bits b 12 4) data [m]
def treeOp (i : Instr) (x : XTree) (counted : Bool) (s : State) : Res :=
  s.ordered { acq := false, rel := !counted, scope := 7 } fun s =>
    if s.envs.any s.scrBusy then .next s.again
    else .next (s.on i fun e s =>
      match s.treeCause e x.a with
      | some (c, a) => s.raise e 0 .here ((lanesOf e.q).map fun l => { lane := l, cause := c, addr := BitVec.ofNat 64 a })
      | none => s.treeGo e x counted)
def execTree (x : XTree) (s : State) : Res := treeOp (.tree x) x true s
def execTreew (x : XTree) (s : State) : Res := treeOp (.treew x) x false s

/-! Beats, draws, time (R76, R77, R346 to R349) -/

def satAdd32 (a b : Nat) : Nat := min (a + b) 0xFFFFFFFF
/-- Deliver a beat to a context's loop, under the ONTIME in force since its latest step (R77, R95). -/
def Loop.beat (lp : Loop) (n : Nat) (late : Bool) : Loop :=
  { lp with bcnt := if late && lp.ontimeNow then lp.bcnt else satAdd32 lp.bcnt n, laten := if late then satAdd32 lp.laten n else lp.laten }
def beatOp (i : Instr) (amount : Env → Nat → Nat) (late : State → Env → Nat → Bool) (s : State) : Res :=
  .next (s.on i fun e s =>
    let j := e.judge fun l => if amount e l = 0 ∨ 65535 < amount e l then some 0x04 else none
    ((lanesOf j.1).foldl (fun s l => s.onCtx e.ctx fun c => { c with loop := c.loop.beat (amount e l) (late s e l) }) s).raise e 0 .here j.2)
def execBeat (x : RB1) (s : State) : Res := beatOp (.beat x) (fun e l => (e.st.src x.b l).toNat) (fun _ _ _ => false) s
def execBeatd (x : RAB) (s : State) : Res :=
  beatOp (.beatd x) (fun e l => (e.st.src x.b l).toNat) (fun s e l => decide ((e.st.rv64 x.a l).toNat < s.guestNow e.ctx)) s

/-- One round of Philox-4x32 (R348). -/
def philoxRound (c : W × W × W × W) (k0 k1 : W) : W × W × W × W :=
  let p0 : DW := (0xD2511F53 : DW) * c.1.setWidth 64
  let p1 : DW := (0xCD9E8D57 : DW) * c.2.2.1.setWidth 64
  (hi32 p1 ^^^ c.2.1 ^^^ k0, lo32 p1, hi32 p0 ^^^ c.2.2.2 ^^^ k1, lo32 p0)
/-- n rounds; the key is raised before every round but the first. -/
def philoxFrom : Nat → W × W × W × W → W → W → W × W × W × W
  | 0, c, _, _ => c
  | n + 1, c, k0, k1 => philoxFrom n (philoxRound c k0 k1) (k0 + 0x9E3779B9) (k1 + 0xBB67AE85)
def philox (c : W × W × W × W) (seed : DW) : W × W × W × W := philoxFrom 10 c (lo32 seed) (hi32 seed)
def execRng (x : RB) (s : State) : Res :=
  regOp (.rng x) (fun e =>
    let r (l : Nat) : W × W × W × W := philox (e.st.rv x.a l, e.st.rv (x.a + 1) l, e.st.rv (x.a + 2) l, e.st.rv (x.a + 3) l) (e.st.src64 x.b l)
    ((((e.st.wv e.q x.d .auto fun l => (r l).1).wv e.q (x.d + 1) .auto fun l => (r l).2.1).wv e.q (x.d + 2) .auto fun l => (r l).2.2.1).wv e.q (x.d + 3) .auto fun l => (r l).2.2.2, [])) s

/-- The next boundary of a loop after a time (R78): of the value in force, or, from its first boundary on, of a new value. -/
def Loop.boundary (lp : Loop) (t : Nat) : Nat :=
  let after (n : Nat) : Nat := (t / max 1 n + 1) * max 1 n
  match lp.newInt with
  | some (n, b) => if t < b then min (after lp.interval) b else after n
  | none => after lp.interval
/-- TIME's values. -/
def timeVal (s : State) (e : Env) (sel : Nat) : Nat :=
  match s.ctx e.ctx with
  | none => 0
  | some c =>
    match sel with
    | 0 => s.guestNow e.ctx
    | 1 => c.loop.k
    | 2 => c.loop.boundary s.now - s.now
    | 3 => c.loop.bcnt
    | 4 => c.loop.mlast
    | _ => c.loop.target
def execTime (x : RDB) (s : State) : Res :=
  .next (s.on (.time x) fun e s =>
    let j := e.judge fun l => if 5 < (e.st.src x.b l).toNat then some 0x04 else none
    s.commit e (if j.1 = 0 then e.st else e.st.wv64 j.1 x.d .noA fun l => BitVec.ofNat 64 (timeVal s e (e.st.src x.b l).toNat)) j.2)

end Sys2Proof.Machine
end

