-- ==== Sys2Proof/Machine/Teams.lean ====
section
/-! DEFINITION. Joining and leaving teams, and the end of threads and stands (06 R123, R130 to R133, 07 R173 to R178, 17 R365). -/
namespace Sys2Proof.Machine

/-! Stores and records (R130, R132) -/

/-- Tile-store and accumulator-store bytes a team takes. -/
def tileBytes (tiles : Nat) : Nat := 16384 * tiles
def accStore (accs : Nat) : Nat := accs * (if accs ≤ 4 then 32768 else 16384)
/-- Bytes of a core's stores in use. -/
def State.storesUsed (s : State) (g : Nat) : Nat × Nat :=
  (s.teams.filter fun t => decide (t.2.home = g)).foldl (fun p t => (p.1 + tileBytes t.2.tiles, p.2 + accStore t.2.accs)) (0, 0)
/-- Has a core room for a team of a launch (128 KiB of each store)? -/
def State.roomFor (s : State) (h : Header) (g : Nat) : Bool :=
  let u := s.storesUsed g
  decide (u.1 + tileBytes h.tiles ≤ 131072 ∧ u.2 + accStore h.accs ≤ 131072)
/-- The home core of a new team: the forming thread's, else the lowest of the cluster with room; none when no record or no core has room. -/
def State.homeFor (s : State) (h : Header) (g : Nat) : Option Nat :=
  if 128 ≤ (s.teams.filter fun t => decide (t.2.cl = clusterOf g)).length then none
  else if s.roomFor h g then some g
  else ((List.range 4).map fun i => 4 * clusterOf g + i).find? (s.roomFor h)
/-- A new team's state (R132, R276). -/
def Team.start (cl c num size launch home batch : Nat) (h : Header) : Team :=
  { cl := cl, ctx := c, num := num, size := size, count := 1, launch := launch, home := home, tiles := h.tiles, accs := h.accs, barN := 0, barPh := 0,
    cv := List.replicate 8 Cv.idle, tile := List.replicate h.tiles { r := 0, k := 0, fmt := 0, sb := 0, el := [] }, acc := List.replicate h.accs { m := 0, n := 0, ty := 0, el := [] },
    latch := List.replicate 128 [], depth := [0, 0, 0, 0], queue := [], openB := { id := batch, left := 0, targets := [], faults := [] }, batches := [], nextB := 0, locks := [], saved := false }
/-- The team of a number that JOIN finds: one whose size has reached 0 no longer exists (R176). -/
def State.teamOf (s : State) (cl c num : Nat) : Option (Nat × Team) :=
  s.teams.find? fun t => decide (t.2.cl = cl ∧ t.2.ctx = c ∧ t.2.num = num ∧ t.2.size ≠ 0)

/-- Form a team, if there is room. -/
def State.form (s : State) (g key l c num size lk : Nat) (h : Header) : Option State :=
  (s.homeFor h g).map fun home =>
    let tid := s.seq
    ({ s with teams := s.teams ++ [(tid, Team.start (clusterOf g) c num size lk home (tid + 1) h)], seq := tid + 2 }).onT key false l fun t => { t with team := some tid }
/-- Join a team that exists; or a cause. -/
def State.joinTeam (s : State) (key l tid : Nat) (t : Team) (size : Nat) : Except Nat State :=
  if size ≠ t.size then .error 0x21
  else if t.size ≤ t.count then .error 0x22
  else .ok ((s.onTeam tid fun t => { t with count := t.count + 1 }).onT key false l fun x => { x with team := some tid })
/-- Is a JOIN that waits still waiting? -/
def State.joinLive (s : State) (j : JoinWait) : Bool :=
  match s.stand (standKey j.g j.slot) with
  | some st => decide ((st.tw j.lane).st = .parked .join)
  | none =>
    (s.outs.any fun o => decide (o.g = j.g) && (match Store.find j.slot o.stands with | some st => decide ((st.tw j.lane).st = .parked .join) | none => false))
    || s.returning.any fun e => decide (e.1 = j.g ∧ e.2.1 = j.slot ∧ (e.2.2.tw j.lane).st = .parked .join)

/-- JOIN of one participant (R131, R174). It parks when its team is still to form, or when no record or no core has room (R132). -/
def State.joinLane (s : State) (e : Env) (x : RAB) (l : Nat) : State × List Raise :=
  let n := (e.st.rv x.a l).toNat
  let size := (e.st.src x.b l).toNat
  let cl := clusterOf e.sq.g
  let w := e.who l
  let park (s : State) : State :=
    { s.parkAt e (bit l) .join fun _ t => { t with w := { t.w with next := e.next } } with
      joins := s.joins ++ [{ cl := cl, ctx := e.ctx, num := n, size := size, g := w.1, slot := w.2.1, lane := w.2.2 }] }
  if 127 < n then (s, raiseAll (bit l) 0x23)
  else if size < 1 ∨ 4096 < size then (s, raiseAll (bit l) 0x21)
  else if (e.team l).isSome then (s, raiseAll (bit l) 0x23)
  else
    match s.teamOf cl e.ctx n with
    | some (tid, t) => (match s.joinTeam e.key l tid t size with | .ok s => (s, []) | .error c => (s, raiseAll (bit l) c))
    | none =>
      if (s.joins.filter fun j => decide (j.cl = cl ∧ j.ctx = e.ctx ∧ j.num = n)).any s.joinLive then (park s, [])
      else match s.form e.sq.g e.key l e.ctx n size e.sq.launch e.l.hdr with
        | some s => (s, [])
        | none => (park s, [])
def execJoin (x : RAB) (s : State) : Res := .next (s.onLanes (.join x) 0 fun e l s => s.joinLane e x l)

/-- A waiting JOIN whose team now exists joins it, or takes its cause. -/
def State.joinNow (s : State) (j : JoinWait) (tid : Nat) : State :=
  let key := standKey j.g j.slot
  match s.team tid, s.stand key with
  | some t, some st =>
    let th := st.tw j.lane
    (match s.joinTeam key (j.lane % 32) tid t j.size with
      | .ok s => s.proceed (j.g, j.slot, j.lane)
      | .error c =>
        (match s.launch st.launch with
          | some l => s.takeAny (j.g, j.slot, j.lane) { cause := c, kind := 0, acc := 0, ghost := false, lanes := [{ lane := j.lane % 32, pkt := l.pkt th.pc, slot := th.slot, addr := 0, retPc := th.pc, retSlot := th.slot }] }
          | none => s))
  | _, _ => s
/-- TEAM_FORM (R132, R176): the oldest waiting JOIN of a cluster forms its team, and those that wait for it join. -/
def execTeamForm (cl : Nat) (s : State) : Res :=
  let s := { s with joins := s.joins.filter s.joinLive }
  let mine := s.joins.filter fun j => decide (j.cl = cl)
  let here (j : JoinWait) : Bool := match s.stand (standKey j.g j.slot) with | some st => decide (st.place = .resident) | none => false
  match mine.filter here with
  | [] => .next s
  | j :: _ =>
    let rest (s : State) (js : List JoinWait) (tid : Nat) : State := js.foldl (fun s k => s.joinNow k tid) { s with joins := s.joins.filter fun k => !(js.contains k) }
    let same := mine.filter fun k => here k && decide (k.ctx = j.ctx ∧ k.num = j.num)
    match s.teamOf cl j.ctx j.num with
    | some (tid, _) => .next (rest s same tid)
    | none =>
      match s.stand (standKey j.g j.slot) with
      | none => .next s
      | some st =>
        match s.launch st.launch with
        | none => .next s
        | some l =>
          match s.form j.g (standKey j.g j.slot) (j.lane % 32) j.ctx j.num j.size st.launch l.hdr with
          | none => .next s
          | some s1 =>
            .next (rest (({ s1 with joins := s1.joins.filter fun k => decide (k ≠ j) }).proceed (j.g, j.slot, j.lane)) (same.filter fun k => decide (k ≠ j)) s.seq)

/-! Leaving (R133, R177) -/

/-- Free a team's record and stores. -/
def State.freeTeam (s : State) (tid : Nat) : State := { s with teams := s.teams.del tid }
/-- A program thread leaves its team: true when, as last leaver, it has to wait for the team's operations. -/
def State.leaveTeam (s : State) (key l : Nat) (who : Who) : State × Bool :=
  let clear (s : State) : State := s.onT key false l fun t => { t with team := none, barP := false, syncW := false }
  let th := ((s.stand key).map fun st => st.t false l).getD Thread.gone
  match th.team.bind fun tid => (s.team tid).map fun t => (tid, t) with
  | none => (clear s, false)
  | some (tid, t) =>
    if t.size = 0 then
      let t1 := t.forgive who ((t.openB :: t.batches).map (·.id))
      (if t1.queue.isEmpty ∧ (t1.openB :: t1.batches).all (fun b => b.faults.isEmpty) then (clear (s.freeTeam tid), false) else (s.onTeam tid fun _ => t1, true))
    else
      let s := s.onTeam tid fun t => { t with barN := if th.barP && decide (th.barPh = t.barPh) then t.barN - 1 else t.barN, size := t.size - 1, count := t.count - 1 }
      if t.size = 1 then
        (if t.queue.isEmpty then (clear (s.freeTeam tid), false) else (s, true))
      else (((clear s).barJudge tid).reAccept tid, false)
/-- LEAVE. -/
def State.leaveLane (s : State) (e : Env) (l : Nat) : State × List Raise :=
  if (e.team l).isNone then (s, raiseAll (bit l) 0x23)
  else
    let r := s.leaveTeam e.key l (e.who l)
    (if r.2 then r.1.parkAt e (bit l) .leave fun _ t => { t with w := { t.w with next := e.next } } else r.1, [])
def execLeave (x : C0) (s : State) : Res := .next (s.onLanes (.leave x) 0 fun e l s => s.leaveLane e l)

/-- TINFO (R178). -/
def State.tinfo (s : State) (e : Env) (sel l : Nat) : Nat :=
  match (e.team l).bind s.team with
  | none => if sel = 0 then 0xFFFFFFFF else 0
  | some t => match sel with
    | 0 => t.num
    | 1 => t.size
    | 2 => t.count
    | 3 => t.home
    | _ => t.barN
def execTinfo (x : RDB) (s : State) : Res :=
  .next (s.on (.tinfo x) fun e s =>
    let j := e.judge fun l => if 4 < (e.st.src x.b l).toNat then some 0x04 else none
    s.commit e (if j.1 = 0 then e.st else e.st.wv j.1 x.d .auto fun l => BitVec.ofNat 32 (s.tinfo e (e.st.src x.b l).toNat l)) j.2)

/-! The end of threads and stands (R173, R365) -/

/-- Does a thread hold skid entries that are not acknowledged? -/
def State.holdsEntry (s : State) (g slot l : Nat) : Bool :=
  (s.reqs.any fun r => r.2.team.isNone && r.2.ofThread g slot l) || s.cpys.any fun c => decide (c.2.g = g ∧ c.2.slot = slot ∧ c.2.lane = l)
/-- The ghost records of a core: exited threads with entries outstanding. -/
def State.ghosts (s : State) (g : Nat) : List (Nat × Nat) :=
  distinct ((s.reqs.filter fun r => decide (r.2.g = g ∧ r.2.slot < 32) && r.2.team.isNone).flatMap (fun r => ((r.2.open_.filter (·.ghost)).map fun a => (r.2.slot, a.lane))) ++
    (s.cpys.filter fun c => decide (c.2.g = g) && (match s.stand (standKey g c.2.slot) with | some st => decide ((st.t false c.2.lane).st = .exited) | none => false)).map fun c => (c.2.slot, c.2.lane))
/-- Has the ghost table room for the lanes of a stand that exit? -/
def State.ghostRoom (s : State) (g slot : Nat) (q : W) : Bool :=
  decide ((s.ghosts g).length + ((lanesOf q).filter (s.holdsEntry g slot)).length ≤ 64)
/-- A launch's scratchpad on a core is freed when its last stand there is gone (R67). -/
def State.scrFree (s : State) (lk g : Nat) : State :=
  if ((s.standsOn g).any fun e => decide (e.2.launch = lk)) || (s.outs.any fun o => decide (o.g = g) && o.stands.any fun e => decide (e.2.launch = lk)) then s
  else { s with scr := s.scr.del (scrKey lk g) }
/-- The slot of a stand is freed when no live thread, ghost record, handler or delivery is left (R67, R173). -/
def State.reap (s : State) (key : Nat) : State :=
  match s.stand key with
  | none => s
  | some st =>
    let g := gOf key
    let slot := slotOf key
    if st.live ≠ 0 ∨ st.h.isSome ∨ st.dl ≠ [] then s
    else if (s.reqs.any fun r => decide (r.2.g = g ∧ r.2.slot = slot ∧ r.2.launch = st.launch ∧ r.2.team = none) && !r.2.open_.isEmpty) || s.cpys.any fun c => decide (c.2.g = g ∧ c.2.slot = slot) then s
    else
      let s1 := { s with stands := s.stands.del key, ops := s.ops.filter fun o => decide (o.2.g ≠ g ∨ o.2.slot ≠ slot), walks := s.walks.filter fun w => decide (w.2.g ≠ g ∨ w.2.slot ≠ slot) }
      s1.scrFree st.launch g
/-- A lane's outstanding counted operations write nothing for it any more; its requests are the ghost's, and notices it holds become ghost deliveries. -/
def Op.dropLane (g slot l : Nat) (hdl : Bool) (o : Op) : Op := if o.g = g ∧ o.slot = slot ∧ (hdl ∨ o.hdl = false) then { o with q := o.q &&& ~~~(bit l) } else o
def RLane.ghostly (l : Nat) (again : Bool) (a : RLane) : RLane := if a.lane = l ∧ a.done = false then { a with ghost := true, note := a.note && !again } else a
def Req.ghostly (g slot l : Nat) (held : List Nat) (id : Nat) (r : Req) : Req :=
  if r.g = g ∧ r.slot = slot ∧ r.team = none then { r with lanes := r.lanes.map (RLane.ghostly l (held.contains id)) } else r
def MOp.unsign (g slot l : Nat) (o : MOp) : MOp :=
  { o with fl := o.fl.filter fun w => !decide (w.1 = g ∧ w.2.1 = slot ∧ w.2.2.1 % 32 = l), signers := o.signers.filter fun w => !decide (w.1 = g ∧ w.2.1 = slot ∧ w.2.2 % 32 = l) }
/-- The stalls of lanes of a stand are given up. -/
def State.dropWalks (s : State) (key : Nat) (hdl : Bool) (q : W) : State :=
  { s with walks := s.walks.filter fun w => !(decide (w.2.g = gOf key ∧ w.2.slot = slotOf key ∧ w.2.hdl = hdl) && inMask q w.2.lane) }
/-- A program thread exits, its team left already (R173 items 2 and 3). hdl: it exits in its handler, whose thread ends too. -/
def State.exitLane (s : State) (key l : Nat) (hdl : Bool) : State :=
  let g := gOf key
  let slot := slotOf key
  let held := ((s.stand key).map fun st => (st.t false l).notices.map (·.req)).getD []
  let ops : Store Op := s.ops.map fun o => (o.1, o.2.dropLane g slot l hdl)
  let reqs : Store Req := s.reqs.map fun r => (r.1, r.2.ghostly g slot l held r.1)
  let teams : Store Team := s.teams.map fun t => (t.1, { t.2 with queue := t.2.queue.map (MOp.unsign g slot l) })
  let s := { s with ops := ops, reqs := reqs, teams := teams }
  let s := (((s.dropWalks key false (bit l)).dropLanes key false (bit l)).onT key false l fun t => { t.leave with notices := [] })
  let s := if hdl then (s.dropLanes key true (bit l)).onT key true l Thread.leave else s
  let s := s.onStand key fun st => if st.live = 0 then { st with v := [], spilledV := [], reload := [], need := 0 } else st
  s.reap key

end Sys2Proof.Machine
end

