-- ==== Sys2Proof/Machine/TrapOps.lean ====
section
/-! DEFINITION. The TRAP group, EXIT, the return from a handler, hold queues under RESUME and DROP, and acknowledgements (07 R173, 10 R235, R236, 14 R323, 17 R383 to R388). -/
namespace Sys2Proof.Machine

/-! Exits and returns -/

/-- The thread of a lane exits: LEAVE first, which may park it as last leaver, at the EXIT that it executes (R173). -/
def State.exitOne (s : State) (key l : Nat) (hdl : Bool) (at_ : Option (BitVec 52 × Nat)) : State :=
  let w : Who := (gOf key, slotOf key, if hdl then l + 32 else l)
  let r := s.leaveTeam key l w
  if r.2 then (r.1.dropLanes key hdl (bit l)).onT key hdl l fun t => { t with st := .parked .leave, pc := (at_.map (·.1)).getD t.pc, slot := (at_.map (·.2)).getD t.slot, w := { t.w with next := 99 } }
  else r.1.exitLane key l hdl
/-- The set-aside registers are the program's again (R360). -/
def Stand.restore (st : Stand) (h : Handler) : Stand :=
  if h.whole then { st with s := h.saveS ++ st.s.drop 4, v := h.saveV ++ st.v.drop 4, p := h.saveP ++ st.p.drop 4 } else st
/-- Lanes a return makes exit: live at delivery and clear in TMASKA (R385). -/
def Stand.leaving (st : Stand) (h : Handler) : W := h.liveAt &&& ~~~st.tmaska &&& st.live
/-- Would the ghost table hold the lanes that a return makes exit (R365)? -/
def State.exitRoom (s : State) (key : Nat) : Bool :=
  match s.stand key with
  | some st => (match st.h with | some h => s.ghostRoom (gOf key) (slotOf key) (st.leaving h) | none => true)
  | none => true
/-- The end of a handler (R385): registers restored, lanes exit or resume; then the next delivery. -/
def State.endHandler (s : State) (key : Nat) (skip : Bool) : State :=
  match s.stand key with
  | none => s
  | some st =>
    match st.h, s.launch st.launch with
    | some h, some l =>
      let go := if h.dv.ghost then [] else h.dv.lanes.filter fun x => inMask (st.live &&& ~~~(st.leaving h)) x.lane
      let st1 := go.foldl (fun st x => st.onT false x.lane (x.back h.dv skip (s.lenAt l x.pkt x.slot) (s.cyc (gOf key)) fun p => l.codePc + BitVec.ofNat 52 p)) (st.restore h)
      let s := (s.dropLanes key true 0xFFFFFFFF).setStand key { st1 with h := none }
      let s := (lanesOf (st.leaving h)).foldl (fun s x => s.exitOne key x false none) (if skip then s.dropWalks key false (maskOf (go.map (·.lane))) else s)
      (s.tryDeliver key).reap key
    | _, _ => s

/-- Have all lanes of a mode-1 handler returned or exited? -/
def Handler.past (h : Handler) : Bool := h.thr.all fun t => decide (t.st = .parked .rtt ∨ t.st = .exited)
/-- The form of the lowest lane that returned. -/
def Handler.form (h : Handler) : Bool :=
  ((h.rtt.find? fun p => h.rtt.all fun q => decide (p.1 ≤ q.1)).map (·.2)).getD false
/-- End a handler in which no thread is left to run. -/
def State.handlerOver (s : State) (key : Nat) : State :=
  match (s.stand key).bind (·.h) with
  | some h => if h.past then s.endHandler key h.form else s
  | none => s

/-- The last leaver that waits for a team. -/
def Stand.lastLeaver (st : Stand) (tid : Nat) : Option Nat :=
  (List.range 64).find? fun n => decide ((st.tw n).st = .parked .leave ∧ (st.t false (n % 32)).team = some tid)
/-- The first fault of a left team's batches that its last leaver has not been told of. -/
def State.leaverFault (s : State) (tid : Nat) (t : Team) (w : Who) : Option (Nat × BFault) :=
  (t.openB :: t.batches).findSome? fun b => ((s.batchFaults tid t b.id).find? fun f => !(f.told.contains w)).map fun f => (b.id, f)
/-- TEAM_FREE (R133, R291): every operation of a left team has completed, and its last leaver goes on; or a fault of its operations is delivered to it. -/
def execTeamFree (tid : Nat) (s : State) : Res :=
  match s.team tid with
  | none => .next s
  | some t =>
    if t.size ≠ 0 then .next s
    else
      match (s.stands.filter fun e => decide (e.2.place = .resident)).findSome? fun e => (e.2.lastLeaver tid).map fun n => (e.1, e.2, n) with
      | none => .next s
      | some (key, st, n) =>
        let w : Who := (gOf key, slotOf key, n)
        let th := st.tw n
        match s.leaverFault tid t w with
        | some (b, f) => .next ((s.onTeam tid fun t => t.tell [w] b f).takeAny w (f.delivery [(n % 32, th.pc, th.slot)]))
        | none =>
        if t.queue.isEmpty then
          if th.w.next = 99 then
            (if s.ghostRoom (gOf key) (slotOf key) (bit (n % 32)) then .next ((((s.freeTeam tid).onT key false (n % 32) fun t => { t with team := none }).exitLane key (n % 32) (decide (32 ≤ n))).handlerOver key) else .next s)
          else .next (((s.freeTeam tid).onT key false (n % 32) fun t => { t with team := none, barP := false }).proceed w)
        else .next s

/-- EXIT of one participant (R173); a handler's last thread to go ends the handler. -/
def State.exitPart (s : State) (key l : Nat) (hdl : Bool) (at_ : BitVec 52 × Nat) : State :=
  let s := s.exitOne key l hdl (some at_)
  if hdl then s.handlerOver key else s
def execExit (x : C0) (s : State) : Res :=
  if s.envs.all fun e => s.ghostRoom e.sq.g e.slot e.q && (!e.sq.hdl || s.exitRoom e.key) then
    .next (s.onLanes (.exit x) 0 fun e l s => (s.exitPart e.key l e.sq.hdl (e.sq.pc, e.sq.k), []))
  else .next s.again

/-- RTT (R385). Handler flags that are not 0 stall it. -/
def rttOp (i : Instr) (skip : Bool) (s : State) : Res :=
  if s.envs.any fun e => e.sq.hdl && (!(s.exitRoom e.key) || (lanesOf e.q).any fun l => (e.raw.t true l).flags.any fun f => decide (f ≠ 0)) then .next s.again
  else .next (s.on i fun e s =>
    if e.sq.hdl then
      let mark (h : Handler) : Handler := { h with rtt := h.rtt ++ (lanesOf e.q).map fun l => (l, skip) }
      (((s.parkAt e e.q .rtt fun _ t => t).onStand e.key fun st => { st with h := st.h.map mark })).handlerOver e.key
    else s.raise e 0 .here (raiseAll e.q 0x05))
def execRtt (x : C0) (s : State) : Res := rttOp (.rtt x) false s
def execRttSkip (x : C0) (s : State) : Res := rttOp (.rttSkip x) true s

/-- TRAP and BRK (R384). -/
def execTrap (x : RB1) (s : State) : Res :=
  .next (s.on (.trap x) fun e s => s.raise e 0 .next ((lanesOf e.q).map fun l => { lane := l, cause := (e.st.src x.b l).toNat, addr := 0 }))
def execBrk (x : RB1) (s : State) : Res :=
  .next (s.on (.brk x) fun e s => s.raise e 0 .next ((lanesOf e.q).map fun l => { lane := l, cause := 0x30, addr := BitVec.ofNat 64 (e.st.src x.b l).toNat }))

/-! The program's registers (R386) -/

/-- The stand with the program's V0 to V3 where the names of R386 mean them. -/
def Stand.program (st : Stand) : Stand :=
  match st.h with
  | some h => if h.whole then { st with v := h.saveV ++ st.v.drop 4 } else st
  | none => st
/-- Back into the set-aside copies. -/
def Stand.unprogram (st : Stand) (w : Stand) : Stand :=
  match st.h with
  | some h => if h.whole then { st with v := st.v.take 4 ++ w.v.drop 4, h := some { h with saveV := w.v.take h.saveV.length } } else { st with v := w.v }
  | none => st
/-- The lane an LMOV names. -/
def Env.lmLane (e : Env) (b : Src) (l : Nat) : Nat := (e.st.src b l).toNat % 32
/-- May LMOV.W write a lane: live, and not running outside TMASKF? -/
def Stand.lmOpen (st : Stand) (l : Nat) : Bool :=
  let t := st.t false l
  decide (t.st ≠ .exited) && (inMask st.tmaskf l || !decide (t.st = .ready ∨ t.st = .stalled ∨ t.st = .issuing) || (match st.h with | some h => h.whole | none => false))
def execLmovR (x : RB) (s : State) : Res :=
  .next (s.on (.lmovR x) fun e s =>
    if !e.sq.hdl then s.raise e 0 .here (raiseAll e.q 0x05)
    else if e.raw.spilledV.contains x.a then s.parkGran e 0 [x.a]
    else s.commit e (e.st.wv e.q x.d .auto fun l => e.raw.program.rv x.a (e.lmLane x.b l)) [])
def execLmovW (x : RB) (s : State) : Res :=
  .next (s.on (.lmovW x) fun e s =>
    if !e.sq.hdl then s.raise e 0 .here (raiseAll e.q 0x05)
    else if e.raw.spilledV.contains x.d then s.parkGran e 0 [x.d]
    else
      let put (st : Stand) (l : Nat) : Stand := let t := e.lmLane x.b l; if e.raw.lmOpen t then st.wv (bit t) x.d .part fun _ => e.st.rv x.a l else st
      let st := e.raw.unprogram ((lanesOf e.q).foldl put e.raw.program)
      if s.lacks e.sq.g e.raw st then s.parkGran e (st.hold - e.raw.hold) []
      else s.setStand e.key (st.spent e.raw e.q))

/-! RESUME and DROP (R387, R323, R333) -/

def holdOp (i : Instr) (drop : Bool) (x : RU) (s : State) : Res :=
  let addr (e : Env) (l : Nat) : Nat := (e.st.rv64 x.a l).toNat
  if s.envs.any fun e => !e.sq.hdl then .next (s.on i fun e s => s.raise e 0 .here (raiseAll e.q 0x05))
  else
    s.gate (fun e => ((lanesOf e.q).map (addr e)).filter fun a => (s.pre e a 1 anyRegion).isNone) fun s =>
      s.ordered { acq := true, rel := true, scope := 9 } fun s =>
        s.stallOp i
          (fun e s =>
            let bad := (lanesOf e.q).filterMap fun l => (s.pre e (addr e l) 1 anyRegion).map fun c => { lane := l, cause := c, addr := BitVec.ofNat 64 (addr e l) }
            if !bad.isEmpty then s.raise e 0 .here bad
            else (lanesOf e.q).foldl (fun s l =>
              let y := s.normal (addr e l)
              if region y = 4 then s else s.stall e l (.hold drop e.ctx (s.tagAt e y) (y / 65536) x.d)) s)
          (fun ws e s =>
            let ok (l : Nat) : Bool := match ws.find? fun w => decide (w.lane = l) with | some w => decide (w.status = some 1) | none => true
            s.commit e (e.st.wp e.q x.d ok) [])
def execResume (x : RU) (s : State) : Res := holdOp (.resume x) false x s
def execDrop (x : RU) (s : State) : Res := holdOp (.drop x) true x s

/-- A delivery without some of its lanes; none when no lane is left. -/
def Delivery.without (p : DLane → Bool) (d : Delivery) : Option Delivery :=
  if d.lanes.any p then (if d.lanes.all p then none else some { d with lanes := d.lanes.filter fun x => !p x }) else some d
/-- The notice of a settled lane of a request is withdrawn (R366): the one its thread holds, and the delivery not made yet, whose thread resumes where it stood. -/
def Stand.withdrawLane (id lane cyc : Nat) (st : Stand) : Stand :=
  let mine (x : DLane) : Bool := decide (x.req = some id ∧ x.lane = lane)
  let gone := st.dl.flatMap fun d => if d.ghost then [] else d.lanes.filter mine
  let st := gone.foldl (fun st x => st.onT false x.lane fun t => if t.st = .parked .delivery then { t.ready cyc with pc := x.retPc, slot := x.retSlot } else t) st
  { st with dl := st.dl.filterMap (Delivery.without mine), thr := st.thr.modify lane fun t => { t with notices := t.notices.filter fun n => decide (n.req ≠ id) } }

/-- The lanes of a request that are done. -/
def Req.settle (lane : Nat) (r : Req) : Req := { r with lanes := r.lanes.map fun a => if a.lane = lane then { a with done := true, parked := none } else a }
/-- One lane of a parked request is settled: its entry is free, its notice withdrawn, its slot perhaps free. -/
def State.settleLane (s : State) (id : Nat) (r : Req) (lane : Nat) : State :=
  let r := r.settle lane
  let reqs := if r.open_.isEmpty then s.reqs.del id else Store.put id r s.reqs
  let s := { s with reqs := reqs }
  if r.team.isSome then s else (s.onStandAny r.g r.slot r.launch (Stand.withdrawLane id lane (s.cyc r.g))).reap (standKey r.g r.slot)
/-- The value of an atomic reaches its counted operation. -/
def Op.give (lane : Nat) (v : List Byte) (o : Op) : Op := { o with lanes := o.lanes.map fun a => if a.lane = lane then { a with got := v } else a }
/-- DROP of an atomic (R333): its flag falls, its register stays unwritten. -/
def State.dropGive (s : State) (id lane : Nat) : State :=
  match Store.find id s.ops with
  | none => s
  | some o =>
    let s := if inMask o.q lane then s.onStandAny o.g o.slot o.launch fun st => st.onT o.hdl lane fun t => t.flagDown (s.cyc o.g) o.flag else s
    let o' := { o with q := o.q &&& ~~~(bit lane), lanes := o.lanes.filter fun a => decide (a.lane ≠ lane) }
    { s with ops := if o'.lanes.isEmpty then s.ops.del id else Store.put id o' s.ops }

/-- An ordered part that is settled lets the line expect the next index (R294). -/
def State.ordNext (s : State) (r : Req) : State :=
  match r.ord with
  | none => s
  | some (seq, last) =>
    let rec_ := (s.ordRec r.tag (lineOf r.x)).getD { tag := r.tag, line := lineOf r.x, expect := 0, held := [] }
    let next := if last then 0 else seq + 1
    let s := s.setOrd { rec_ with expect := next, held := rec_.held.filter fun x => decide (x.1 ≠ next) }
    (match rec_.held.find? fun x => decide (x.1 = next) with
      | some (_, rid) => s.ordAdd rid 17
      | none => s)

/-- Perform one parked lane at its home; false when it faults again. -/
def State.replay (s : State) (id lane : Nat) : State × Bool :=
  match Store.find id s.reqs with
  | none => (s, true)
  | some r =>
    match r.lanes.find? fun a => decide (a.lane = lane) with
    | none => (s, true)
    | some a =>
      match s.landReq r true with
      | .error c =>
        ({ s with fresh := s.fresh + 1, reqs := Store.put id { r with lanes := r.lanes.map fun b => if b.lane = lane then { b with parked := some c, note := false } else b } s.reqs }, false)
      | .ok h =>
        let one := { r with lanes := [{ a with parked := none, done := false }] }
        let p := s.perform one h
        let s := p.1
        let s := match r.op with | some o => { s with ops := Store.adjust o (Op.give lane (p.2.headD (0, [])).2) s.ops } | none => s
        ((s.settleLane id r lane).ordNext r, true)
/-- Perform the items of a queue in order, until one faults. -/
def State.replayAll (s : State) : List (Nat × Nat) → State × List (Nat × Nat)
  | [] => (s, [])
  | (id, lane) :: t =>
    let r := s.replay id lane
    if r.2 then r.1.replayAll t else (r.1, (id, lane) :: t)
/-- Discard one parked lane. -/
def State.discard (s : State) (id lane : Nat) : State :=
  match Store.find id s.reqs with
  | none => s
  | some r =>
    let s := match r.op with | some o => s.dropGive o lane | none => s
    (s.settleLane id r lane).ordNext r
/-- Is a queue's page present with the permissions its requests need? The landing walks again, for the context of the RESUME. -/
def State.queueOpen (s : State) (c : Nat) (h : Hold) : Bool :=
  let x := h.page * 65536
  if region x = 3 then true
  else
    match s.walk c x with
    | none => false
    | some l => h.items.all fun i =>
        match Store.find i.1 s.reqs with
        | some r => (!r.kind.need.rd || l.rd) && (!r.kind.need.wr || l.wr) && (!r.kind.need.at_ || l.at_) && (!r.kind.need.mx || l.mx)
        | none => true
/-- The queues of a page under a tag. -/
def State.queuesOf (s : State) (tag page : Nat) : List Hold := s.holds.filter fun h => decide (h.tag = tag ∧ h.page = page)
/-- Put back what is left of a queue. -/
def State.leaveHold (s : State) (h : Hold) (items : List (Nat × Nat)) : State :=
  let same (k : Hold) : Bool := decide (k.stack = h.stack ∧ k.tag = h.tag ∧ k.page = h.page)
  if items.isEmpty then { s with holds := s.holds.filter fun k => !same k }
  else { s with holds := s.holds.map fun k => if same k then { h with items := items } else k }
/-- RESUME at one landing. -/
def State.resumeQueue (s : State) (c : Nat) (h : Hold) : State :=
  let s := { s with tlb := s.tlb.filter fun t => !decide (t.stack = h.stack ∧ t.tag = h.tag ∧ t.vpage = h.page * 65536 / 2 ^ t.leaf.size) }
  if s.queueOpen c h then
    let r := s.replayAll h.items
    r.1.leaveHold h r.2
  else s
/-- DROP at one landing. -/
def State.dropQueue (s : State) (h : Hold) : State := (h.items.foldl (fun s i => s.discard i.1 i.2) s).leaveHold h []
/-- LANDINGS_ANSWERED: the eight landings have answered a RESUME or DROP. -/
def execLandingsAnswered (id : Nat) (s : State) : Res :=
  match Store.find id s.walks with
  | none => .next s
  | some w =>
    match w.kind with
    | .hold drop c tag page _ =>
      if w.status.isSome then .next s
      else
        let qs := s.queuesOf tag page
        let s1 := qs.foldl (fun s h => if drop then s.dropQueue h else s.resumeQueue c h) s
        let st := if drop then decide (qs.any fun h => !h.items.isEmpty) else (s1.queuesOf tag page).isEmpty
        .next { s1 with walks := Store.put id { w with status := some (if st then 1 else 0) } s1.walks }
    | .send _ _ _ => .next s
    | .tdiscard _ _ => .next s
    | .tdesc _ => .next s

/-- STORE_ACK (R235): the home of a request that no counted operation and no order record waits for has performed it; its skid entries are free. -/
def execStoreAck (id : Nat) (s : State) : Res :=
  match Store.find id s.reqs with
  | none => .next s
  | some r =>
    if r.op.isSome || r.ord.isSome || (r.open_.any fun a => a.parked.isSome) || !(s.reqReady id r) then .next s
    else
      match s.fate r with
      | .perform h => .next ((s.siblings id r).foldl (fun s q => s.reap (standKey q.2.g q.2.slot)) (s.acknowledge id r h))
      | .park _ => .next s
      | .full => .next s

end Sys2Proof.Machine
end

