-- ==== Sys2Proof/Machine/Report.lean ====
section
/-! DEFINITION. The cause table, report rings, kills (17 R357, 19 R399 to R406). -/
namespace Sys2Proof.Machine

/-! The cause table (R403, R404) -/

def CauseEnt.clear : CauseEnt := { pend := false, mask := false, again := false, part := 0, ctx := 0, fn := 0 }
def State.causeEnt (s : State) (i : Nat) : CauseEnt := (Store.find i s.regs.cause).getD CauseEnt.clear
/-- Bit g of HQ_CSUM. -/
def State.csum (s : State) (g : Nat) : Bool := s.regs.cause.any fun e => decide (e.1 / 64 = g) && e.2.pend && !e.2.mask
/-- Change an entry; the group's vector is sent when its bit rises. -/
def State.setCause (s : State) (i : Nat) (e : CauseEnt) : State :=
  let t := { s with regs := { s.regs with cause := Store.put i e s.regs.cause } }
  if !(s.csum (i / 64)) && t.csum (i / 64) then { t with outbox := t.outbox ++ [.msix 0 (i / 64)] } else t
/-- An event of a source: PEND, or AGAIN when it is pending already. -/
def State.causeEvent (s : State) (i part ctx : Nat) : State :=
  let e := s.causeEnt i
  s.setCause i { e with pend := true, again := e.again || e.pend, part := part, ctx := ctx, fn := (s.part part).fn }

/-! Report rings (R400 to R402) -/

/-- The fields of a report record. -/
structure Rep where
  type : Nat
  cause : Nat
  queue : Nat
  ctx : Nat
  part : Nat
  err : Nat
  flags : Nat
  launch : Nat
  node : Nat
  tlin : Nat
  ord : Nat
  pos : Nat
  addr : Nat
  deriving DecidableEq, Repr
def Rep.blank (type cause : Nat) : Rep :=
  { type := type, cause := cause, queue := 0xFFFF, ctx := 0, part := 0, err := 0, flags := 0, launch := 0, node := 0xFFFFFFFF, tlin := 0, ord := 0, pos := 0, addr := 0 }
/-- Bytes 0x00 to 0x3B of a record. -/
def Rep.bytes (r : Rep) (time : Nat) : List Byte :=
  toBytes 1 r.type ++ toBytes 1 r.cause ++ toBytes 2 r.queue ++ toBytes 1 r.ctx ++ toBytes 1 r.part ++ toBytes 1 r.err ++ toBytes 1 r.flags ++ toBytes 4 r.launch ++ toBytes 4 r.node
    ++ toBytes 8 r.tlin ++ toBytes 4 r.ord ++ toBytes 4 r.pos ++ toBytes 8 r.addr ++ toBytes 8 time ++ List.replicate 12 0
/-- Is a function's ring enabled? -/
def Fn.ringOn (f : Fn) : Bool := f.rrEn && decide (4 ≤ f.rrLog2 ∧ f.rrLog2 ≤ 16 ∧ f.rrBase % 4096 = 0)
def satAdd16 (a b : Nat) : Nat := min (a + b) 0xFFFF
/-- Write a record to a function's ring, or count it as dropped. -/
def State.report (s : State) (fn : Nat) (r : Rep) : State :=
  let f := s.fn fn
  if !f.ringOn then s
  else if 2 ^ f.rrLog2 ≤ (f.rrTail + 2 ^ 32 - f.rrHead) % 2 ^ 32 then { s with fns := Store.put fn { f with rrDropped := satAdd16 f.rrDropped 1 } s.fns }
  else
    let phase := 1 - f.rrTail / 2 ^ f.rrLog2 % 2
    { s with
      fns := Store.put fn { f with rrTail := (f.rrTail + 1) % 2 ^ 32 } s.fns
      outbox := s.outbox ++ [.record fn (f.rrBase + 64 * (f.rrTail % 2 ^ f.rrLog2)) (r.bytes (f.guest s.now) ++ toBytes 4 phase)] }

/-- The number of a device queue as its function sees it; 0xFFFF for none. -/
def State.queueNum (s : State) (q : Option Nat) : Nat := match q with | some dq => (s.queue dq).num | none => 0xFFFF
/-- The device queue of a launch, or of the graph that started it. -/
def State.queueOf (s : State) (l : Launch) : Option Nat :=
  match l.parent with
  | some p => (match s.launch p with | some g => g.queue | none => none)
  | none => l.queue

/-! Kills (R357) -/

/-- A request of a killed launch that its home has not answered yet: no thread, operation or command waits for it. -/
def Req.orphan (r : Req) : Req :=
  { r with slot := 33, op := none, cmd := none, team := none, lanes := r.lanes.map fun a => { a with ghost := true, note := true } }
/-- What stays of the requests of killed launches: those neither parked nor held in an order record. -/
def Req.keeps (dead : Nat → Bool) (r : Req) : Bool := !(dead r.launch) || (r.ord.isNone && decide (r.acc ≠ 6) && !(r.open_.any fun a => a.parked.isSome))
/-- Remove everything the launches named hold on the device, and their stands. -/
def State.purge (s : State) (dead : Nat → Bool) : State :=
  let ids : List Nat := (s.reqs.filter fun r => !(r.2.keeps dead)).map (·.1)
  let gone : List Nat := (s.stands.filter fun e => dead e.2.launch).map (·.1)
  let reqs : Store Req := (s.reqs.filter fun r => r.2.keeps dead).map fun r => if dead r.2.launch then (r.1, r.2.orphan) else r
  let holds : List Hold := (s.holds.map fun h => { h with items := h.items.filter fun i => !(ids.contains i.1) }).filter fun h => !h.items.isEmpty
  let ords : List OrdRec := (s.ordRecs.map fun r => { r with held := r.held.filter fun h => !(ids.contains h.2) }).filter fun r => decide (r.expect ≠ 0) || !r.held.isEmpty
  let outs : List OutSet := (s.outs.map fun o => { o with stands := o.stands.filter fun e => !(dead e.2.launch) })
  let teams : Store Team := s.teams.filter fun t => !(dead t.2.launch)
  let rounds : List TreeRound := s.rounds.map fun r => { r with ins := r.ins.filter fun m => !(dead m.launch) }
  { s with
    stands := s.stands.filter fun e => !(dead e.2.launch)
    outs := outs
    returning := s.returning.filter fun e => !(dead e.2.2.launch)
    issue := s.issue.filter fun q => !(dead q.launch)
    reqs := reqs
    holds := holds
    ordRecs := ords
    ops := s.ops.filter fun o => !(dead o.2.launch)
    cpys := s.cpys.filter fun c => !(dead c.2.launch)
    walks := s.walks.filter fun w => !(gone.contains (standKey w.2.g w.2.slot))
    teams := teams
    joins := s.joins.filter fun j => !(gone.contains (standKey j.g j.slot))
    rounds := rounds
    misses := s.misses.filter fun m => !(dead m.2.launch)
    fills := s.fills.filter fun m => !(dead m.2.launch)
    scr := s.scr.filter fun e => !(dead (e.1 / 512)) }

/-- Abandon a graph: it starts nothing more, and completes nothing (R51, R357). -/
def Launch.abandon (l : Launch) : Launch := { l with killing := true, graph := l.graph.map fun g => { g with done := true, waitw := none } }
/-- The kernels of a graph that have not started go: an abandoned graph starts nothing more (R51, R357). -/
def State.dropWaiting (s : State) (k : Nat) : State := { s with launches := s.launches.filter fun e => !(decide (e.2.parent = some k) && !e.2.started) }
/-- An abandoned graph is finished once its kernels are. -/
def State.graphGone (s : State) (k : Nat) : State :=
  match s.launch k with
  | some l => if l.killing && !(s.launches.any fun c => decide (c.2.parent = some k)) then { s with launches := s.launches.del k } else s
  | none => s
/-- The report record of a killed launch. -/
def State.killRep (s : State) (l : Launch) (cause : Nat) : Rep :=
  let r := { Rep.blank 1 cause with queue := s.queueNum (s.queueOf l), ctx := l.ctx, part := s.partOf l.ctx, launch := l.number, node := if l.parent.isSome then l.nodeIx else 0xFFFFFFFF }
  match l.why with
  | some w => if 0x3C ≤ cause then r else { r with flags := 2 + (if w.exited then 1 else 0), tlin := w.tlin, ord := w.ord, pos := w.pos, addr := w.addr }
  | none => r
/-- Kill one launch, with its record and its entry of the cause table; up: the graph that started it is abandoned. -/
def State.killOne (s : State) (k cause : Nat) (up : Bool) : State :=
  match s.launch k with
  | none => s
  | some l =>
    let part := s.partOf l.ctx
    let s1 := (s.purge fun x => decide (x = k)).trace 7 cause 0 0 0 l.ctx l.number ((l.why.map (·.ord)).getD 0) 0
    let s2 := { s1 with launches := s1.launches.del k }
    let s3 := (s2.report (s.part part).fn (s.killRep l cause)).causeEvent (0x400 + l.ctx) part l.ctx
    match l.parent with
    | some p => if up then ((s3.onLaunch p Launch.abandon).dropWaiting p).graphGone p else s3
    | none => s3
/-- KILL: a graph's kernels go with it. -/
def execKill (key cause : Nat) (s : State) : Res :=
  let kids := (s.launches.filter fun c => decide (c.2.parent = some key)).map (·.1)
  let g := ((s.launch key).bind (·.graph)).isSome
  let s := if g then kids.foldl (fun s k => s.killOne k cause false) s else s
  .next (s.killOne key cause true)

/-! Host writes of the table and the rings (R402, R404, R406) -/

/-- CAUSE_ENTRY_CLEAR: a write to an entry: PEND and AGAIN are cleared by ones, MASK is written; the vector is sent again when the group's bit stays 1. -/
def execCauseEntryClear (i : Nat) (v : W) (s : State) : Res :=
  let e := s.causeEnt i
  let clr := decide (bits v.toNat 0 1 = 1)
  let e' := { e with pend := e.pend && !clr, mask := decide (bits v.toNat 1 1 = 1), again := e.again && !decide (bits v.toNat 2 1 = 1) }
  let before := s.csum (i / 64)
  let s1 := s.setCause i e'
  .next (if clr && e.pend && before && s1.csum (i / 64) then { s1 with outbox := s1.outbox ++ [.msix 0 (i / 64)] } else s1)
/-- VF_INTERRUPT_INJECT (R406): under MSI-X rules a masked entry keeps the message pending. -/
def execVfInterruptInject (v : W) (s : State) : Res :=
  let fn := bits v.toNat 8 5
  let vec := bits v.toNat 0 6
  if bits v.toNat 31 1 = 0 ∨ fn = 0 ∨ s.regs.vfEnable = false ∨ s.regs.numVfs < fn then .next s
  else
    match Store.find (64 * fn + vec) s.regs.msix with
    | some (a, d, true, _) => .next { s with regs := { s.regs with msix := Store.put (64 * fn + vec) (a, d, true, true) s.regs.msix } }
    | some (_, _, false, _) => .next { s with outbox := s.outbox ++ [.msix fn vec] }
    | none => .next { s with outbox := s.outbox ++ [.msix fn vec] }
/-- REPORT_RING_ENABLE: EN rises from 0 to 1. -/
def execReportRingEnable (fn : Nat) (s : State) : Res :=
  let f := s.fn fn
  .next { s with fns := Store.put fn { f with rrEn := true, rrTail := 0, rrHead := 0 } s.fns }

end Sys2Proof.Machine
end

