-- ==== Sys2Proof/Machine/Fetch.lean ====
section
/-! DEFINITION. Fetch and issue: PC table, packet cache, the checks before a packet, squads (05 R98 to R104, R112, R113, 06 R123 to R127). -/
namespace Sys2Proof.Machine

/-! The PC table (R124) -/

/-- A thread that is ready or stalled on a core: stand slot, lane, the handler's own or the program's. -/
structure Cand where
  slot : Nat
  lane : Nat
  hdl : Bool
  launch : Nat
  t : Thread
  deriving DecidableEq, Repr
/-- May program threads of a stand issue: no handler in mode 1 runs, and none is about to (R362)? -/
def State.progRuns (s : State) (st : Stand) : Bool :=
  match st.h, st.dl, s.launch st.launch with
  | some h, _, _ => !h.whole
  | none, d :: _, some l => !(s.wholeFor l d) && decide (d.cause ≠ 0x38)
  | none, _, _ => true
def Thread.waits (t : Thread) : Bool := decide (t.st = .ready ∨ t.st = .stalled)
/-- A stand that waits for granules, or for spilled registers, issues nothing (R140, R142). -/
def State.candsOf (s : State) (key : Nat) (st : Stand) : List Cand :=
  if st.place ≠ .resident ∨ 0 < st.need ∨ st.reload ≠ [] then []
  else
    let one (hdl : Bool) (l : Nat) : Option Cand := let t := st.t hdl l; if t.waits then some { slot := slotOf key, lane := l, hdl := hdl, launch := st.launch, t := t } else none
    (if s.progRuns st then lanes32.filterMap (one false) else []) ++ (if st.h.isSome then lanes32.filterMap (one true) else [])
def State.cands (s : State) (g : Nat) : List Cand := (s.standsOn g).flatMap fun e => s.candsOf e.1 e.2
/-- Does an entry's key name a thread? -/
def PctEnt.holds (e : PctEnt) (c : Cand) : Bool := decide (e.launch = c.launch ∧ e.pc = c.t.pc.toNat ∧ e.start = c.t.slot ∧ e.hdl = c.hdl)
def Issue.none : Issue := { pct := [], past := [], ptr := 0 }
/-- The lowest free entry. -/
def Issue.free (i : Issue) : Option Nat := (List.range 64).find? fun n => (Store.find n i.pct).isNone
/-- Insert by the time of becoming ready. -/
def Cand.insert (c : Cand) : List Cand → List Cand
  | [] => [c]
  | d :: t => if c.t.since < d.t.since then c :: d :: t else d :: Cand.insert c t
/-- A thread enters the entry of its key, a free one, or the overflow queue, where it has been since a time. -/
def Issue.enter (cyc : Nat) (i : Issue) (c : Cand) (since : Nat) : Issue :=
  if i.pct.any fun e => e.2.holds c then i
  else
    match i.free with
    | some n => { i with pct := Store.put n { launch := c.launch, pc := c.t.pc.toNat, start := c.t.slot, hdl := c.hdl, last := cyc } i.pct }
    | Option.none => { i with past := i.past ++ [{ slot := c.slot, lane := c.lane, hdl := c.hdl, since := since }] }
/-- The tables of a core as its threads stand now: entries without threads are free, the overflow queue, whose threads keep their time in it, goes before those that come. -/
def State.tables (s : State) (g : Nat) : Issue :=
  let cs := s.cands g
  let i := (Store.find g s.pct).getD Issue.none
  let old := i.past.filterMap fun o => (cs.find? fun c => decide (c.slot = o.slot ∧ c.lane = o.lane ∧ c.hdl = o.hdl)).map fun c => (c, o.since)
  let new := ((cs.filter fun c => !(old.any fun x => decide (x.1 = c))).foldl (fun l c => c.insert l) []).map fun c => (c, c.t.since)
  (old ++ new).foldl (fun i x => i.enter (s.cyc g) x.1 x.2) { i with pct := i.pct.filter fun e => cs.any e.2.holds, past := [] }

/-! Fetch (R99, R100) -/

/-- The key of a packet-cache line. -/
def pcKey (g tag va : Nat) : Nat := (g * 65536 + tag) * 2 ^ 49 + va / 128
def State.ctag (s : State) (c : Nat) : Nat := ((s.ctx c).map (·.ctag)).getD 0
def pcVa (pc : BitVec 52) : Nat := 16 * pc.toNat
/-- The four words of a packet in the packet cache. -/
def State.packet (s : State) (g : Nat) (l : Launch) (pc : BitVec 52) : Option (List W) :=
  (Store.find (pcKey g (s.ctag l.ctx) (pcVa pc)) s.pcache).map fun bs =>
    (List.range 4).map fun i => BitVec.ofNat 32 (ofBytes ((bs.drop (pcVa pc % 128 + 4 * i)).take 4))
/-- Is a fill of the line on its way? -/
def State.filling (s : State) (g : Nat) (l : Launch) (pc : BitVec 52) : Bool :=
  s.fills.any fun f => decide (f.2.g = g ∧ f.2.ctx = l.ctx ∧ f.2.va / 128 = pcVa pc / 128)
/-- Is an entry for the page on its way? -/
def State.asking (s : State) (g : Nat) (l : Launch) (pc : BitVec 52) : Bool :=
  s.misses.any fun m => decide (m.2.g = g ∧ m.2.ctx = l.ctx ∧ m.2.va / 65536 = pcVa pc / 65536)
/-- A fault of a fetch in threads at a packet (R99): precise on that packet. -/
def fetchFault (l : Launch) (cause : Nat) (cs : List Cand) : Delivery :=
  { cause := cause, kind := 0, acc := 12, ghost := false
    lanes := cs.map fun c => { lane := c.lane, pkt := l.pkt c.t.pc, slot := c.t.slot, addr := BitVec.ofNat 64 (pcVa c.t.pc), retPc := c.t.pc, retSlot := c.t.slot } }
/-- Deliver something in threads of several stands. -/
def State.takeCands (s : State) (g : Nat) (cs : List Cand) (d : List Cand → Delivery) : State :=
  let keys := distinct (cs.map fun c => (c.slot, if c.hdl then 1 else 0))
  keys.foldl (fun s k =>
    match cs.filter fun c => decide (c.slot = k.1 ∧ (if c.hdl then 1 else 0) = k.2) with
    | [] => s
    | c :: t => s.take (standKey g c.slot) c.hdl c.launch (d (c :: t))) s
/-- A packet that is not in the cache: its entry is asked for, its page does not allow it, or its line is. -/
def State.fetch (s : State) (g : Nat) (l : Launch) (lk : Nat) (pc : BitVec 52) (cs : List Cand) : State :=
  if s.filling g l pc then s
  else
    match s.brandOf g l.ctx (pcVa pc) with
    | none => s.ask g l.ctx (pcVa pc) lk
    | some b =>
      if !b.np && !b.ex then s.takeCands g cs (fetchFault l 0x14)
      else { s with fills := s.fills ++ [(s.seq, { g := g, ctx := l.ctx, va := pcVa pc, launch := lk, np := b.np })], seq := s.seq + 1 }
/-- Threads of a launch on a core that stand at a packet. -/
def State.candsAt (s : State) (g lk : Nat) (va : Nat) : List Cand := (s.cands g).filter fun c => decide (c.launch = lk ∧ pcVa c.t.pc = va)
/-- A line enters a core's packet cache of 256 lines; which line leaves is open. -/
def State.cachePut (s : State) (g key : Nat) (bs : List Byte) : State :=
  let mine := s.pcache.filter fun e => decide (e.1 / 2 ^ 65 = g)
  let old := if mine.length < 256 ∨ (Store.find key s.pcache).isSome then s.pcache
    else match mine[Config.pick s.fresh % mine.length]? with | some e => s.pcache.del e.1 | none => s.pcache
  { s with pcache := Store.put key bs old, fresh := s.fresh + 1 }
/-- Threads of a context's launches on a core that waited for a line of code are ready from now on (R123). -/
def State.wakeLine (s : State) (g c line : Nat) : State :=
  let f (t : Thread) : Thread := if t.waits && decide (lineOf (pcVa t.pc) = line) then { t with since := s.cyc g } else t
  { s with stands := s.stands.map fun e =>
      if gOf e.1 = g ∧ (s.launch e.2.launch).map (·.ctx) = some c then (e.1, { e.2 with thr := e.2.thr.map f, h := e.2.h.map fun h => { h with thr := h.thr.map f } }) else e }
/-- PACKET_CACHE_FILL (R99): the line comes from the cluster's L1, or the landing faults it; a fill under an NP entry is checked now, under the real entry that the landing has returned. -/
def execPacketCacheFill (id : Nat) (s : State) : Res :=
  match Store.find id s.fills with
  | none => .next s
  | some f =>
    let s := { s with fills := s.fills.del id }
    match s.launch f.launch with
    | none => .next s
    | some l =>
      let x := s.normal f.va
      let tag := s.tagFor f.g f.ctx x
      match s.readLine f.g f.ctx tag x 0 0 f.np needNone true s.seq with
      | .error c => .next ({ s with fresh := s.fresh + 1 }.takeCands f.g (s.candsAt f.g f.launch f.va) (fetchFault l c))
      | .ok (s1, bs) =>
        let real := s1.brandFor f.ctx x
        if f.np && !real.ex && !real.np then .next (s1.takeCands f.g (s1.candsAt f.g f.launch f.va) (fetchFault l 0x14))
        else
          let all := overlay (s.l1Stores (clusterOf f.g) tag (lineOf x) s.seq) (x / 128 * 128) bs
          .next ((s1.cachePut f.g (pcKey f.g (s1.ctag f.ctx) f.va) all).wakeLine f.g f.ctx (lineOf f.va))

/-! Before a packet issues -/

/-- What a thread does at its next packet. -/
inductive Gate where
  | go
  | wait
  | stop
  | hit (n : Nat)
  | deliver (d : Delivery) (n : Option Notice)
  deriving DecidableEq, Repr

/-- Must the stands of a context on a core stop: 1 at a safe point, 2 at any packet (R372, R75, R421)? -/
def State.mustStop (s : State) (g c : Nat) : Nat :=
  if (s.switches.any fun w => decide (w.g = g ∧ w.ctx = c) && w.past) || (s.reclaim.contains (clusterOf g) && decide (Store.find (clusterOf g) s.lent = some (s.partOf c))) then 2
  else if (s.switches.any fun w => decide (w.g = g ∧ w.ctx = c)) || decide (s.regs.ckBusy ∧ s.regs.ckLive = some false) then 1
  else 0
/-- A delivery at a packet before it issues. -/
def atPacket (l : Launch) (c : Cand) (cause kind acc pkt slot : Nat) (addr : DW) : Delivery :=
  { cause := cause, kind := kind, acc := acc, ghost := false, lanes := [{ lane := c.lane, pkt := pkt, slot := slot, addr := addr, retPc := c.t.pc, retSlot := c.t.slot }] }
/-- The flags a packet's WAIT names. -/
def waitFlags (w : W) : List Nat := (List.range 12).filter fun i => decide (bits (cWait w) i 1 = 1)
/-- A parked request of a thread that counts a flag (R333). -/
def State.parkedOn (s : State) (g slot lane f : Nat) : Option Notice :=
  (s.reqs.filterMap fun r =>
    match r.2.op.bind fun o => Store.find o s.ops with
    | some o => if r.2.g = g ∧ r.2.slot = slot ∧ r.2.hdl = false ∧ o.flag = f then
        ((r.2.open_.find? fun a => decide (a.lane = lane) && a.parked.isSome && !a.ghost).map fun a => { req := r.1, lane := lane, cause := a.parked.getD 0 }) else none
    | none => none).head?
/-- Does a packet hold EXIT? -/
def holdsExit (ws : List W) : Bool := match layout ws with | .ok is => is.any fun p => (match p.2 with | .exit _ => true | _ => false) | .bad _ is => is.any fun p => (match p.2 with | .exit _ => true | _ => false)
/-- The breakpoint at a packet of an ordinal (R424). -/
def Dbg.bpAt (d : Dbg) (ord : Nat) : Option Nat := (List.range 4).find? fun n => match d.bp[n]? with | some (o, en) => en && decide (o = ord) | none => false
/-- The debugger's part (R423, R424); a lookup for a breakpoint that finds an offence raises code-object (R21). -/
def State.dbgGate (s : State) (l : Launch) (c : Cand) (sp : Bool) : Option Gate :=
  match s.ctx l.ctx with
  | none => none
  | some cx =>
    let at_ (cause : Nat) (a : Nat) : Gate := .deliver (atPacket l c cause 0 0 (l.pkt c.t.pc) c.t.slot (BitVec.ofNat 64 a)) none
    let bp := if sp && !c.hdl && decide (c.t.dbg ≠ .pass) && (cx.dbg.bp.any (·.2)) then (match s.position l (l.pkt c.t.pc) with | .ok ord _ => (cx.dbg.bpAt ord).map fun n => if cx.dbg.deliv then at_ 0x33 n else Gate.hit n | .bad a => some (at_ 0x02 a)) else none
    match bp with
    | some gt => some gt
    | none =>
      match c.t.dbg with
      | .none => if cx.dbg.stop && (sp || c.hdl) then some .stop else none
      | .held => some .stop
      | .first _ => none
      | .step dv => if sp && !c.hdl then some (if dv then at_ 0x31 0 else .stop) else none
      | .next => some .stop
      | .halt => if sp && !c.hdl then some (at_ 0x33 0) else none
      | .pass => none
/-- A thread at its packet, with the packet's words: stops, notices, pending faults, flags (R104, R256, R333, R367). A pending fault of a handler's own load is a double trap (R363). -/
def State.gateAt (s : State) (g : Nat) (l : Launch) (c : Cand) (ws : List W) : Gate :=
  let ctrl := ws.headD 0
  let body := ws.drop 1
  let sp := cSp ctrl
  let stop := s.mustStop g l.ctx
  if stop = 2 ∨ (stop = 1 ∧ sp ∧ c.hdl = false) then .stop
  else
    match s.dbgGate l c sp with
    | some gt => gt
    | none =>
      let st := (s.stand (standKey g c.slot)).bind (·.h)
      let late := if c.hdl || st.isSome || !(sp || holdsExit body) then none else c.t.notices.head?
      match late.bind fun n => (s.late n false c.t.pc c.t.slot).map fun d => (d, n) with
      | some (d, n) => .deliver d (some n)
      | none =>
        let fs := waitFlags ctrl
        let pend := (fs.filter fun f => decide (c.t.flags.getD f 0 = 0)).findSome? fun f => (c.t.pend.getD f none)
        match pend with
        | some p => .deliver (atPacket l c p.cause 1 p.acc p.pkt p.slot p.addr) none
        | none =>
          let parked := if c.hdl then none else fs.findSome? fun f => s.parkedOn g c.slot c.lane f
          match parked.bind fun n => (s.late n false c.t.pc c.t.slot).map fun d => ({ d with kind := 1 }, n) with
          | some (d, n) => .deliver d (some n)
          | none =>
            if waitClear c.t ctrl && (match layout body with | .ok is => countRoom c.t ctrl is c.t.slot | .bad _ is => countRoom c.t ctrl is c.t.slot) then .go else .wait

/-- Is a launch held at the start barrier (R57)? Its first stands wait for the release. -/
def State.heldLaunch (s : State) (l : Launch) : Bool :=
  match l.repl with
  | some r => (match r.release with | some t => decide (s.now < t) | none => true)
  | none => false
/-- A thread with the time from which it has been ready to issue its packet. -/
def Cand.awake (ws : List W) (c : Cand) : Cand :=
  { c with t := { c.t with since := c.t.readySince (ws.headD 0) (match layout (ws.drop 1) with | .ok is => is | .bad _ is => is) } }
/-- The threads of an entry that are not stalled (R123). -/
def State.readyOf (s : State) (g : Nat) (l : Launch) (e : PctEnt) : List Cand :=
  let cs := (s.cands g).filter e.holds
  match s.packet g l (BitVec.ofNat 52 e.pc) with
  | none => cs
  | some ws => (cs.filter fun c => decide (s.gateAt g l c ws ≠ .wait)).map (Cand.awake ws)
/-- Can an entry's threads do anything when a port selects it? -/
def State.entryLive (s : State) (g : Nat) (e : PctEnt) : Bool :=
  match s.launch e.launch with
  | none => false
  | some l =>
    let pc := BitVec.ofNat 52 e.pc
    if s.heldLaunch l then false
    else if !(l.inCode pc) then true
    else
      match s.packet g l pc with
      | none => !(s.filling g l pc) && !(s.asking g l pc)
      | some _ => !(s.readyOf g l e).isEmpty
/-- The port's choice (R126): an entry whose longest-ready thread has waited 256 cycles, oldest first; else the next after the pointer. -/
def State.select (s : State) (g : Nat) : Option Nat :=
  let i := s.tables g
  let live := i.pct.filter fun e => s.entryLive g e.2
  let age (e : PctEnt) : Nat := match s.launch e.launch with | some l => ((s.readyOf g l e).map fun c => c.t.since).foldl min (s.cyc g) | none => s.cyc g
  let old := live.filter fun e => decide (age e.2 + 256 ≤ s.cyc g)
  match old with
  | x :: t => some (t.foldl (fun a b => if age b.2 < age a.2 then b else a) x).1
  | [] =>
    match live.find? fun e => decide (i.ptr ≤ e.1) with
    | some e => some e.1
    | none => live.head?.map (·.1)

/-! PACKET_ISSUE -/

/-- For each lane the thread ready longest, ties to the lower stand slot (R125). -/
def pickLanes (cs : List Cand) : List Cand :=
  lanes32.filterMap fun l =>
    match cs.filter fun c => decide (c.lane = l) with
    | [] => none
    | c :: t => some (t.foldl (fun a b => if b.t.since < a.t.since ∨ (b.t.since = a.t.since ∧ b.slot < a.slot) then b else a) c)
/-- The members of a squad by stand slot. -/
def membersOf (cs : List Cand) : List (Nat × W) :=
  ((List.range 32).map fun n => (n, maskOf ((cs.filter fun c => decide (c.slot = n)).map (·.lane)))).filter fun m => decide (m.2 ≠ 0)
/-- Faults of a packet as a whole: precise at its place, for every thread of the squad (R112, R113). -/
def packetCause (l : Launch) (cause slot : Nat) (cs : List Cand) : Delivery :=
  { cause := cause, kind := 0, acc := 0, ghost := false, lanes := cs.map fun c => { lane := c.lane, pkt := l.pkt c.t.pc, slot := slot, addr := 0, retPc := c.t.pc, retSlot := c.t.slot } }
/-- A thread that is about to stop. -/
def Thread.halt (dbg : Bool) (t : Thread) : Thread := if dbg then { t with st := .stopped, dbg := .held } else { t with st := .stopped }
/-- A breakpoint stops its thread and the context (R424). -/
def Dbg.hitBp (n : Nat) (d : Dbg) : Dbg := { d with hit := d.hit ||| 2 ^ n, stop := true }
def Ctx.onDbg (f : Dbg → Dbg) (c : Ctx) : Ctx := { c with dbg := f c.dbg }
/-- Does a delivery make a pending fault of its thread? -/
def Delivery.takes (d : Delivery) (q : Pend) : Bool := decide (d.kind = 1 ∧ q.cause = d.cause) && d.lanes.any fun y => decide (y.addr = q.addr ∧ y.pkt = q.pkt ∧ y.slot = q.slot)
/-- A thread that takes a delivery before a packet lets go of what is delivered. -/
def Thread.told (d : Delivery) (n : Option Notice) (t : Thread) : Thread :=
  { t with
    dbg := if d.cause = 0x31 ∨ d.cause = 0x33 then .pass else t.dbg
    notices := t.notices.filter fun m => decide (some m ≠ n)
    pend := t.pend.map fun p => match p with | some q => if d.takes q then none else some q | none => none }
/-- The deliveries that the threads of one stand take before one packet: those of one cause are one (R359). -/
def State.gateTake (s : State) (g : Nat) (xs : List (Cand × Delivery × Option Notice)) : State :=
  match xs with
  | [] => s
  | (c, _) :: _ =>
    let key := standKey g c.slot
    let s1 := xs.foldl (fun s x => s.onT key x.1.hdl x.1.lane (Thread.told x.2.1 x.2.2)) s
    let s2 := ((xs.map fun x => x.2.1).foldl mergeLate []).foldl (fun s d => s.take key c.hdl c.launch d) s1
    (xs.filterMap fun x => x.2.2).foldl (fun s n => s.noticeDone n) s2
/-- The deliveries of threads at one packet, stand by stand. -/
def State.gateTakes (s : State) (g : Nat) (gs : List (Cand × Gate)) : State :=
  let ds := gs.filterMap fun x => match x.2 with | .deliver d n => some (x.1, d, n) | .go => none | .wait => none | .stop => none | .hit _ => none
  (distinct (ds.map fun x => (x.1.slot, x.1.hdl))).foldl (fun s k => s.gateTake g (ds.filter fun x => decide (x.1.slot = k.1 ∧ x.1.hdl = k.2))) s
/-- Carry out what is neither an issue nor a delivery. -/
def State.gateDo (s : State) (g : Nat) (l : Launch) (x : Cand × Gate) : State :=
  let key := standKey g x.1.slot
  match x.2 with
  | .go => s
  | .wait => s.onT key x.1.hdl x.1.lane fun t => { t with st := .stalled }
  | .stop => (s.onT key x.1.hdl x.1.lane (Thread.halt (decide (s.mustStop g l.ctx = 0)))).trace (if s.mustStop g l.ctx = 0 then 6 else 0) 0 x.1.lane x.1.slot g l.ctx l.number 0 0
  | .hit n => ((s.onT key x.1.hdl x.1.lane (Thread.halt true)).onCtx l.ctx (Ctx.onDbg (Dbg.hitBp n))).trace 6 0 x.1.lane x.1.slot g l.ctx l.number 0 0
  | .deliver _ _ => s
/-- A thread's debugger state as its packet issues. -/
def Dbgt.issued (d : Dbgt) : Dbgt := match d with | .first b => .step b | .pass => .none | .none => .none | .held => .held | .step b => .step b | .next => .next | .halt => .halt
/-- A safe-point pass of a stand (R429). -/
def State.pass (s : State) (g slot : Nat) (l : Launch) (pkt : Nat) : State :=
  match s.stand (standKey g slot) with
  | none => s
  | some st =>
    let s := s.setStand (standKey g slot) { st with passes := st.passes + 1 }
    if st.passes % 2 ^ bits s.regs.trCtl.toNat 22 5 = 0 then s.trace 1 0 0 slot g l.ctx l.number (match s.position l pkt with | .ok o _ => o | .bad _ => 0) st.num else s
/-- The squad issues: its threads leave the table, stands that are new or have returned make their acquire (R324, R326). -/
def State.issueSquad (s : State) (g lk : Nat) (l : Launch) (e : PctEnt) (ws : List W) (cs : List Cand) : State :=
  let mem := membersOf cs
  let go (s : State) (m : Nat × W) : State :=
    let key := standKey g m.1
    let s := match s.stand key with | some st => if st.fresh then (s.setStand key { st with fresh := false }).endLeases g 9 else s | none => s
    let s := s.onTs key e.hdl m.2 fun t => { t with st := .issuing, dbg := t.dbg.issued }
    if cSp (ws.headD 0) && !e.hdl then s.pass g m.1 l e.pc else s
  let s := mem.foldl go s
  let q : Squad := { id := s.seq, g := g, launch := lk, hdl := e.hdl, mem := mem, pc := BitVec.ofNat 52 e.pc, ctrl := ws.headD 0, ws := ws.drop 1, k := e.start, start := e.start, again := false, mark := none, b := e.start }
  ({ s with issue := s.issue ++ [q], seq := s.seq + 1 }.count g l.ctx 2 1).count g l.ctx 3 cs.length
/-- PACKET_ISSUE: port of core g selects entry n (R126). -/
def execPacketIssue (g n : Nat) (s : State) : Res :=
  let i := s.tables g
  match Store.find n i.pct with
  | none => .next s
  | some e =>
    match s.launch e.launch with
    | none => .next s
    | some l =>
      let past := ((Store.find g s.pct).getD Issue.none).past.length
      let tables (last : Nat) (ptr : Nat) : Store Issue := Store.put g { i with pct := Store.put n { e with last := last } i.pct, ptr := ptr } s.pct
      let s := { s with pct := tables e.last (n + 1) }.count g l.ctx 8 (i.past.length - past)
      let pc := BitVec.ofNat 52 e.pc
      let cs := (s.cands g).filter e.holds
      if s.heldLaunch l ∨ 2 ≤ (s.issue.filter fun q => decide (q.g = g)).length then .next s
      else if !(l.inCode pc) then
        .next (s.takeCands g cs fun cs => { cause := 0x01, kind := 0, acc := 0, ghost := false, lanes := cs.map fun c => { lane := c.lane, pkt := l.pkt (pc - 1), slot := 2, addr := 0, retPc := pc, retSlot := 0 } })
      else
        match s.packet g l pc with
        | none => .next (s.fetch g l e.launch pc cs)
        | some ws =>
          let gs := cs.map fun c => (c, s.gateAt g l c ws)
          let sq := pickLanes ((gs.filter fun x => decide (x.2 = .go)).map fun x => x.1.awake ws)
          let s := ((gs.filter fun x => decide (x.2 ≠ .go)).foldl (fun s x => s.gateDo g l x) s).gateTakes g gs
          if sq.isEmpty then .next s
          else
            match packetFault (ws.headD 0) (ws.drop 1) with
            | some k => .next (s.takeCands g sq (packetCause l 0x00 k))
            | none =>
              match indexFault l.hdr e.hdl (ws.headD 0) (ws.drop 1) with
              | some k => .next (s.takeCands g sq (packetCause l 0x20 k))
              | none => .next ({ s with pct := tables (s.cyc g) (n + 1) }.issueSquad g e.launch l e ws sq)

/-- PC_TABLE_EVICT (R124): the head of the overflow queue has waited 256 cycles: the entry whose latest issue is oldest goes. -/
def execPcTableEvict (g : Nat) (s : State) : Res :=
  let i := s.tables g
  match i.past, i.pct with
  | o :: rest, p :: ps =>
    if s.cyc g < o.since + 256 then .next s
    else
      let v := ps.foldl (fun a b => if b.2.last < a.2.last then b else a) p
      let out := ((s.cands g).filter v.2.holds).map fun c => { slot := c.slot, lane := c.lane, hdl := c.hdl, since := s.cyc g }
      match (s.cands g).find? fun c => decide (c.slot = o.slot ∧ c.lane = o.lane ∧ c.hdl = o.hdl) with
      | none => .next s
      | some c =>
        let pct := Store.put v.1 { launch := c.launch, pc := c.t.pc.toNat, start := c.t.slot, hdl := c.hdl, last := s.cyc g } i.pct
        .next { s with pct := Store.put g { i with pct := pct, past := rest ++ out } s.pct }
  | _, _ => .next s

end Sys2Proof.Machine
end

