-- ==== Sys2Proof/Machine/Save.lean ====
section
/-! DEFINITION. The save area, shape spill, and stands that leave and return (06 R140 to R143, 14 R324, 17 R372 to R382). -/
namespace Sys2Proof.Machine

/-! Records of the save area (R378 to R382) -/

/-- Save bytes of a register (R135). -/
def VReg.bytes : VReg → List Byte
  | .u b => toBytes 4 b.toNat
  | .a b s => toBytes 4 b.toNat ++ toBytes 4 s.toNat
  | .g8 b d => toBytes 4 b.toNat ++ d.map fun x => x
  | .g16 b d => toBytes 4 b.toNat ++ d.flatMap fun x => toBytes 2 x.toNat
  | .gr v => v.flatMap fun x => toBytes 4 x.toNat
/-- A word of a list of bytes. -/
def wordAt (bs : List Byte) (o : Nat) : W := BitVec.ofNat 32 (ofBytes ((bs.drop o).take 4))
/-- A register from its code and its bytes. -/
def VReg.ofBytes (code : Nat) (bs : List Byte) : VReg × Nat :=
  match code with
  | 0 => (.u (wordAt bs 0), 4)
  | 1 => (.a (wordAt bs 0) (wordAt bs 4), 8)
  | 2 => (.g8 (wordAt bs 0) (lanes32.map fun l => bs.getD (4 + l) 0), 36)
  | 3 => (.g16 (wordAt bs 0) (lanes32.map fun l => BitVec.ofNat 16 (Machine.ofBytes ((bs.drop (4 + 2 * l)).take 2))), 68)
  | _ => (.gr (lanes32.map fun l => wordAt bs (4 * l)), 128)

/-- A mask of numbers below n as bytes. -/
def bitBytes (n : Nat) (xs : List Nat) : List Byte := toBytes (n / 8) ((xs.map fun i => 2 ^ i).foldl (· ||| ·) 0)
/-- TST and PKIND of a thread (R380). -/
def TSt.code : TSt → Nat × Nat
  | .ready => (0, 0)
  | .stalled => (1, 0)
  | .issuing => (0, 0)
  | .stopped => (0, 0)
  | .held => (2, 0)
  | .exited => (4, 0)
  | .parked .mwait => (3, 1)
  | .parked .waita => (3, 2)
  | .parked .bar => (3, 3)
  | .parked .join => (3, 4)
  | .parked .gran => (3, 5)
  | .parked .mwaitb => (3, 6)
  | .parked .leave => (3, 7)
  | .parked .delivery => (3, 8)
  | .parked .sign => (3, 0)
  | .parked .treew => (3, 0)
  | .parked .rtt => (3, 0)
/-- A pending fault of a flag (R380). -/
def State.pendBytes (s : State) (l : Launch) : Option Pend → List Byte
  | none => List.replicate 16 0
  | some p =>
    let q : Nat × Nat := match s.position l p.pkt with | .ok o d => (o, d) | .bad _ => (0, 0)
    toBytes 4 (p.cause + 256 * p.slot + 65536 * q.2) ++ toBytes 4 q.1 ++ toBytes 8 p.addr.toNat
/-- Flags and return stack as both the thread entry and the handler block hold them. -/
def Thread.flagBytes (t : Thread) : List Byte := (List.range 12).map fun i => BitVec.ofNat 8 (t.flags.getD i 0 + if (t.pend.getD i none).isSome then 64 else 0)
def Thread.rsBytes (t : Thread) : List Byte := (List.range 16).flatMap fun i => toBytes 4 (t.rs.reverse.getD i 0)
/-- A thread entry of 320 bytes (R380). -/
def State.threadBytes (s : State) (l : Launch) (t : Thread) : List Byte :=
  toBytes 8 (pcVa t.pc) ++ toBytes 1 t.st.code.1 ++ toBytes 1 t.rs.length ++ toBytes 1 t.st.code.2 ++ [0] ++ t.flagBytes ++ toBytes 8 t.mwdl ++ t.rsBytes
    ++ toBytes 4 t.trap.tcause.toNat ++ toBytes 4 t.trap.tpkt.toNat ++ toBytes 4 t.trap.tslot.toNat ++ toBytes 4 t.trap.tord.toNat ++ toBytes 8 t.trap.taddr.toNat
    ++ List.replicate 8 0 ++ (List.range 12).flatMap fun i => s.pendBytes l (t.pend.getD i none)
/-- The handler block (R381): the state of its lowest thread that has not ended, the return point of its lowest lane. -/
def Handler.bytes (h : Handler) (tmaskf : W) : List Byte :=
  let t := (h.thr.find? fun t => decide (t.st ≠ .exited)).getD Thread.gone
  let ret := match h.dv.lanes with | x :: _ => pcVa x.retPc + x.retSlot | [] => 0
  let ws (xs : List W) : List Byte := xs.flatMap fun x => toBytes 4 x.toNat
  let b := toBytes 8 (pcVa t.pc) ++ t.flagBytes ++ toBytes 4 t.rs.length ++ t.rsBytes ++ toBytes 8 ret ++ toBytes 4 tmaskf.toNat ++ ws h.saveS
    ++ (if h.whole then ws h.saveP ++ h.saveV.flatMap fun v => ws (lanes32.map v.lane) else [])
    ++ ws h.scrS ++ (if h.whole then [] else ws h.scrV ++ h.scrP.map fun p => if p then 1 else 0)
  b ++ List.replicate (1024 - b.length) 0
/-- The parts of a stand record, by offset (R379). how: 1 safe-point, 2 full, 3 shape spill; vs, ss, ps: the registers saved. -/
def State.standBytes (s : State) (l : Launch) (st : Stand) (how : Nat) (vs ss ps : List Nat) : List (Nat × List Byte) :=
  let m (f : Thread → Bool) : List Byte := toBytes 4 (maskOf (lanes32.filter fun i => f (st.t false i))).toNat
  let codes := (vs.map fun i => (st.v.getD i (.u 0)).code * 16 ^ i).foldl (· + ·) 0
  let head := toBytes 4 l.number ++ toBytes 4 (how + (if st.h.isSome then 4 else 0) + 256 * st.rcause + 65536 * st.fstk.toNat) ++ toBytes 8 st.num
    ++ m (fun t => decide (t.st ≠ .exited)) ++ m (fun t => decide (t.st = .exited)) ++ m (fun t => decide (t.st = .held)) ++ m (fun t => match t.st with | .parked _ => true | _ => false)
    ++ (List.range 8).flatMap (fun i => toBytes 4 (st.tcnt.getD i 0)) ++ bitBytes 128 vs ++ toBytes 64 codes
  let vals := vs.flatMap fun i => (st.v.getD i (.u 0)).bytes
  if how = 3 then [(0, head), (0x90, vals)]
  else
    [(0, head), (0x90, vals),
     (0x4100, (List.range 64).flatMap fun i => toBytes 4 (if ss.contains i then (st.rs i).toNat else 0)),
     (0x4200, (List.range 96).flatMap fun i => toBytes 4 (if ps.contains i then (st.p.getD i 0).toNat else 0)),
     (0x4400, lanes32.flatMap fun i => s.threadBytes l (st.t false i))]
    ++ match st.h with | some h => [(0x6C00, h.bytes st.tmaskf)] | none => []

/-- Write bytes by virtual address, 16 at a time. -/
def State.vwriteAll (s : State) (c x : Nat) : Nat → List Byte → Except Nat State
  | 0, _ => .ok s
  | n + 1, bs =>
    if bs.isEmpty then .ok s
    else match s.vwrite c x (bs.take 16) with
      | .error e => .error e
      | .ok s' => s'.vwriteAll c (x + 16) n (bs.drop 16)
/-- Write the parts of a record. -/
def State.writeParts (s : State) (c base : Nat) : List (Nat × List Byte) → Except Nat State
  | [] => .ok s
  | (o, bs) :: t =>
    match s.vwriteAll c (base + o) (bs.length / 16 + 1) bs with
    | .error e => .error e
    | .ok s' => s'.writeParts c base t
/-- Where a stand's record lies (R378). -/
def Ctx.standArea (cx : Ctx) (g slot : Nat) : Nat := cx.savebase + 0x7000 * (32 * g + slot % 32)
def Ctx.teamArea (cx : Ctx) (cl r : Nat) : Nat := cx.savebase + 0x15000000 + 0x50000 * (128 * cl + r)
/-- Save a stand's record; a landing fault kills its launch (R378). -/
def State.saveStand (s : State) (g slot : Nat) (st : Stand) (how : Nat) (vs ss ps : List Nat) : State :=
  match s.launch st.launch with
  | none => s
  | some l =>
    match s.ctx l.ctx with
    | none => s
    | some cx =>
      match s.writeParts l.ctx (cx.standArea g slot) (s.standBytes l st how vs ss ps) with
      | .ok s' => s'
      | .error _ => s.postFirst (.kill st.launch 0x1E)
/-- The V registers of a record; none when a saved register has a code from 5 to 15. -/
def readVals (codes : Nat) (saved : List Nat) : List Nat → List Byte → Option (List VReg)
  | [], _ => some []
  | i :: t, bs =>
    if saved.contains i then
      let c := codes / 16 ^ i % 16
      if 5 ≤ c then none
      else
        let r := VReg.ofBytes c bs
        (readVals codes saved t (bs.drop r.2)).map (r.1 :: ·)
    else (readVals codes saved t bs).map (VReg.u 0 :: ·)
/-- A stand read back from its record: V, S, P registers, FSTK, TREE counts; none when a code is bad. -/
def Stand.fromRecord (st : Stand) (spill : Bool) (b : List Byte) : Option Stand :=
  let saved := (List.range 128).filter fun i => decide (bits (ofBytes ((b.drop 0x40).take 16)) i 1 = 1)
  (readVals (ofBytes ((b.drop 0x50).take 64)) saved (List.range st.v.length) (b.drop 0x90)).map fun v =>
    if spill then { st with v := v }
    else
      { st with
        v := v
        s := (List.range 64).map fun i => wordAt b (0x4100 + 4 * i)
        p := (List.range 96).map fun i => wordAt b (0x4200 + 4 * i)
        fstk := BitVec.ofNat 3 (bits (ofBytes ((b.drop 4).take 4)) 16 3)
        tcnt := (List.range 8).map fun i => (wordAt b (0x20 + 4 * i)).toNat }
/-- Read a stand's record back. The registers come from memory; threads, flags and the handler are as they left. -/
def State.loadStand (s : State) (g slot : Nat) (st : Stand) (spill : Bool) : Except Nat (Option Stand) :=
  match s.launch st.launch with
  | none => .ok (some st)
  | some l =>
    match s.ctx l.ctx with
    | none => .ok (some st)
    | some cx =>
      match s.vreadBlocks l.ctx (cx.standArea g slot) (if spill then 0x409 else 0x440) with
      | .error e => .error e
      | .ok b => .ok (st.fromRecord spill b)

/-! What is saved (R24, R374) -/

/-- The packet of a thread that counts as at a safe point: it has stopped there, or is held at a RECON whose packet is one. -/
def State.atSp (s : State) (l : Launch) (t : Thread) : Option Nat :=
  let sp := s.spSet l (l.pkt t.pc) = some true
  if (t.st = .stopped ∨ t.st = .held) ∧ t.slot = 0 ∧ sp then some (l.pkt t.pc) else if t.st = .held ∧ sp then some (l.pkt t.pc) else none
/-- A liveness entry: the V, S and P registers it marks; all, when it cannot be read; bad, with the address the cause names, when it marks one beyond the declared counts, or when the safe-point table cannot be read or holds an offence (R21, R24). -/
inductive LiveRes where
  | all
  | bad (addr : Nat)
  | marks (v s p : Nat)
  deriving DecidableEq, Repr
/-- The entry of a safe point. Marks of T and ACC registers are judged against the declared counts; a save of a team takes all of them, and every CV is declared (R373, R374, log 107). -/
def State.liveness (s : State) (l : Launch) (pkt : Nat) : LiveRes :=
  match s.position l pkt with
  | .bad a => .bad a
  | .ok ord _ =>
    match s.vread l.ctx (l.code + l.hdr.sptOff + 8 * ord) 8 with
    | .error _ => .bad (l.code + l.hdr.sptOff + 8 * ord)
    | .ok e =>
      match s.vreadBlocks l.ctx (l.code + l.hdr.lvtOff + 48 * bits (ofBytes e) 32 24) 3 with
      | .error _ => .all
      | .ok b =>
        let v := ofBytes (b.take 16)
        let u := ofBytes ((b.drop 16).take 8)
        let p := ofBytes ((b.drop 24).take 12)
        let rest := ofBytes ((b.drop 36).take 2)
        if 2 ^ l.hdr.vregs ≤ v ∨ 2 ^ l.hdr.sregs ≤ u ∨ 2 ^ l.hdr.pregs ≤ p ∨ 2 ^ l.hdr.tiles ≤ rest % 256 ∨ 2 ^ l.hdr.accs ≤ rest / 256 then .bad 0 else .marks v u p
/-- Destinations of counted instructions still outstanding for a stand, and the predicate of an outstanding TREE (R24). -/
def State.pendingDest (s : State) (g slot : Nat) : List Nat := (s.ops.filter fun o => decide (o.2.g = g ∧ o.2.slot = slot)).flatMap fun o => (List.range o.2.nreg).map (o.2.d + ·)
def State.pendingPred (s : State) (g slot : Nat) : List Nat := s.rounds.flatMap fun r => (r.ins.filter fun m => decide (m.g = g ∧ m.slot = slot)).map (·.p)
/-- The registers to save, V, S, P; and the lanes whose entry is broken, with the address the cause names. A full save uses no entry (R24, R374). -/
def State.saveSet (s : State) (g slot : Nat) (st : Stand) (l : Launch) : (List Nat × List Nat × List Nat) × List (Nat × Nat) :=
  let all := (List.range l.hdr.vregs, List.range l.hdr.sregs, List.range l.hdr.pregs)
  let pts := (lanesOf st.live).map fun i => (i, s.atSp l (st.t false i))
  if st.full || st.h.isSome || pts.any (fun x => x.2.isNone) then (all, [])
  else
  let marks := pts.map fun x => (x.1, match x.2 with | some p => s.liveness l p | none => .all)
  let bad := marks.filterMap fun x => match x.2 with | .bad a => some (x.1, a) | .all => none | .marks _ _ _ => none
  if marks.any fun x => match x.2 with | .marks _ _ _ => false | .all => true | .bad _ => true then (all, bad)
  else
    let or (f : LiveRes → Nat) : Nat := (marks.map fun x => f x.2).foldl (· ||| ·) 0
    let v := or fun x => match x with | .marks v _ _ => v | _ => 0
    let u := or fun x => match x with | .marks _ u _ => u | _ => 0
    let p := or fun x => match x with | .marks _ _ p => p | _ => 0
    let dv := s.pendingDest g slot
    let dp := s.pendingPred g slot
    ((all.1.filter fun i => decide (bits v i 1 = 1) || dv.contains i, all.2.1.filter fun i => decide (bits u i 1 = 1), all.2.2.filter fun i => decide (bits p i 1 = 1) || dp.contains i), bad)
/-- Registers not saved read as 0 with shape U afterwards. -/
def Stand.keep (st : Stand) (vs ss ps : List Nat) : Stand :=
  { st with
    v := st.v.mapIdx fun i r => if vs.contains i then r else .u 0
    s := st.s.mapIdx fun i r => if ss.contains i then r else 0
    p := st.p.mapIdx fun i r => if ps.contains i then r else 0 }

/-! Names of stands that leave and return -/

/-- Rename a stand of a launch wherever its name stands; a team's signers are named by core and slot alone, since its members may come from several launches (R130). -/
def State.rename (s : State) (launch g slot g' slot' : Nat) : State :=
  let w2 (w : Nat × Nat × Nat) : Nat × Nat × Nat := if w.1 = g ∧ w.2.1 = slot then (g', slot', w.2.2) else w
  let reqs : Store Req := s.reqs.map fun r => if r.2.launch = launch ∧ r.2.g = g ∧ r.2.slot = slot then (r.1, { r.2 with g := g', slot := slot' }) else r
  let ops : Store Op := s.ops.map fun o => if o.2.launch = launch ∧ o.2.g = g ∧ o.2.slot = slot then (o.1, { o.2 with g := g', slot := slot' }) else o
  let cpys : Store Cpy := s.cpys.map fun c => if c.2.launch = launch ∧ c.2.g = g ∧ c.2.slot = slot then (c.1, { c.2 with slot := slot' }) else c
  let joins : List JoinWait := s.joins.map fun j => if j.g = g ∧ j.slot = slot then { j with g := g', slot := slot', cl := clusterOf g' } else j
  let ins (m : TreeIn) : TreeIn := if m.launch = launch ∧ m.g = g ∧ m.slot = slot then { m with g := g', slot := slot' } else m
  let rounds : List TreeRound := s.rounds.map fun r => { r with ins := r.ins.map ins }
  let fault (f : BFault) : BFault := { f with told := f.told.map w2 }
  let op (o : MOp) : MOp :=
    { o with
      fl := o.fl.map fun w => if w.1 = g ∧ w.2.1 = slot then (g', slot', w.2.2) else w
      signers := o.signers.map w2
      bad := o.bad.map fault
      split := o.split.map fault
      g := if o.g = g ∧ o.slot = slot then g' else o.g
      slot := if o.g = g ∧ o.slot = slot then slot' else o.slot }
  let batch (b : Batch) : Batch := { b with faults := b.faults.map fault }
  let teams : Store Team := s.teams.map fun t =>
    (t.1, { t.2 with cv := t.2.cv.map (fun c => { c with signers := c.signers.map w2 }), queue := t.2.queue.map op, openB := batch t.2.openB, batches := t.2.batches.map batch })
  { s with reqs := reqs, ops := ops, cpys := cpys, joins := joins, rounds := rounds, teams := teams }

/-- May a stand leave its core now (R324, R372)? Nothing of it issues, its counted operations are done, its skid entries are acknowledged or parked. One that waits for granules stops where it is. -/
def Stand.quiet (st : Stand) : Bool :=
  let ok (t : Thread) : Bool := match t.st with | .ready => false | .stalled => false | .issuing => false | _ => true
  (decide (0 < st.need) && !st.busy) || st.thr.all ok && (match st.h with | some h => h.thr.all ok | none => true)
def State.drained (s : State) (g slot : Nat) : Bool :=
  (s.ops.all fun o => decide (o.2.g ≠ g ∨ o.2.slot ≠ slot))
  && (s.reqs.all fun r => decide (r.2.g ≠ g ∨ r.2.slot ≠ slot) || r.2.cmd.isSome || r.2.team.isSome || r.2.open_.all fun a => a.parked.isSome)
  && (s.cpys.all fun c => decide (c.2.g ≠ g ∨ c.2.slot ≠ slot) || (c.2.moves.isEmpty && (s.reqs.all fun r => decide (r.2.cmd ≠ some c.1) || r.2.open_.all fun a => a.parked.isSome)))
/-- As drained, but for operations parked in a hold queue, whose flags stay up (R333). -/
def State.mayLeave (s : State) (key : Nat) (st : Stand) : Bool :=
  let g := gOf key
  let slot := slotOf key
  let waits (o : Nat × Op) : Bool := decide (o.2.kind = .atom) && (s.reqs.any fun r => decide (r.2.op = some o.1)) && s.reqs.all fun r => decide (r.2.op ≠ some o.1) || r.2.open_.all fun a => a.parked.isSome
  st.quiet && ({ s with ops := s.ops.filter fun o => !waits o }).drained g slot && (s.walks.all fun w => decide (w.2.g ≠ g ∨ w.2.slot ≠ slot))

/-- Threads that stopped go on; stalls are judged again. -/
def Thread.start (cyc : Nat) (t : Thread) : Thread :=
  match t.st with
  | .stopped => if t.dbg = .held then t else t.ready cyc
  | .stalled => t.ready cyc
  | _ => t
def Thread.loseWatch (cyc : Nat) (t : Thread) : Thread := t.loseIf cyc fun _ => true
/-- A stand that comes back: its threads go on, with an acquire before they issue (R324). -/
def Stand.back_ (cyc : Nat) (st : Stand) : Stand :=
  { st with thr := st.thr.map (Thread.start cyc), h := st.h.map (fun h => { h with thr := h.thr.map (Thread.start cyc) }), fresh := true, full := false, rcause := 0 }
/-- What waited for a stand's return: barrier releases, scratchpad words, tree results, its deliveries. -/
def State.resume (s : State) (g slot : Nat) : State :=
  let key := standKey g slot
  match s.stand key with
  | none => s
  | some st =>
    let m := (Store.find (scrKey st.launch g) s.scr).getD []
    let look (t : Thread) : Thread := if t.st = .parked .waita then { t with w := t.w.look (BitVec.ofNat 32 (ofBytes (memRead m t.w.a 4))) } else t
    let s := s.setStand key { st with thr := st.thr.map look, h := st.h.map fun h => { h with thr := h.thr.map look } }
    let s := (distinct (st.thr.filterMap (·.team))).foldl (fun s tid => s.barRelease tid) s
    let s := (s.rounds.filter fun r => r.ins.any fun m => decide (m.g = g ∧ m.slot = slot)).foldl (fun s r => s.treeSettle r.ctx r.grp r.round) s
    (s.tryDeliver key).reap key

/-! Shape spill (R142, R143) -/

/-- Does a stand wait for granules? -/
def Stand.parkedGran (st : Stand) : Bool := decide (0 < st.need)
/-- The victim of a spill: the stand that holds most, ties to the higher slot (R142). -/
def State.victim (s : State) (g : Nat) (ok : Nat → Stand → Bool) : Option (Nat × Stand) :=
  match (s.standsOn g).filter fun e => decide (e.2.place = .resident) && !e.2.parkedGran && decide (0 < e.2.hold) && ok e.1 e.2 with
  | [] => none
  | e :: t => some (t.foldl (fun a b => if a.2.hold < b.2.hold ∨ (a.2.hold = b.2.hold ∧ a.1 < b.1) then b else a) e)
/-- A stand leaves for its spill record once its skid entries are settled and nothing of it issues; forced: for a stand of another context. -/
def State.spillStand (s : State) (key : Nat) (st : Stand) (forced : Bool) : State :=
  if st.busy || (match st.h with | some h => h.thr.any fun t => decide (t.st = .issuing) | none => false) || !(s.drained (gOf key) (slotOf key)) then s
  else
    let vs := List.range st.v.length
    let s := s.saveStand (gOf key) (slotOf key) { st with rcause := 0 } 3 vs [] []
    ((s.setStand key { st with place := .spilled, order := s.seq, spilledV := [], need := st.hold, grant := (0, 0), forced := forced, fresh := true }).count (gOf key) (((s.launch st.launch).map (·.ctx)).getD 0) 6 1).newKey.2
/-- The highest register of shape G of a stand that is no operand or destination of an instruction waiting for granules, the program's or a handler's, named in it or by an index. -/
def Stand.spillable (st : Stand) (l : Launch) (s : State) (g : Nat) : Option Nat :=
  let one (hdl : Bool) (i : Nat) : List RegRef :=
    let t := st.t hdl i
    if t.st = .parked .gran then
      (match (s.packet g l t.pc).bind fun ws => decode ((ws.drop 1).drop t.slot) with
        | some p => p.1.regs ++ (st.seen hdl).idxRegs (bit i) p.1
        | none => [])
    else []
  let used := lanes32.flatMap fun i => one false i ++ one true i
  ((List.range st.v.length).reverse).find? fun i => decide (1 < (st.v.getD i (.u 0)).code) && !(st.spilledV.contains i) && !(used.contains (.v i))
/-- Wake the threads of a stand that wait for granules; those it asked for are kept for it (R143). -/
def Stand.granted (cyc : Nat) (st : Stand) : Stand :=
  let f (t : Thread) : Thread := if t.st = .parked .gran then t.ready cyc else t
  let q := maskOf (lanes32.filter fun i => decide ((st.t false i).st = .parked .gran ∨ (st.t true i).st = .parked .gran))
  { st with thr := st.thr.map f, h := st.h.map (fun h => { h with thr := h.thr.map f }), need := 0, grant := (st.need, q) }
/-- SHAPE_SPILL (R142): one step of the spill engine for a stand that waits for granules; with enough of them, the stand goes on. A register that is spilled from a running stand goes to the stand's spill record; a set in the shadow is written to its save area, and the shadow is empty then. -/
def execShapeSpill (g slot : Nat) (s : State) : Res :=
  let key := standKey g slot
  match s.stand key with
  | none => .next s
  | some st =>
    if st.need = 0 ∨ st.place ≠ .resident then .next s
    else if st.need ≤ s.freePool g then .next (s.setStand key (st.granted (s.cyc g)))
    else
      match s.launch st.launch with
      | none => .next s
      | some l =>
        let same (_ : Nat) (v : Stand) : Bool := match s.launch v.launch with | some k => decide (k.ctx = l.ctx) | none => false
        match s.victim g same with
        | some (k, v) => .next (s.spillStand k v false)
        | none =>
          match st.spillable l s g with
          | some i =>
            let vs := (List.range st.v.length).filter fun n => decide (n = i) || st.spilledV.contains n
            .next ((s.saveStand g slot { st with rcause := 0 } 3 vs [] []).setStand key { st with spilledV := i :: st.spilledV })
          | none =>
            match s.victim g fun k _ => decide (k ≠ key) with
            | some (k, v) => .next (s.spillStand k v true)
            | none =>
              let outs : List OutSet := s.outs.map fun o => if o.g = g ∧ o.shadow then { o with writing := true, since := s.now } else o
              .next (State.post { s with outs := outs } (.saveWriteDone g))
/-- A saved code from 5 to 15 (R379): code-object at every live thread's return point. -/
def State.badCode (s : State) (key : Nat) : State :=
  match s.stand key with
  | none => s
  | some st =>
    match s.launch st.launch with
    | none => s
    | some l => s.take key false st.launch { cause := 0x02, kind := 0, acc := 0, ghost := false, lanes := (lanesOf st.live).map fun i => let t := st.t false i; { lane := i, pkt := l.pkt t.pc, slot := t.slot, addr := 0, retPc := t.pc, retSlot := t.slot } }
/-- A context's class, 0 the highest. -/
def State.clsOf (s : State) (launch : Nat) : Nat := (((s.launch launch).bind fun l => s.ctx l.ctx).map (·.cls)).getD 3
/-- The spilled stand of a core that returns next: the first spilled, but before one of a lower class comes one that step 3 did not spill (R143). -/
def State.nextBack (s : State) : List (Nat × Stand) → Option (Nat × Stand)
  | [] => none
  | e :: t =>
    let first (x : Nat × Stand) (xs : List (Nat × Stand)) : Nat × Stand := xs.foldl (fun a b => if b.2.order < a.2.order then b else a) x
    let v := first e t
    match (e :: t).filter fun x => !x.2.forced && decide (s.clsOf x.2.launch < s.clsOf v.2.launch) with
    | [] => some v
    | y :: ys =>
      let c := ys.foldl (fun m x => min m (s.clsOf x.2.launch)) (s.clsOf y.2.launch)
      (match (y :: ys).filter fun x => decide (s.clsOf x.2.launch = c) with
        | [] => some v
        | z :: zs => some (first z zs))
/-- SPILL_RETURN (R143): the spilled stand whose turn it is, once the pool holds what it held. -/
def execSpillReturn (g : Nat) (s : State) : Res :=
  match s.nextBack ((s.standsOn g).filter fun e => decide (e.2.place = .spilled)) with
  | none => .next s
  | some v =>
    let waits := (s.standsOn g).any fun x => decide (x.2.place = .resident) && (x.2.parkedGran || !x.2.reload.isEmpty)
    if waits ∨ s.freePool g < v.2.need then .next s
    else
      match s.loadStand g (slotOf v.1) v.2 true with
      | .error _ => .next (s.postFirst (.kill v.2.launch 0x1E))
      | .ok none => .next (((s.setStand v.1 { v.2 with place := .resident, need := 0, forced := false }).badCode v.1).resume g (slotOf v.1))
      | .ok (some st) => .next ((s.setStand v.1 { st with place := .resident, need := 0, forced := false }).resume g (slotOf v.1))
/-- SPILL_RELOAD (R142): the registers that a parked instruction waits for come back from the spill record, once the pool gives their granules. -/
def execSpillReload (g slot : Nat) (s : State) : Res :=
  let key := standKey g slot
  match s.stand key with
  | none => .next s
  | some st =>
    if st.reload = [] ∨ st.place ≠ .resident then .next s
    else
      let w := { st with spilledV := st.spilledV.filter fun i => !(st.reload.contains i), reload := [] }
      if s.lacks g st w then .next (s.setStand key { st with need := w.hold - st.hold, grant := (0, 0) })
      else
        let done (v : List VReg) : Stand := { (w.granted (s.cyc g)) with v := w.v.mapIdx fun i r => if st.reload.contains i then v.getD i r else r, grant := (0, 0) }
        match s.loadStand g slot st true with
        | .error _ => .next (s.postFirst (.kill st.launch 0x1E))
        | .ok (some b) => .next (s.setStand key (done b.v))
        | .ok none => .next ((s.setStand key (done [])).badCode key)

end Sys2Proof.Machine
end

