-- ==== Sys2Proof/Machine/Switch.lean ====
section
/-! DEFINITION. The shadow allocation and the switch of a core's resident context (17 R369 to R382). -/
namespace Sys2Proof.Machine

def State.launchCtx (s : State) (k : Nat) : Option Nat := (s.launch k).map (·.ctx)
/-- The stands of a context on a core. -/
def State.standsOf (s : State) (g c : Nat) : List (Nat × Stand) := (s.standsOn g).filter fun e => decide (s.launchCtx e.2.launch = some c)
/-- The set a core's shadow holds. -/
def State.shadow (s : State) (g : Nat) : Option OutSet := s.outs.find? fun o => decide (o.g = g) && o.shadow
/-- Is the shadow loaded with a set that can come in? -/
def State.loaded (s : State) (g : Nat) : Option OutSet := match s.shadow g with | some o => if o.writing then none else some o | none => none
def State.switchOn (s : State) (g : Nat) : Option Switch := s.switches.find? fun w => decide (w.g = g)

/-- Threads of a stand counted against the threshold: live ones that no debugger holds, and the parked among them. -/
def Stand.parkCount (st : Stand) : Nat × Nat :=
  let ts := (lanesOf (st.live &&& st.ex)).map fun l => st.t false l
  let ts := ts.filter fun t => decide (t.dbg ≠ .held)
  (ts.length, (ts.filter fun t => decide (0 < st.need ∧ st.place = .resident) || match t.st with | .parked _ => true | _ => false).length)
/-- The trigger of R371 other than the slice's end: a cause, or none. -/
def State.switchCause (s : State) (g : Nat) : Option Nat :=
  match s.loaded g, Store.find g s.resident, s.switchOn g with
  | some _, some (c, _), none =>
    let n : Nat × Nat := ((s.standsOf g c).map fun e => e.2.parkCount).foldl (fun a b => (a.1 + b.1, a.2 + b.2)) (0, 0)
    let live : Nat := ((s.standsOf g c).map fun e => (lanesOf e.2.live).length).foldl (· + ·) 0
    let park : Nat := ((s.ctx c).map (·.park)).getD 100
    if live = 0 ∨ park * n.1 < 100 * n.2 then some 0x3A else none
  | _, _, _ => none
def State.budget (s : State) (c : Nat) : Nat := ((s.ctx c).map (·.budgetc)).getD 0
/-- SWITCH_OUT (R371, R372): the park threshold, or no live thread: the context's threads stop. -/
def execSwitchOut (g : Nat) (s : State) : Res :=
  match s.switchCause g, Store.find g s.resident with
  | some cause, some (c, _) => .next { s with switches := s.switches ++ [{ g := g, ctx := c, cause := cause, budgetEnd := some (s.cyc g + s.budget c), past := false }] }
  | _, _ => .next s
/-- The slice of a partition in ticks (R375). -/
def Part.sliceLen (p : Part) : Option Nat := if p.slice = 0 then none else some (max 10000 p.slice)
/-- Has the slice of the resident context ended? No packet of it is being executed on the core. -/
def State.sliceOver (s : State) (g : Nat) : Bool :=
  match s.loaded g, Store.find g s.resident, s.switchOn g with
  | some _, some (c, since), none =>
    (match (s.part (s.partOf c)).sliceLen with | some n => decide (since + n ≤ s.now) | none => false) && !((s.standsOf g c).any fun e => e.2.busy)
  | _, _, _ => false
/-- SLICE_END (R376): 0x38 to every stand of the context that has a live thread; the budget starts. -/
def execSliceEnd (g : Nat) (s : State) : Res :=
  match s.sliceOver g, Store.find g s.resident with
  | true, some (c, _) =>
    let s1 := { s with switches := s.switches ++ [{ g := g, ctx := c, cause := 0x38, budgetEnd := some (s.cyc g + s.budget c), past := false }] }
    let give (s : State) (e : Nat × Stand) : State :=
      if e.2.live = 0 then s else (s.onStand e.1 fun st => { st with dl := st.dl ++ [{ cause := 0x38, kind := 3, acc := 0, ghost := false, lanes := [] }] }).tryDeliver e.1
    .next ((s.standsOf g c).foldl give s1)
  | _, _ => .next s
/-- BUDGET_OVERRUN (R372): the budget has run out; what has not stopped stops at its next packet and takes a full save. -/
def execBudgetOverrun (g : Nat) (s : State) : Res :=
  match s.switchOn g with
  | none => .next s
  | some w =>
    match w.budgetEnd with
    | none => .next s
    | some t =>
      if w.past || decide (s.cyc g < t) then .next s
      else
        let late := (s.standsOf g w.ctx).filter fun e => !e.2.quiet
        .next (late.foldl (fun s e => s.onStand e.1 fun st => { st with rcause := 0x39, full := true }) { s with switches := s.switches.map fun x => if x = w then { x with past := true } else x })

/-! Stands that leave and come back (R373, R374) -/

/-- The name of a stand that has left: its slot below, and above that a number of its own. -/
def outName (seq slot : Nat) : Nat := 64 + 32 * seq + slot
/-- A cause that a stand takes once it is back, in some of its lanes, each with the address it names. -/
def Stand.later (st : Stand) (l : Launch) (cause : Nat) (lanes : List (Nat × Nat)) : Stand :=
  let d : Delivery := { cause := cause, kind := 0, acc := 0, ghost := false, lanes := lanes.map fun i => let t := st.t false i.1; { lane := i.1, pkt := l.pkt t.pc, slot := t.slot, addr := BitVec.ofNat 64 i.2, retPc := t.pc, retSlot := t.slot } }
  if lanes.isEmpty then st else { st.onTs false d.mask (Thread.park .delivery) with dl := st.dl ++ [d] }
/-- A stand leaves its core under a name of its own: what a save keeps of it. cause: recorded when no other is. -/
def State.takeOut (s : State) (key cause : Nat) : State × Option (Nat × Stand × Nat × List Nat × List Nat × List Nat) :=
  match s.stand key with
  | none => (s, none)
  | some st =>
    match s.launch st.launch with
    | none => (s, none)
    | some l =>
      let g := gOf key
      let slot := slotOf key
      let r := s.saveSet g slot st l
      let all := decide (r.1.1 = List.range l.hdr.vregs ∧ r.1.2.1 = List.range l.hdr.sregs ∧ r.1.2.2 = List.range l.hdr.pregs)
      let st1 := ((st.keep r.1.1 r.1.2.1 r.1.2.2).later l 0x02 r.2)
      let st2 := { st1 with place := .resident, spilledV := [], need := 0, reload := [], grant := (0, 0), forced := false, rcause := if st.rcause = 0 then cause else st.rcause, thr := st1.thr.map (Thread.loseWatch (s.cyc g)) }
      let name := outName s.seq slot
      let s1 := ({ s with stands := s.stands.del key, seq := s.seq + 1 }.rename st.launch g slot g name).trace 4 st2.rcause 0 slot g l.ctx l.number 0 st.num
      (s1, some (name, st2, (if all then 2 else 1), r.1.1, r.1.2.1, r.1.2.2))
/-- A free slot of a core: the one a stand had, else the lowest. -/
def State.slotFor (s : State) (g want : Nat) : Option Nat :=
  if (s.stand (standKey g want)).isNone then some want else (List.range 32).find? fun n => (s.stand (standKey g n)).isNone
/-- A stand comes back to a core from a name. -/
def State.bringIn (s : State) (og name : Nat) (st : Stand) (g slot : Nat) : State :=
  let s := (s.rename st.launch og name g slot).setStand (standKey g slot) (st.back_ (s.cyc g))
  let s := match s.launch st.launch with | some l => s.trace 5 0 0 slot g l.ctx l.number 0 st.num | none => s
  s.resume g slot
/-- SWAP_IN (R373): every stand of the context has stopped and may leave: the shadow's stands come in, those that leave are its contents. -/
def execSwapIn (g : Nat) (s : State) : Res :=
  match s.switchOn g, s.loaded g with
  | some w, some o =>
    let mine := s.standsOf g w.ctx
    if !(mine.all fun e => s.mayLeave e.1 e.2) then .next s
    else
      let p := mine.foldl (fun (p : State × Store Stand × Store (Nat × List Nat × List Nat × List Nat)) e =>
        let r := p.1.takeOut e.1 w.cause
        match r.2 with
        | some (n, st, set) => (r.1, p.2.1.put n st, p.2.2.put n set)
        | none => (r.1, p.2)) (s, [], [])
      let teams : Store Team := p.1.teams.map fun t => (t.1, if t.2.home = g then { t.2 with saved := if t.2.ctx = w.ctx then true else if t.2.ctx = o.ctx then false else t.2.saved } else t.2)
      let out : OutSet := { g := g, ctx := w.ctx, stands := p.2.1, sets := p.2.2, shadow := true, writing := true, since := s.now }
      let rest := p.1.outs.filter fun x => decide (x ≠ o)
      let s1 := { p.1 with
        outs := if out.stands.isEmpty then rest else rest ++ [out]
        switches := p.1.switches.filter fun x => decide (x ≠ w)
        resident := Store.put g (o.ctx, s.now) p.1.resident
        teams := teams }
      let put (s : State) (e : Nat × Stand) : State :=
        match s.slotFor g (e.1 % 32) with
        | some n => s.bringIn g e.1 e.2 g n
        | none => { s with outs := s.outs ++ [{ o with stands := [e], sets := [], shadow := false, since := s.now }] }
      .next ((o.stands.foldl put s1).count g w.ctx 10 1)
  | _, _ => .next s

/-! The save area of teams (R382) -/

/-- Elements of n bits, packed. -/
def packBits (n : Nat) (xs : List Nat) : List Byte := toBytes ((n * xs.length + 7) / 8) (xs.foldr (fun x a => x % 2 ^ n + 2 ^ n * a) 0)
def Tile.meta (t : Tile) : List Byte := toBytes 2 t.r ++ toBytes 1 t.k ++ toBytes 1 t.fmt ++ toBytes 4 (toPat t.sb 32)
def padTo (n : Nat) (b : List Byte) : List Byte := b ++ List.replicate (n - b.length) 0
/-- The 256 bytes of a queue entry, and the 64 of the operation in progress with its next slice: R382 gives their place and what they hold, and no layout; they are free values (log 108). -/
def freeBytes (seed n : Nat) : List Byte := (List.range n).map fun i => BitVec.ofNat 8 (Config.fresh (seed + i))
/-- Section 8 of a team record: the operations that wait, and the one in progress (R286, R382). -/
def Team.bucker (t : Team) (seed : Nat) : List (Nat × List Byte) :=
  let going := match t.queue with | o :: _ => decide (0 < o.next) | [] => false
  (if going then [(0x4A000, freeBytes seed 64)] else [])
    ++ ((if going then t.queue.drop 1 else t.queue).take 16).mapIdx fun i _ => (0x49000 + 256 * i, freeBytes (seed + 64 + 256 * i) 256)
/-- The parts of a team record. bar: the barrier fields and section 5 are written too (R75). Of the batch states the committed ones come first, then the open one, as far as there is room (log 108). -/
def Team.parts (t : Team) (bar : Bool) (seed : Nat) : List (Nat × List Byte) :=
  let batch (b : Batch) (com : Bool) : List Byte := toBytes 1 b.left ++ [if com then 1 else 0, 0]
  let head := toBytes 2 t.num ++ toBytes 2 t.size ++ toBytes 2 t.count ++ toBytes 2 t.home ++ (if bar then toBytes 4 t.barN ++ toBytes 4 t.barPh else List.replicate 8 0)
    ++ padTo 64 (t.tile.flatMap Tile.meta) ++ padTo 32 (t.acc.flatMap fun a => toBytes 1 (a.m / 16) ++ toBytes 1 (a.n / 16) ++ toBytes 1 a.ty ++ [0])
    ++ t.depth.map (fun d => BitVec.ofNat 8 d) ++ padTo 12 (((t.batches.flatMap fun b => batch b true) ++ batch t.openB false).take 12)
  let tiles := t.tile.mapIdx fun i x => (0x1000 + 0x4000 * i, packBits (fmtBits x.fmt) x.el)
  let accs := t.acc.mapIdx fun i a => (0x21000 + (if t.accs ≤ 4 then 0x8000 else 0x4000) * i, packBits (8 * (if a.ty = 2 then 8 else 4)) a.el)
  let latch := t.latch.mapIdx fun i r => (0x41000 + 256 * i, r.flatMap fun w => toBytes 4 w.toNat)
  let cv (c : Cv) : List Byte := padTo 32 (toBytes 4 (if c.sig = [] then 0 else 1) ++ toBytes 4 c.count ++ (c.sig.take 3).flatMap fun w => toBytes 4 w.toNat)
  [(0, head)] ++ (if bar then [(0x100, t.cv.flatMap cv)] else []) ++ tiles ++ accs ++ latch ++ t.bucker seed
/-- The record number of a team in its cluster: its place among the cluster's records. -/
def State.teamIx (s : State) (tid : Nat) (t : Team) : Nat := (s.teams.filter fun e => decide (e.2.cl = t.cl ∧ e.1 < tid)).length
/-- Save a team's record with all its tiles and accumulators, whatever a liveness entry marks (log 107); a landing fault kills its launch. -/
def State.saveTeam (s : State) (tid : Nat) (bar : Bool) : State :=
  match s.team tid with
  | none => s
  | some t =>
    match s.ctx t.ctx with
    | none => s
    | some cx =>
      match s.writeParts t.ctx (cx.teamArea t.cl (s.teamIx tid t)) (t.parts bar s.fresh) with
      | .ok s' => { s' with fresh := s'.fresh + 8192 }
      | .error _ => s.postFirst (.kill t.launch 0x1E)
/-- Write a set's records. -/
def State.saveSetOut (s : State) (o : OutSet) : State :=
  o.stands.foldl (fun s e => match Store.find e.1 o.sets with | some (how, vs, ss, ps) => s.saveStand o.g e.1 e.2 how vs ss ps | none => s) s
/-- SAVE_WRITE_DONE (R373): the last write of the set is acknowledged; the shadow is empty. -/
def execSaveWriteDone (g : Nat) (s : State) : Res :=
  match s.shadow g with
  | none => .next s
  | some o =>
    if !o.writing then .next s
    else
      let s1 := s.saveSetOut o
      let tids := (s1.teams.filter fun t => decide (t.2.home = g ∧ t.2.ctx = o.ctx)).map (·.1)
      let s2 := tids.foldl (fun s t => s.saveTeam t false) s1
      .next { s2 with outs := s2.outs.map fun x => if x.g = g ∧ x.shadow then { x with shadow := false, writing := false } else x }

/-! The Umpire's choice of a set (R370) -/

/-- Read a set back from the save area. -/
def State.readSet (s : State) (o : OutSet) : State × OutSet :=
  o.stands.foldl (fun (p : State × OutSet) e =>
    match p.1.loadStand o.g e.1 e.2 false with
    | .error _ => (p.1.postFirst (.kill e.2.launch 0x1E), p.2)
    | .ok (some st) => (p.1, { p.2 with stands := p.2.stands.put e.1 st })
    | .ok none =>
      match p.1.launch e.2.launch with
      | some l => (p.1, { p.2 with stands := p.2.stands.put e.1 (e.2.later l 0x02 ((lanesOf e.2.live).map fun i => (i, 0))) })
      | none => p) (s, o)
/-- Load a waiting context into the shadow of a core: its set there, or an empty one. -/
def State.shadowLoad (s : State) (g d : Nat) : State :=
  match s.outs.find? fun o => decide (o.g = g ∧ o.ctx = d) with
  | some o =>
    let r := s.readSet o
    { r.1 with outs := r.1.outs.map fun x => if x = o then { r.2 with shadow := true } else x }
  | none => { s with outs := s.outs ++ [{ g := g, ctx := d, stands := [], sets := [], shadow := true, writing := false, since := s.now }] }

end Sys2Proof.Machine
end

