-- ==== Sys2Proof/Machine/Context.lean ====
section
/-! DEFINITION. Context descriptors, commands and loop state (01 R30 to R32, 02 R58, 04 R86, R91, R92, R94). -/
namespace Sys2Proof.Machine

/-- A little-endian field of a record in memory. -/
def field (b : List Byte) (off n : Nat) : Nat := ofBytes ((b.drop off).take n)
/-- Are all bytes of a part 0? -/
def zeros (b : List Byte) (off n : Nat) : Bool := ((b.drop off).take n).all fun x => decide (x = 0)

/-- Ranges of the five actuators (R30, R84). -/
def actRange : List (Nat × Nat) := [(1, 32), (1, 384), (0, 16), (0, 64), (0, 24)]
/-- Is a pair of limits within the range of its actuator, and in order (R31)? -/
def actOk (k lo hi : Nat) : Bool := match actRange[k]? with | some (a, b) => decide (a ≤ lo ∧ lo ≤ hi ∧ hi ≤ b) | none => false
/-- A number as a signed one of n bits, exact. -/
def sgn (n x : Nat) : Int := sx x n

/-- The loop of a context as its descriptor gives it (R30, R92): with VALID 0 it starts from nothing, with VALID 1 from the fields as written; every position starts at its minimum. -/
def Loop.ofDesc (b : List Byte) (now : Nat) : Loop :=
  let used := decide (bits (field b 0x4B 1) 7 1 = 1)
  let act : List (Nat × Nat) := (List.range 5).map fun i => (field b (0x80 + 4 * i) 2, field b (0x82 + 4 * i) 2)
  let n (off k : Nat) : Nat := if used then field b (0x40 + off) k else 0
  let iv := field b 0x2C 4
  { target := field b 0x30 2, ontime := decide (bits (field b 0 4) 24 1 = 1), kp := field b 0x34 2, ki := field b 0x36 2,
    ilim := field b 0x38 2, smax := bits (field b 0x3A 1) 0 4, act := act,
    intg := if used then sgn 32 (field b 0x40 4) else 0, mlast := n 4 4, elast := if used then sgn 16 (field b 0x48 2) else 0, ulast := if used then sgn 8 (field b 0x4A 1) else 0,
    cur := if used then bits (field b 0x4B 1) 0 3 else 0, starved := used && decide (bits (field b 0x4B 1) 3 1 = 1), satup := used && decide (bits (field b 0x4B 1) 4 1 = 1),
    satdn := used && decide (bits (field b 0x4B 1) 5 1 = 1), miss := used && decide (bits (field b 0x4B 1) 6 1 = 1),
    idle := false, clkok := false, shed := false, refused := false, busy := false,
    bcnt := n 0x0C 4, pos := act.map (·.1), steps := n 0x20 4, starvn := n 0x24 4, laten := n 0x28 4, missn := n 0x2C 4,
    iold := 0, req := [0, 0, 0, 0, 0], posted := false,
    want := if used then (List.range 5).map fun i => min (field b (0x50 + 2 * i) 2) (field b (0x82 + 4 * i) 2) else act.map (·.2),
    interval := iv, newInt := none, k := now / max 1 iv, active := false, latches := [], mFirst := 0, mN := 0, mEn := false, merged := [], counts := [], reads := 0, past := 0,
    from_ := now, targetNow := field b 0x30 2, ontimeNow := decide (bits (field b 0 4) 24 1 = 1) }

/-- The limits of a descriptor (R30, R31, R32, R92). -/
def descOk (b : List Byte) : Bool :=
  let w0 := field b 0 4
  let w3a := field b 0x38 4
  let lim := field b 0x38 2
  let intg := sgn 32 (field b 0x40 4)
  decide (bits w0 15 1 = 0 ∧ bits w0 21 2 ≠ 3 ∧ bits w0 25 7 = 0)
    && decide (1 ≤ field b 4 4 ∧ field b 4 4 ≤ 100)
    && decide (field b 8 8 % 4096 = 0 ∧ field b 8 8 < 2 ^ 52 ∧ field b 0x10 8 % 64 = 0 ∧ field b 0x18 8 % 512 = 0 ∧ field b 0x20 8 % 4096 = 0)
    && decide (256 ≤ field b 0x28 4 ∧ field b 0x28 4 ≤ 16777215 ∧ 10000 ≤ field b 0x2C 4 ∧ field b 0x2C 4 ≤ 1000000)
    && decide (field b 0x32 2 = 0 ∨ bits w0 21 2 = 0)
    && decide (lim ≤ 32767 ∧ 1 ≤ bits w3a 16 4 ∧ bits w3a 20 12 = 0 ∧ field b 0x3C 4 = 0)
    && decide (-(lim : Int) ≤ intg ∧ intg ≤ (lim : Int) ∧ bits (field b 0x4B 1) 0 3 < 6)
    && zeros b 0x5A 6 && zeros b 0x70 16 && zeros b 0x94 108
    && (List.range 5).all fun i => actOk i (field b (0x80 + 4 * i) 2) (field b (0x82 + 4 * i) 2)

def Dbg.off : Dbg :=
  { deliv := false, stop := false, bp := [(0, false), (0, false), (0, false), (0, false)], waddr := 0, wcfg := 0, rsel := 0, rdata := 0, pend := none, drainAt := 0,
    res := 0, hit := 0, whit := false, drainto := 100000, smpctl := 0, lost := 0, smp := [] }
/-- A context from its descriptor (R30). -/
def Ctx.ofDesc (b : List Byte) (addr now : Nat) : Ctx :=
  let w0 := field b 0 4
  { desc := addr, fn := 0, ctag := bits w0 0 15, part := bits w0 16 5, cls := bits w0 21 2, hmode := decide (bits w0 23 1 = 1), park := bits (field b 4 4) 0 7,
    ptroot := field b 8 8, tidbase := field b 0x10 8, tvbase := field b 0x18 8, savebase := field b 0x20 8, budgetc := field b 0x28 4, lattgt := field b 0x32 2,
    started := 0, lastCore := none, loop := Loop.ofDesc b now, dbg := Dbg.off }

/-- Clusters a partition owns (R63). -/
def Part.owns (p : Part) (gcl : Nat) : Bool := decide (bits p.clu gcl 1 = 1)
def Part.clusters (p : Part) : Nat := ((List.range 96).filter p.owns).length
/-- Is the clock actuator of a context available (R86)? -/
def State.clockOk (s : State) (c : Nat) : Bool :=
  match s.ctx c with
  | none => false
  | some cx => decide (0 < (s.part cx.part).clusters) && s.ctxs.all fun e => decide (e.1 = c) || decide (e.2.part ≠ cx.part)
/-- CLKOK of every context is judged again; when it falls, the clock's position reads 16. -/
def State.clockCheck (s : State) : State :=
  { s with ctxs := s.ctxs.map fun e =>
      let ok := s.clockOk e.1
      (e.1, { e.2 with loop := { e.2.loop with clkok := ok, pos := if ok then e.2.loop.pos else e.2.loop.pos.set 4 16 } }) }

/-- Bytes of LOOPST (R91), with VALID 1. -/
def Loop.bytes (l : Loop) : List Byte :=
  let f (b : Bool) (n : Nat) : Nat := if b then 2 ^ n else 0
  toBytes 4 (toPat l.intg 32) ++ toBytes 4 l.mlast ++ toBytes 2 (toPat l.elast 16) ++ toBytes 1 (toPat l.ulast 8)
    ++ toBytes 1 (l.cur % 8 + f l.starved 3 + f l.satup 4 + f l.satdn 5 + f l.miss 6 + 128)
    ++ toBytes 4 l.bcnt ++ l.pos.flatMap (toBytes 2) ++ List.replicate 6 0 ++ toBytes 4 l.steps ++ toBytes 4 l.starvn ++ toBytes 4 l.laten ++ toBytes 4 l.missn ++ List.replicate 16 0

/-- The virtual address of a byte of device memory under the owner record of its unit, with its tag. -/
def State.ownerVa (s : State) (pa : Nat) : Option (Nat × Nat) :=
  (s.owners.find? fun o => decide (o.unit = unitOf .dev pa)).map fun o => (o.tag, o.vpage * 2 ^ o.size + pa % 2 ^ o.size)
/-- A write to device memory by its physical address, performed at its home slice: within one line. -/
def State.physLine (s : State) (pa : Nat) (bs : List Byte) : State :=
  let o := (s.ownerVa pa).getD (0, 0)
  let s1 := (s.dirtyLine .dev pa).pokeN .dev pa bs
  let s2 := if (s.ownerVa pa).isSome then s1.touch o.1 (lineOf o.2) none else s1
  let s3 := s2.touchFront .dev pa
  if bs.length = 128 then { s3 with poison := s3.poison.filter fun l => decide (l ≠ homeKey .dev pa) } else s3
/-- The same for any number of bytes, line by line. -/
def State.physWrite (s : State) (pa : Nat) : Nat → List Byte → State
  | 0, _ => s
  | n + 1, bs => if bs.isEmpty then s else
      let k := 128 - pa % 128
      (s.physLine pa (bs.take k)).physWrite (pa + k) n (bs.drop k)
/-- LOOPST of a context is written back. -/
def State.loopBack (s : State) (c : Nat) : State :=
  match s.ctx c with
  | some cx => s.physWrite (cx.desc + 0x40) 2 cx.loop.bytes
  | none => s

/-- Is a launch of a context in flight: accepted and not finished? -/
def State.inFlight (s : State) (c : Nat) : Bool := s.launches.any fun l => decide (l.2.ctx = c)
/-- Is a queue bound to a context (R34)? -/
def State.bound (s : State) (c : Nat) : Bool := s.queues.any fun q => q.2.en && decide (q.2.ctx = c)
/-- Is a context's partition being reset (R409)? -/
def State.resetting (s : State) (p : Nat) : Bool := (s.part p).resetAt.isSome
/-- A command ends with a result, which shows once BUSY falls. -/
def State.ctxResult (s : State) (fn res : Nat) : State := { s with fns := Store.put fn { s.fn fn with ctxResult := res } s.fns }
/-- The descriptor that a command names, when it keeps the limits. -/
def State.descAt (s : State) (fn : Nat) : Option (Nat × List Byte) :=
  let a := (s.fn fn).ctxAddr / 256 * 256
  let b := memRead s.mem a 256
  if devEnd ≤ a ∨ descOk b = false then none else some (a, b)
/-- CTX_CREATE. -/
def execCtxCreate (fn c : Nat) (s : State) : Res :=
  .next (if (s.ctx c).isSome then s.ctxResult fn 3 else
    match s.descAt fn with
    | none => s.ctxResult fn 1
    | some (a, b) =>
      let cx := { Ctx.ofDesc b a s.now with fn := fn }
      if (s.part cx.part).fn ≠ fn then s.ctxResult fn 4
      else if s.resetting cx.part then s.ctxResult fn 2
      else ({ s with ctxs := Store.put c cx s.ctxs }.clockCheck).ctxResult fn 0)
/-- CTX_RELOAD. A LOOPST write-back that is under way is performed first (R92). -/
def execCtxReload (fn c : Nat) (s : State) : Res :=
  .next (match s.ctx c with
    | none => s.ctxResult fn 3
    | some old =>
      if (s.part old.part).fn ≠ fn then s.ctxResult fn 4
      else if s.inFlight c ∨ s.resetting old.part then s.ctxResult fn 2
      else
        let s := if old.loop.busy then (s.loopBack c).onCtx c fun x => { x with loop := { x.loop with busy := false } } else s
        match s.descAt fn with
        | none => s.ctxResult fn 1
        | some (a, b) =>
          let cx := { Ctx.ofDesc b a s.now with fn := fn, started := old.started, dbg := old.dbg }
          if (s.part cx.part).fn ≠ fn then s.ctxResult fn 4
          else if s.resetting cx.part then s.ctxResult fn 2
          else ({ s with ctxs := Store.put c cx s.ctxs }.clockCheck).ctxResult fn 0)
/-- A context is gone: its resident marks, sets without stands, rounds and owner records. -/
def State.dropCtx (s : State) (c : Nat) : State :=
  { s with
    ctxs := s.ctxs.del c
    resident := s.resident.filter fun e => decide (e.2.1 ≠ c)
    outs := s.outs.filter fun o => decide (o.ctx ≠ c)
    switches := s.switches.filter fun w => decide (w.ctx ≠ c)
    rounds := s.rounds.filter fun r => decide (r.ctx ≠ c)
    owners := s.owners.filter fun o => decide (o.ctx ≠ c) }.clockCheck
/-- CTX_DESTROY: its loop state is written back first. -/
def execCtxDestroy (fn c : Nat) (s : State) : Res :=
  .next (match s.ctx c with
    | none => s.ctxResult fn 3
    | some cx =>
      if (s.part cx.part).fn ≠ fn then s.ctxResult fn 4
      else if s.bound c ∨ s.inFlight c ∨ s.resetting cx.part then s.ctxResult fn 2
      else ((s.loopBack c).dropCtx c).ctxResult fn 0)
/-- CTX_CMD_NONE: a GO with OP 0. -/
def execCtxCmdNone (fn _c : Nat) (s : State) : Res := .next (s.ctxResult fn 0)
/-- CTX_COMMAND_DONE: BUSY falls. -/
def execCtxCommandDone (fn : Nat) (s : State) : Res := .next { s with fns := Store.put fn { s.fn fn with ctxBusy := false } s.fns }

/-! BT_CMD (R92, R94) -/

/-- May a function touch a context's BT_ block (R94)? -/
def State.btOwn (s : State) (fn c : Nat) : Bool :=
  match s.ctx c with
  | some cx => (decide (fn = 0) || decide ((s.part cx.part).fn = fn)) && !s.resetting cx.part
  | none => false
/-- Change a loop. -/
def State.onLoop (s : State) (c : Nat) (f : Loop → Loop) : State := s.onCtx c fun x => { x with loop := f x.loop }
/-- A write that breaks a limit, or comes while BUSY is 1, sets REFUSED (R95). -/
def State.btRefuse (s : State) (c : Nat) : State := s.onLoop c fun l => { l with refused := true }
/-- A write to a BT_ register: nothing for a context that is not the function's; refused while BUSY is 1. -/
def State.btWrite (s : State) (fn c : Nat) (f : State → State) : Res :=
  if s.btOwn fn c = false then .next s
  else match s.ctx c with
    | some cx => if cx.loop.busy then .next (s.btRefuse c) else .next (f s)
    | none => .next s
/-- LOOP_SAVE: the write-back starts. -/
def execLoopSave (fn c : Nat) (s : State) : Res := s.btWrite fn c fun s => s.onLoop c fun l => { l with busy := true }
/-- LOOP_SAVE_DONE: the write-back is performed and BUSY falls. -/
def execLoopSaveDone (c : Nat) (s : State) : Res :=
  match s.ctx c with
  | some cx => if cx.loop.busy then .next ((s.loopBack c).onLoop c fun l => { l with busy := false }) else .next s
  | none => .next s
/-- LOOP_CLEAR. -/
def execLoopClear (fn c : Nat) (s : State) : Res :=
  s.btWrite fn c fun s => s.onLoop c fun l => { l with intg := 0, starved := false, satup := false, satdn := false, miss := false }

end Sys2Proof.Machine
end

