-- ==== Sys2Proof/Machine/Place.lean ====
section
/-! DEFINITION. Placement of stands, partitions' holdings, calendars, borrowing and reclaim (03 R62 to R75). -/
namespace Sys2Proof.Machine

/-! Admission (R66) -/

/-- Stands of a launch: one for each 32 threads. -/
def Launch.total (l : Launch) : Nat := (l.x * l.y * l.z + 31) / 32
/-- The worst case of a stand: 16 granules for each register of VREGS rounded up to 8. -/
def Header.worst (h : Header) : Nat := 16 * ((h.vregs + 7) / 8 * 8)
/-- The charge of a resident stand: what it holds, or its BUDGET. -/
def State.charge (s : State) (st : Stand) : Nat := max st.hold (((s.launch st.launch).map (·.hdr.budget)).getD 0)
/-- The pool as admission sees it: less the charges, and less the granules of the shadow. -/
def State.chargePool (s : State) (g : Nat) : Nat :=
  32768 - ((s.standsOn g).map fun e => s.charge e.2).foldl (· + ·) 0
        - ((s.outs.filter fun o => decide (o.g = g) && o.shadow).map fun o => (o.stands.map fun e => e.2.hold).foldl (· + ·) 0).foldl (· + ·) 0
/-- Scratchpad bytes allocated on a core. -/
def State.scrUsed (s : State) (g : Nat) : Nat := ((s.scr.filter fun e => decide (e.1 % 512 = g)).map fun e => s.scrSize (e.1 / 512) g).foldl (· + ·) 0
/-- Who may place stands on a cluster: its borrower while it is lent, else its owner. -/
def State.holder (s : State) (gcl : Nat) : Option Nat :=
  match Store.find gcl s.lent with
  | some p => some p
  | none => (s.parts.find? fun e => e.2.owns gcl).map (·.1)
/-- The partition that owns a cluster. -/
def State.ownerPart (s : State) (gcl : Nat) : Option Nat := (s.parts.find? fun e => e.2.owns gcl).map (·.1)
/-- A set of a context that waits to return to a core. -/
def State.outOf (s : State) (g c : Nat) : Bool := s.outs.any fun o => decide (o.g = g ∧ o.ctx = c) && !o.stands.isEmpty
/-- Cores that hold stands of a context. -/
def State.coresOf (s : State) (c : Nat) : List Nat := (List.range 384).filter fun g => !(s.standsOf g c).isEmpty || s.outOf g c
/-- Does a fence close a core or its cluster (R432)? -/
def State.fencedCore (s : State) (g : Nat) : Bool := s.pkg.fenced.contains (2, g) || s.pkg.fenced.contains (3, clusterOf g)
/-- Does a core admit a stand of a launch? -/
def State.admits (s : State) (g lk : Nat) (l : Launch) : Bool :=
  match s.ctx l.ctx with
  | none => false
  | some cx =>
    let gcl := clusterOf g
    let mine := s.standsOf g l.ctx
    let onLoan := decide (Store.find gcl s.lent = some cx.part)
    decide (s.holder gcl = some cx.part) && !s.resetting cx.part && !s.fencedCore g
      && (!onLoan || (decide (l.hdr.scratch = 0) && !s.reclaim.contains gcl))
      && (!mine.isEmpty || decide ((s.coresOf l.ctx).length < cx.loop.pos.getD 1 0))
      && ((List.range 32).any fun n => (s.stand (standKey g n)).isNone)
      && decide (((s.standsOn g).filter fun e => decide (e.2.launch = lk)).length < l.hdr.stands)
      && decide (mine.length < cx.loop.pos.getD 0 0)
      && decide (l.hdr.worst ≤ s.chargePool g)
      && ((Store.find (scrKey lk g) s.scr).isSome || decide (s.scrUsed g + l.hdr.scratch ≤ 262144))
      && ((s.standsOn g).all fun e => decide (e.2.place = .resident))
      && !s.outOf g l.ctx && !(s.switches.any fun w => decide (w.g = g ∧ w.ctx = l.ctx))
/-- The scan order of a launch's next stand (R65). -/
def State.scan (s : State) (l : Launch) : List Nat :=
  let from_ : Nat := match l.last with
    | some g => g + 1
    | none => (match (s.ctx l.ctx).bind (·.lastCore) with | some g => g + 1 | none => 0)
  (List.range 384).map fun i => (from_ + i) % 384
/-- The core that takes the next stand of a launch: the first in scan order that admits it. -/
def State.coreFor (s : State) (lk : Nat) (l : Launch) : Option Nat := (s.scan l).find? fun g => s.admits g lk l
/-- Has a launch a stand that waits for placement? -/
def Launch.waitsStand (l : Launch) : Bool := l.started && l.graph.isNone && !l.killing && decide (l.next < l.total)
/-- Stands of a launch that reclaim took away. -/
def State.returningOf (s : State) (lk : Nat) : List (Nat × Nat × Stand) := s.returning.filter fun e => decide (e.2.2.launch = lk)

/-! A stand's first state (R15, R17, R55, R66) -/

/-- The lanes of stand n that hold a thread. -/
def Launch.lanes (l : Launch) (n : Nat) : W := maskOf (lanes32.filter fun i => decide (32 * n + i < l.x * l.y * l.z))
/-- A new thread at the entry packet. -/
def Thread.new (l : Launch) (cyc : Nat) : Thread := { Thread.gone with st := .ready, pc := l.codePc + BitVec.ofNat 52 l.hdr.entry, since := cyc }
/-- The value DIAG loads into a vector register, by its bit and register, for a linear number. -/
def Launch.diagV (l : Launch) (bit_ r lin lane : Nat) : Nat :=
  match bit_, r with
  | 0, 0 => lin % l.x
  | 0, 1 => lin / l.x % l.y
  | 0, _ => lin / l.x / l.y
  | 1, _ => lin
  | 2, _ => lane
  | _, _ => lin / 2 ^ 32
/-- Vector registers that DIAG loads: bit, register of the bit, number. -/
def diagVRegs : List (Nat × Nat × Nat) := [(0, 0, 0), (0, 1, 1), (0, 2, 2), (1, 0, 3), (2, 0, 4), (6, 0, 5)]
def Launch.firstV (l : Launch) (n : Nat) : List VReg :=
  diagVRegs.foldl (fun v d => if bits l.hdr.diag d.1 1 = 1 then v.set d.2.2 (recompress true true (l.lanes n) (lanes32.map fun i => BitVec.ofNat 32 (l.diagV d.1 d.2.1 (32 * n + i) i))) else v)
    (List.replicate l.hdr.vregs (.u 0))
/-- Stand registers: DIAG's, then the argument block from S32 on. -/
def Launch.firstS (l : Launch) (n g slot chip : Nat) : List W :=
  let on (b : Nat) (xs : List (Nat × Nat)) (s : List W) : List W := if bits l.hdr.diag b 1 = 1 then xs.foldl (fun s x => s.set x.1 (BitVec.ofNat 32 x.2)) s else s
  let s0 := on 6 [(6, n / 2 ^ 32)] (on 5 [(5, 32 * (g % 4) + slot)] (on 4 [(1, g % 4), (2, clusterOf g % 24), (3, dieOf g), (4, chip)] (on 3 [(0, n)] (List.replicate 64 0))))
  let m := (min l.hdr.argsize 128 + 3) / 4
  (List.range m).foldl (fun s i => s.set (32 + i) (wordAt l.argb (4 * i))) s0
/-- A stand as it is admitted. -/
def Launch.stand (l : Launch) (lk n g slot chip cyc : Nat) : Stand :=
  { launch := lk, num := n, ex := l.lanes n, place := .resident, v := l.firstV n, s := l.firstS n g slot chip, p := List.replicate 96 0, fstk := 0,
    thr := lanes32.map fun i => if inMask (l.lanes n) i then Thread.new l cyc else Thread.gone,
    dl := [], h := none, tmaska := 0, tmaskf := 0, tcnt := List.replicate 8 0, need := 0, reload := [], order := 0, spilledV := [], rcause := 0, full := false, fresh := true, passes := 0 }
/-- A core has a resident context once a stand is placed there. -/
def State.makeResident (s : State) (g c : Nat) : State :=
  match Store.find g s.resident with
  | some (d, _) => if (s.standsOf g d).isEmpty && (s.switchOn g).isNone then { s with resident := Store.put g (c, s.now) s.resident } else s
  | none => { s with resident := Store.put g (c, s.now) s.resident }
/-- The next stand of a launch is placed on a core, in its lowest free slot: R66 asks for a free one and names none (log 111). -/
def State.placeOn (s : State) (lk : Nat) (l : Launch) (g : Nat) : State :=
  match (List.range 32).find? fun n => (s.stand (standKey g n)).isNone with
  | none => s
  | some slot =>
    let s1 := s.makeResident g l.ctx
    let s2 := s1.setStand (standKey g slot) (l.stand lk l.next g slot s.pkg.chip (s.cyc g))
    let s3 := { s2 with scr := if 0 < l.hdr.scratch ∧ (Store.find (scrKey lk g) s2.scr).isNone then Store.put (scrKey lk g) [] s2.scr else s2.scr }
    (s3.onLaunch lk fun l => { l with next := l.next + 1, last := some g, waitSince := s.now }).onCtx l.ctx fun c => { c with lastCore := some g }

/-! Stands that return from reclaim (R75) -/

/-- The teams a stand's threads belong to. -/
def Stand.teams (st : Stand) : List Nat := st.thr.filterMap (·.team)
/-- The teams that have to go to one cluster with those of a list: those whose stands are joined to theirs; n rounds, of which each but the last finds a stand more. -/
def gather (all : List (Nat × Nat × Stand)) : Nat → List Nat → List Nat
  | 0, ts => ts
  | n + 1, ts => gather all n (ts ++ (all.filter fun e => e.2.2.teams.any ts.contains).flatMap fun e => e.2.2.teams.filter fun t => !ts.contains t)
/-- Place one returning stand on a core of a cluster: its record is read back. -/
def State.returnOne (s : State) (gcl : Nat) (e : Nat × Nat × Stand) : Option State :=
  match s.launch e.2.2.launch with
  | none => none
  | some l =>
    match ((List.range 4).map fun i => 4 * gcl + i).find? fun g => s.admits g e.2.2.launch l with
    | none => none
    | some g =>
      match s.slotFor g (e.2.1 % 32) with
      | none => none
      | some slot =>
        let s1 := { s.makeResident g l.ctx with returning := s.returning.filter fun x => decide (x ≠ e) }
        match s.loadStand e.1 e.2.1 e.2.2 false with
        | .error _ => some ((s1.bringIn e.1 e.2.1 e.2.2 g slot).postFirst (.kill e.2.2.launch 0x1E))
        | .ok (some st) => some (s1.bringIn e.1 e.2.1 st g slot)
        | .ok none => some (s1.bringIn e.1 e.2.1 (e.2.2.later l 0x02 ((lanesOf e.2.2.live).map fun i => (i, 0))) g slot)
/-- A team moves to a cluster: a core there with room for its stores, and its number is free there. -/
def State.moveTeam (s : State) (gcl : Nat) (tid : Nat) : Option State :=
  match s.team tid with
  | none => some s
  | some t =>
    match s.launch t.launch with
    | none => some s
    | some l =>
      if t.cl = gcl then some s
      else if (s.teamOf gcl t.ctx t.num).isSome then none
      else (s.homeFor l.hdr (4 * gcl)).map fun home => s.onTeam tid fun t => { t with cl := gcl, home := home, saved := false }
/-- Every stand of a group, and its teams, on one cluster. -/
def State.returnGroup (s : State) (group : List (Nat × Nat × Stand)) (ts : List Nat) (gcl : Nat) : Option State :=
  let a := ts.foldl (fun (o : Option State) t => o.bind fun s => s.moveTeam gcl t) (some s)
  group.foldl (fun (o : Option State) e => o.bind fun s => s.returnOne gcl e) a
/-- The clusters a partition owns and has not lent. -/
def State.ownClusters (s : State) (p : Nat) : List Nat := (List.range 96).filter fun gcl => (s.part p).owns gcl && (Store.find gcl s.lent).isNone
/-- The first returning stand of a launch, with all that go with it, comes back. -/
def State.returnFirst (s : State) (lk : Nat) : Option State :=
  match s.returningOf lk, s.launch lk with
  | e :: _, some l =>
    let ts := gather s.returning (s.returning.length + 1) e.2.2.teams.eraseDups
    let ts := ts.eraseDups
    let group := s.returning.filter fun x => decide (x = e) || x.2.2.teams.any ts.contains
    (s.ownClusters (s.partOf l.ctx)).findSome? fun gcl => s.returnGroup group ts gcl
  | _, _ => none

/-- Has this chip placed what it can of a replicated launch, without having said so (R57 step 2)? -/
def State.owesReady (s : State) (key : Nat) (l : Launch) : Bool :=
  match l.repl with
  | some r => l.started && !r.sentReady && !(l.waitsStand && (s.coreFor key l).isSome)
  | none => false
/-- ready(generation) goes to the origin. -/
def State.sendReady (s : State) (key : Nat) (l : Launch) : State :=
  match l.repl with
  | none => s
  | some r =>
    let s1 := s.onLaunch key fun l => { l with repl := some { r with sentReady := true } }
    if r.origin = s.pkg.chip then s1.post (.startReady key s.pkg.chip r.gen) else { s1 with outbox := s1.outbox ++ [.flit r.origin 11 [r.okey, s.pkg.chip, r.gen]] }
/-- STAND_PLACE: a stand that returns from reclaim first, then the launch's next stand (R65, R66). -/
def execStandPlace (key : Nat) (s : State) : Res :=
  match s.launch key with
  | none => .next s
  | some l =>
    if !(s.returningOf key).isEmpty then .next ((s.returnFirst key).getD s)
    else if s.owesReady key l then .next (s.sendReady key l)
    else if !l.waitsStand || s.returning.any (fun e => decide (s.launchCtx e.2.2.launch = some l.ctx)) then .next s
    else match s.coreFor key l with
      | some g => .next (s.placeOn key l g)
      | none => .next s
/-- Can STAND_PLACE do something for a launch? -/
def State.placeable (s : State) (key : Nat) (l : Launch) : Bool :=
  if !(s.returningOf key).isEmpty then (s.returnFirst key).isSome
  else s.owesReady key l || l.waitsStand && !(s.returning.any fun e => decide (s.launchCtx e.2.2.launch = some l.ctx)) && (s.coreFor key l).isSome
/-- Earlier in the order in which waiting stands are offered a core: class, then start order. -/
def State.placeBefore (s : State) (a b : Nat × Launch) : Bool :=
  let c (x : Nat × Launch) : Nat := ((s.ctx x.2.ctx).map (·.cls)).getD 3
  decide (c a < c b ∨ (c a = c b ∧ a.2.order < b.2.order))
/-- The launch whose stand is placed next: those with returning stands, then by order. -/
def State.placeNext (s : State) : Option Nat :=
  match s.launches.filter fun e => !(s.returningOf e.1).isEmpty && s.placeable e.1 e.2 with
  | e :: _ => some e.1
  | [] =>
    match s.launches.filter fun e => s.placeable e.1 e.2 with
    | [] => none
    | e :: t => some (t.foldl (fun a b => if s.placeBefore b a then b else a) e).1

/-! Partition registers (R63, R64) -/

/-- Does any stand of a partition stand on a cluster? -/
def State.partOn (s : State) (p gcl : Nat) : Bool :=
  s.stands.any fun e => decide (clusterOf (e.1 / 32) = gcl) && (match s.launchCtx e.2.launch with | some c => decide (s.partOf c = p) | none => false)
def State.setPart (s : State) (p : Nat) (x : Part) : State := { s with parts := Store.put p x s.parts }
/-- The write is refused, and REFUSED shows it. -/
def State.partRefuse (s : State) (p : Nat) : State := s.setPart p { s.part p with refused := true }
/-- A new set of owned clusters. -/
def State.partClu (s : State) (p i : Nat) (v : W) : State :=
  let x := s.part p
  let old := bits x.clu (32 * i) 32
  let clu := x.clu - 2 ^ (32 * i) * old + 2 ^ (32 * i) * v.toNat
  let gone := (List.range 32).filter fun n => bits old n 1 = 1 ∧ bits v.toNat n 1 = 0
  if (s.parts.any fun e => decide (e.1 ≠ p ∧ e.2.clu &&& clu ≠ 0)) || gone.any fun n => s.partOn p (32 * i + n) then s.partRefuse p
  else (s.setPart p { x with clu := clu }).clockCheck
/-- Bytes of a partition's die-shared scratch are gone. -/
def State.dshClear (s : State) (p : Nat) : State := { s with dsh := s.dsh.filter fun c => decide (c.1 / 2 ^ 28 ≠ p) }
/-- Fill lines that held ways now carved are written back and dropped (R64). -/
def State.dropWays (s : State) : State :=
  { s with l2 := s.l2.filter fun l => decide (l.2.way < s.fillWays), sec := s.sec.filter fun c => decide (c.2.way < s.fillWays) }
/-- HQ_PCFG. -/
def State.partCfg (s : State) (p : Nat) (v : W) : State :=
  let x := s.part p
  let n := bits v.toNat 5 4
  let sum := ((s.parts.filter fun e => decide (e.1 ≠ p)).map fun e => e.2.dshare).foldl (· + ·) 0 + n
  if 8 < sum ∨ (n < x.dshare ∧ s.ctxs.any fun c => decide (c.2.part = p)) then s.partRefuse p
  else
    let s1 := s.setPart p { x with l2ways := bits v.toNat 0 5, dshare := n, lend := decide (bits v.toNat 9 1 = 1), borrow := decide (bits v.toNat 10 1 = 1) }
    if n = x.dshare then s1 else if x.dshare < n then (s1.dshClear p).dropWays else s1.dshClear p
/-- PARTITION_WRITE: reg is the offset within the partition's block. -/
def execPartitionWrite (p reg : Nat) (v : W) (s : State) : Res :=
  .next (if 32 ≤ p then s
    else if reg = 0 ∨ reg = 4 ∨ reg = 8 then s.partClu p (reg / 4) v
    else if reg = 0x0C then s.partCfg p v
    else if reg = 0x10 ∧ bits v.toNat 0 1 = 1 then s.setPart p { s.part p with refused := false }
    else s)

/-! The calendar (R69, R70, R90) -/

/-- EPOCH_BOUNDARY: units read their owner maps and the class-2 cap. -/
def execEpochBoundary (s : State) : Res := .next { s with regs := { s.regs with calLive := s.regs.calOwn, c2capLive := s.regs.c2cap } }
/-- Number of the epoch in force at a time: 1,024 cycles of 1.4 GHz. -/
def epochAt (t : Nat) : Nat := t * 7 / 5 / 1024

/-! Borrowing and reclaim (R74, R75) -/

/-- May a cluster be lent now? -/
def State.idleCluster (s : State) (gcl : Nat) : Bool :=
  match s.ownerPart gcl with
  | none => false
  | some p =>
    (s.part p).lend && (Store.find gcl s.lent).isNone && !(s.stands.any fun e => decide (clusterOf (e.1 / 32) = gcl)) && !(s.scr.any fun e => decide (clusterOf (e.1 % 512) = gcl))
      && !(s.teams.any fun t => decide (t.2.cl = gcl)) && !s.resetting p
/-- Has a context of a partition a stand waiting that no core admits? -/
def State.wantsCluster (s : State) (p : Nat) : Bool :=
  s.launches.any fun e => decide (s.partOf e.2.ctx = p) && e.2.waitsStand && (s.coreFor e.1 e.2).isNone
/-- Idle clusters a partition may borrow. -/
def State.lendable (s : State) (p : Nat) : List Nat :=
  if (s.part p).borrow && s.wantsCluster p && !s.resetting p then (List.range 96).filter fun gcl => s.idleCluster gcl && decide (s.ownerPart gcl ≠ some p) else []
/-- CLUSTER_LEND: which idle cluster is lent is the Umpire's choice. -/
def execClusterLend (p : Nat) (s : State) : Res :=
  match s.lendable p with
  | [] => .next s
  | xs => .next { s with lent := Store.put (xs.getD (Config.fresh s.fresh % xs.length) 0) p s.lent, fresh := s.fresh + 1 }
/-- Does the owner of a lent cluster want it: a stand of its own is offered one of its cores before any core admits it (R65)? -/
def State.wanted (s : State) (gcl : Nat) : Bool :=
  match s.ownerPart gcl, Store.find gcl s.lent with
  | some p, some _ =>
    s.launches.any fun e => decide (s.partOf e.2.ctx = p) && e.2.waitsStand &&
      ((s.scan e.2).takeWhile fun g => !s.admits g e.1 e.2).any fun g => decide (clusterOf g = gcl)
  | _, _ => false
/-- The stands of a cluster's borrower, by key. -/
def State.borrowed (s : State) (gcl : Nat) : List (Nat × Stand) :=
  s.stands.filter fun e => decide (clusterOf (e.1 / 32) = gcl) && (match s.launchCtx e.2.launch, Store.find gcl s.lent with | some c, some p => decide (s.partOf c = p) | _, _ => false)
/-- A reclaim begins: admission stops, and every borrower stand is forced to a full save (R75 steps 1 and 2). -/
def State.reclaimStart (s : State) (gcl : Nat) : State :=
  if s.reclaim.contains gcl then s
  else (s.borrowed gcl).foldl (fun s e => s.onStand e.1 fun st => { st with full := true, rcause := 0x3B }) { s with reclaim := s.reclaim ++ [gcl] }
/-- CLUSTER_RECLAIM: a stand of the owner's is offered the cluster. -/
def execClusterReclaim (gcl : Nat) (s : State) : Res := if s.wanted gcl then .next (s.reclaimStart gcl) else .next s
/-- The core actuator of a context asks for clusters that its partition has lent (R75): a round has raised its position beyond the cores that are not lent and not on their way back; as many as it takes are reclaimed, lowest first (log 109). -/
def State.reclaimFor (s : State) (c old : Nat) : State :=
  match s.ctx c with
  | none => s
  | some cx =>
    let p := cx.part
    let out := (List.range 96).filter fun gcl => (s.part p).owns gcl && (Store.find gcl s.lent).isSome && !s.reclaim.contains gcl
    let n := cx.loop.pos.getD 1 0
    let lack := n - 4 * ((s.part p).clusters - out.length)
    if n ≤ old then s else (out.take ((lack + 3) / 4)).foldl State.reclaimStart s
/-- RECLAIM_HANDOVER: every borrower stand has stopped; stands and teams are saved and wait for placement, and the cluster is its owner's (R75 steps 3 to 5). -/
def execReclaimHandover (gcl : Nat) (s : State) : Res :=
  let mine := s.borrowed gcl
  if !s.reclaim.contains gcl || !(mine.all fun e => s.mayLeave e.1 e.2 || decide (e.2.place = .spilled)) then .next s
  else
    let s0 := mine.foldl (fun s e => if e.2.place = .spilled then (match s.loadStand (gOf e.1) (slotOf e.1) e.2 true with | .ok (some st) => s.setStand e.1 { st with place := .resident } | _ => s) else s) s
    let out (s : State) (e : Nat × Stand) : State :=
      let r := s.takeOut e.1 0x3B
      match r.2 with
      | some (n, st, how, vs, ss, ps) => { (r.1.saveStand (gOf e.1) n st how vs ss ps) with returning := r.1.returning ++ [(gOf e.1, n, st)] }
      | none => r.1
    let s1 := mine.foldl out s0
    let tids := (s1.teams.filter fun t => decide (t.2.cl = gcl)).map (·.1)
    let s2 := tids.foldl (fun s t => (s.saveTeam t true).onTeam t fun x => { x with saved := true }) s1
    let sets := s2.outs.filter fun o => decide (clusterOf o.g = gcl)
    let s3 := (sets.filter (·.writing)).foldl (fun s o => s.saveSetOut o) s2
    .next { s3 with
      returning := s2.returning ++ sets.flatMap fun o => o.stands.map fun e => (o.g, e.1, e.2)
      outs := s2.outs.filter fun o => decide (clusterOf o.g ≠ gcl)
      lent := s2.lent.del gcl
      reclaim := s2.reclaim.filter fun x => decide (x ≠ gcl) }

end Sys2Proof.Machine
end

