-- ==== Sys2Proof/Machine/Pace.lean ====
section
/-! DEFINITION. Beat loops and the Umpire (04 R76 to R97). -/
namespace Sys2Proof.Machine

/-! Boundaries and merging (R78 to R80) -/

/-- Is a frozen checkpoint on (R421)? -/
def State.frozenCk (s : State) : Bool := s.regs.ckBusy && decide (s.regs.ckLive = some false)
/-- Has a context a launch started and not finished? -/
def State.working (s : State) (c : Nat) : Bool := s.launches.any fun l => decide (l.2.ctx = c) && l.2.started
/-- The chips of a merge group. -/
def Loop.group (l : Loop) : List Nat := (List.range l.mN).map (l.mFirst + ·)
/-- INTERVAL_BOUNDARY: the boundary B that closes the open interval: the local count is latched; a new value of INTERVAL comes into force at its first boundary; a member sends its count. What B has brought to be due already follows. -/
def execIntervalBoundary (c : Nat) (s : State) : Res :=
  match s.ctx c with
  | none => .next s
  | some cx =>
    let l := cx.loop
    let b := l.boundary l.from_
    if s.now < b then .next s
    else
    let la : Latch := { k := l.k, count := l.bcnt, b := b, idle := !l.active }
    let new : Bool := match l.newInt with | some (_, b') => decide (b' ≤ b) | none => false
    let iv : Nat := if new then ((l.newInt.map (·.1)).getD l.interval) else l.interval
    let mine := l.mEn && decide (l.mFirst = s.pkg.chip)
    let l1 := { l with
      latches := l.latches ++ [la]
      bcnt := 0
      from_ := b
      interval := iv
      newInt := if new then none else l.newInt
      k := b / max 1 iv
      active := s.working c && !s.frozenCk
      counts := if mine then l.counts ++ [(s.pkg.chip, l.k, l.bcnt)] else l.counts }
    let s1 := s.onLoop c fun _ => l1
    let s2 : State := { s1 with inbox := s1.inbox ++ (if l.mEn ∧ b + 4000 ≤ s.now then [.mergeMinimumSend c] else []) ++ (if b + 5000 ≤ s.now then [.loopStep c] else []) }
    .next (if l.mEn && !mine then { s2 with outbox := s2.outbox ++ [.flit l.mFirst 6 [c, l.k, l.bcnt]] } else s2)
/-- MERGE_COUNT_RECEIVE: kept when its index is that of an interval of its own that awaits its step. -/
def execMergeCountReceive (chip c k count : Nat) (s : State) : Res :=
  .next (s.onLoop c fun l =>
    if l.mEn ∧ l.mFirst = s.pkg.chip ∧ l.group.contains chip ∧ l.latches.any (fun x => decide (x.k = k)) then { l with counts := l.counts ++ [(chip, k, count)] } else l)
/-- The result of an interval for the group: the minimum when every member's count has come. -/
def Loop.minimum (l : Loop) (k : Nat) : Option Nat :=
  let got : List (Nat × Nat × Nat) := l.counts.filter fun x => decide (x.2.1 = k)
  if l.group.all fun chip => got.any fun x => decide (x.1 = chip) then
    (match got with
      | [] => none
      | x :: t => some (t.foldl (fun m y => min m y.2.2) x.2.2))
  else none
/-- MERGE_MINIMUM_SEND: at B + 4,000 chip FIRST sends the minimum or void of the interval. 0 stands for void in a message, n + 1 for a minimum n. -/
def execMergeMinimumSend (c : Nat) (s : State) : Res :=
  match s.ctx c with
  | none => .next s
  | some cx =>
    let l := cx.loop
    match l.latches.find? fun x => decide (x.b + 4000 ≤ s.now) && !(l.merged.any fun m => decide (m.1 = x.k)) with
    | none => .next s
    | some x =>
      if !l.mEn || decide (l.mFirst ≠ s.pkg.chip) then .next s
      else
        let r := l.minimum x.k
        let flits : List Out := (l.group.filter fun chip => decide (chip ≠ s.pkg.chip)).map fun chip => .flit chip 7 [c, x.k, match r with | some m => m + 1 | none => 0]
        let s1 := s.onLoop c fun l => { l with counts := l.counts.filter fun y => decide (y.2.1 ≠ x.k), merged := l.merged ++ [(x.k, r)] }
        .next { s1 with outbox := s1.outbox ++ flits }
/-- MERGE_RESULT_RECEIVE. -/
def execMergeResultReceive (c k res : Nat) (s : State) : Res :=
  .next (s.onLoop c fun l => if l.latches.any fun x => decide (x.k = k) then { l with merged := l.merged ++ [(k, if res = 0 then none else some (res - 1))] } else l)

/-! The controller step (R81 to R83) -/

def Loop.emin (l : Loop) (k : Nat) : Nat := if k = 4 ∧ l.clkok = false then l.pos.getD 4 0 else (l.act.getD k (0, 0)).1
def Loop.emax (l : Loop) (k : Nat) : Nat := if k = 4 ∧ l.clkok = false then l.pos.getD 4 0 else (l.act.getD k (0, 0)).2
def Loop.at_ (l : Loop) (k : Nat) : Nat := l.pos.getD k 0
/-- A number within limits. -/
def clampI (lo hi x : Int) : Int := max lo (min hi x)
/-- The controller's output of an error and an integral, before the step clamp (R81): rounded half away from zero. -/
def ctrlOut (kp ki : Nat) (e i : Int) : Int :=
  let x := (kp : Int) * e + (ki : Int) * i
  let q : Int := ((x.natAbs + 2048) / 4096 : Nat)
  if x < 0 then -q else q
/-- split(u) (R83): the requests of the actuators, in their order. -/
def splitFrom (l : Loop) (up : Bool) (rem : Nat) : List Nat → List (Nat × Int)
  | [] => []
  | k :: t =>
    let room := if up then l.emax k - l.at_ k else l.at_ k - l.emin k
    let n := min rem room
    (k, if up then (n : Int) else -(n : Int)) :: splitFrom l up (rem - n) t
def Loop.split (l : Loop) (u : Int) : List (Nat × Int) :=
  splitFrom l (decide (0 < u)) u.natAbs (if 0 < u then [0, 1, 2, 3, 4] else [4, 3, 2, 1, 0])
/-- One step with measurement m (R81). -/
def Loop.step (l : Loop) (m : Nat) : Loop :=
  let e := clampI (-32768) 32767 ((l.target : Int) - m)
  let lim : Int := l.ilim
  let i0 := clampI (-lim) lim l.intg
  let up := decide (0 < e) && (List.range 5).all fun k => decide (l.emax k ≤ l.at_ k)
  let dn := decide (e < 0) && (List.range 5).all fun k => decide (l.at_ k ≤ l.emin k)
  let i1 := if !up && !dn then clampI (-lim) lim (i0 + e) else i0
  let u := clampI (-(l.smax : Int)) l.smax (ctrlOut l.kp l.ki e i1)
  let parts := l.split u
  let used := parts.filter fun p => decide (p.2 ≠ 0)
  { l with
    intg := i1
    iold := i0
    satup := up
    satdn := dn
    elast := e
    ulast := u
    mlast := m
    steps := (l.steps + 1) % 2 ^ 32
    req := if u = 0 then [0, 0, 0, 0, 0] else (List.range 5).map fun k => ((parts.find? fun p => decide (p.1 = k)).map (·.2)).getD 0
    posted := decide (u ≠ 0) && !used.isEmpty
    cur := if u = 0 then l.cur else ((used.getLast?).map (·.1 + 1)).getD 0
    idle := false
    miss := false }
/-- LOOP_STEP: the oldest interval whose step is due at B + 5,000. -/
def execLoopStep (c : Nat) (s : State) : Res :=
  match s.ctx c with
  | none => .next s
  | some cx =>
    let l := cx.loop
    match l.latches with
    | [] => .next s
    | x :: rest =>
      if s.now < x.b + 5000 then .next s
      else
        let m : Option Nat := if l.mEn then ((l.merged.find? fun p => decide (p.1 = x.k)).bind (·.2)) else some x.count
        let l1 := { l with latches := rest, targetNow := l.target, ontimeNow := l.ontime, merged := l.merged.filter fun p => decide (p.1 ≠ x.k), counts := l.counts.filter fun y => decide (y.2.1 ≠ x.k) }
        .next (s.onLoop c fun _ =>
          if l.target = 0 then l1
          else if x.idle || s.frozenCk then { l1 with idle := true }
          else match m with
            | some m => l1.step m
            | none => { l1 with miss := true, missn := satAdd32 l1.missn 1 })

/-! The Umpire's round (R85 to R90) -/

/-- A context in a pool: its class, position, minimum, weight, what it asks for, what its step asked for, what it was granted. -/
structure Ask where
  ctx : Nat
  cls : Nat
  pos : Nat
  min : Nat
  w : Nat
  r : Nat
  part : Nat
  g : Nat
  shed : Bool
  deriving DecidableEq, Repr
def poolUse (base : Nat) (xs : List Ask) : Nat := base + (xs.map fun a => a.pos * a.w).foldl (· + ·) 0
/-- The context of a class that shed lowers: the largest position above its minimum, the highest number on a tie. -/
def shedPick (cls : Nat) (xs : List Ask) : Option Ask :=
  xs.foldl (fun (best : Option Ask) a =>
    if a.cls = cls ∧ a.min < a.pos then
      (match best with
        | some b => if b.pos < a.pos ∨ (b.pos = a.pos ∧ b.ctx < a.ctx) then some a else best
        | none => some a)
    else best) none
/-- shed() in one class (R89). -/
def shedClass (supply base cls : Nat) : Nat → List Ask → List Ask
  | 0, xs => xs
  | n + 1, xs =>
    if poolUse base xs ≤ supply then xs
    else match shedPick cls xs with
      | none => xs
      | some b => shedClass supply base cls n (xs.map fun a => if a.ctx = b.ctx then { a with pos := a.pos - 1, shed := true } else a)
def shedAll (supply base : Nat) (xs : List Ask) : List Ask :=
  let n := (xs.map (·.pos)).foldl (· + ·) 0
  shedClass supply base 0 n (shedClass supply base 1 n (shedClass supply base 2 n xs))
/-- Left-over units, one for each context in ascending number whose weight they cover. -/
def grantLeft : Nat → List Ask → List Ask × Nat
  | left, [] => ([], left)
  | left, a :: t =>
    if a.g < a.r ∧ a.w ≤ left then
      let p := grantLeft (left - a.w) t
      ({ a with g := a.g + 1 } :: p.1, p.2)
    else
      let p := grantLeft left t
      (a :: p.1, p.2)
/-- Grants of one class: the contexts after it, and what stays free (R88). -/
def grantClass (cls free : Nat) (xs : List Ask) : List Ask × Nat :=
  let mine := xs.filter fun a => decide (a.cls = cls ∧ 0 < a.r)
  let d := (mine.map fun a => a.r * a.w).foldl (· + ·) 0
  let p : List Ask × Nat :=
    if d ≤ free then (mine.map fun a => { a with g := a.r }, free - d)
    else
      let base : List Ask := mine.map fun a => { a with g := free * a.r / d }
      grantLeft (free - (base.map fun a => a.g * a.w).foldl (· + ·) 0) base
  (xs.map fun a => (p.1.find? fun b => decide (b.ctx = a.ctx)).getD a, p.2)
/-- One pool of one actuator: shed, then grants by class. -/
def runPool (supply base : Nat) (xs : List Ask) : List Ask × Bool :=
  let x0 := if supply < poolUse base xs then shedAll supply base xs else xs
  let past := decide (supply < poolUse base x0)
  let p0 := grantClass 0 (supply - poolUse base x0) x0
  let p1 := grantClass 1 p0.2 p0.1
  let p2 := grantClass 2 p1.2 p1.1
  (p2.1.map fun a => { a with pos := a.pos + a.g }, past)

/-- Where a standing request raises an actuator to (R87): its maximum while TARGET is 0; in the first round the position that the context is to hold; else where it stands. -/
def Loop.goal (l : Loop) (k : Nat) : Nat :=
  if l.targetNow = 0 then l.emax k
  else match l.want[k]? with
    | some w => min w (l.emax k)
    | none => l.at_ k
/-- What a context asks of an actuator beside its step (R82, R87, R88): a correction that lowers it to its maximum, or the larger of a correction up to its minimum and the standing request. -/
def Loop.standing (l : Loop) (k : Nat) : Int :=
  if l.emax k < l.at_ k then (l.emax k : Int) - l.at_ k
  else (max (l.emin k) (l.goal k) - l.at_ k : Nat)
/-- The one request of an actuator (R88): the larger of the step's part and the other, when they go the same way. -/
def Loop.ask (l : Loop) (k : Nat) : Int :=
  let a := if l.posted then l.req.getD k 0 else 0
  let b := l.standing k
  if 0 ≤ a ∧ 0 ≤ b then max a b else if a ≤ 0 ∧ b ≤ 0 then min a b else a + b
/-- A context as it enters a pool: posted decreases fall at once. -/
def Ctx.enter (c : Nat) (cx : Ctx) (k w : Nat) : Ask :=
  let r := cx.loop.ask k
  { ctx := c, cls := cx.cls, pos := (((cx.loop.at_ k : Nat) : Int) + min r 0).toNat, min := cx.loop.emin k, w := w, r := r.toNat,
    part := if cx.loop.posted then (cx.loop.req.getD k 0).toNat else 0, g := 0, shed := false }
/-- Clusters that run at the clock position of a context (R86), and the clusters that run at 16. -/
def State.clockPart (s : State) (c : Nat) : Nat := match s.ctx c with | some cx => (s.part cx.part).clusters | none => 0
def State.otherClusters (s : State) : Nat := 96 - ((s.ctxs.filter fun e => e.2.loop.clkok).map fun e => s.clockPart e.1).foldl (· + ·) 0
/-- UMP_CLKSUP as it acts (R97). -/
def State.clockSupply (s : State) : Nat :=
  let floor := 16 * s.otherClusters + ((s.ctxs.filter fun e => e.2.loop.clkok).map fun e => e.2.loop.emin 4 * s.clockPart e.1).foldl (· + ·) 0
  max floor (min s.regs.clkSup 2304)
/-- UMP_CLKUSE (R85). -/
def State.clockUse (s : State) : Nat :=
  16 * s.otherClusters + ((s.ctxs.filter fun e => e.2.loop.clkok).map fun e => e.2.loop.at_ 4 * s.clockPart e.1).foldl (· + ·) 0
/-- The pools of an actuator: supply, base use, members (R85). -/
def State.pools (s : State) (k : Nat) : List (Nat × Nat × List Ask) :=
  let enter (w : Nat → Nat) (e : Nat × Ctx) : Ask := Ctx.enter e.1 e.2 k (w e.1)
  if k = 3 then [(64, 0, s.ctxs.map (enter fun _ => 1))]
  else if k = 4 then [(s.clockSupply, 16 * s.otherClusters, (s.ctxs.filter fun e => e.2.loop.clkok).map (enter s.clockPart))]
  else (List.range 32).map fun p =>
    let x := s.part p
    (if k = 0 then 32 else if k = 1 then 4 * x.clusters else x.ways, 0, (s.ctxs.filter fun e => decide (e.2.part = p)).map (enter fun _ => 1))
/-- Every pool of an actuator: the contexts after it, and whether one could not shed to its supply. -/
def State.runPools (s : State) (k : Nat) : List Ask × Bool :=
  (s.pools k).foldl (fun (p : List Ask × Bool) x => let r := runPool x.1 x.2.1 x.2.2; (p.1 ++ r.1, p.2 || r.2)) ([], false)
/-- A context after the round: positions, shedding, and whether its step was starved (R88). res: by actuator. -/
def Loop.settle (l : Loop) (c : Nat) (res : List (List Ask)) : Loop :=
  let mine (k : Nat) : Option Ask := (res.getD k []).find? fun a => decide (a.ctx = c)
  let pos : List Nat := (List.range 5).map fun k => match mine k with | some a => a.pos | none => l.at_ k
  let short := (List.range 5).any fun k => match mine k with | some a => decide (a.g < a.part) | none => l.posted && decide (0 < l.req.getD k 0)
  let shed := (List.range 5).any fun k => match mine k with | some a => a.shed | none => false
  let l1 := { l with pos := pos, shed := l.shed || shed, req := [0, 0, 0, 0, 0], posted := false, want := [], reads := 0, past := 0 }
  if l.posted then (if short then { l1 with starved := true, intg := l.iold, starvn := satAdd32 l1.starvn 1 } else { l1 with starved := false }) else l1

/-- Does an entry of the kind-2 owner map count as owned: by a context of class 0 (R70)? -/
def State.slotOwner (s : State) (v : Nat) : Option Nat :=
  if bits v 8 1 = 0 then none else match s.ctx (bits v 0 8) with | some cx => if cx.cls = 0 then some (bits v 0 8) else none | none => none
/-- The slots of the kind-2 map whose owner is a class-0 context, or nobody. -/
def State.slotsOf (s : State) (o : Option Nat) : List Nat :=
  (List.range 64).filter fun i => decide (s.slotOwner ((Store.find (128 + i) s.regs.calOwn).getD 0) = o)
/-- The kind-2 map follows a class-0 context's position (R84): a decrease releases its highest slots, an increase takes the lowest unowned ones. -/
def State.mapShare (s : State) (up : Bool) (c : Nat) : State :=
  match s.ctx c with
  | none => s
  | some cx =>
    let mine := s.slotsOf (some c)
    let n := cx.loop.at_ 3
    if cx.cls ≠ 0 then s
    else if up then { s with regs := { s.regs with calOwn := ((s.slotsOf none).take (n - mine.length)).foldl (fun m i => Store.put (128 + i) (256 + c) m) s.regs.calOwn } }
    else { s with regs := { s.regs with calOwn := (mine.drop n).foldl (fun m i => Store.del (128 + i) m) s.regs.calOwn } }
/-- Every context's slots: the decreases of a round come before its increases (R88). -/
def State.mapShares (s : State) : State :=
  let cs := s.ctxs.map (·.1)
  cs.foldl (State.mapShare · true) (cs.foldl (State.mapShare · false) s)
/-- Where a cluster's clock should stand (R86). -/
def State.clockWant (s : State) (gcl : Nat) : Nat :=
  match s.ownerPart gcl with
  | none => 16
  | some p => ((s.ctxs.find? fun e => decide (e.2.part = p) && e.2.loop.clkok).map fun e => e.2.loop.at_ 4).getD 16
def State.clockAt (s : State) (g : Nat) : Nat := (Store.find g s.clk).getD 16
/-- Cores whose clock changes: each at a moment of its own within 2,000 ticks (R84). -/
def State.clockAsk (s : State) : State :=
  { s with clkPend := ((List.range 384).filter fun g => decide (s.clockWant (clusterOf g) ≠ s.clockAt g)).map fun g => (g, (s.clockWant (clusterOf g), s.now + 2000)) }
/-- Contexts that missed their latency target (R90). -/
def Ctx.missed (cx : Ctx) : Bool := decide (cx.cls = 0 ∧ cx.lattgt ≠ 0 ∧ cx.loop.reads < 100 * cx.loop.past)
/-- Since when a context waits for a core: its set there, or a stand of a started launch that no core admits (R370). -/
def State.waitsFor (s : State) (g c : Nat) : Option Nat :=
  let a : List Nat := (s.outs.filter fun o => decide (o.g = g ∧ o.ctx = c) && !o.stands.isEmpty && !o.shadow).map (·.since)
  let b : List Nat := (s.launches.filter fun e => decide (e.2.ctx = c) && e.2.waitsStand && (s.coreFor e.1 e.2).isNone).map (·.2.waitSince)
  match a ++ b with
  | [] => none
  | x :: t => some (t.foldl min x)
/-- The context the Umpire loads into a core's shadow: by class, then the longest wait (R370). -/
def State.shadowChoice (s : State) (g : Nat) : Option Nat :=
  match Store.find g s.resident with
  | none => none
  | some (c, _) =>
    if (s.outs.any fun o => decide (o.g = g) && o.shadow) then none
    else
      let cs : List (Nat × Nat × Nat) := s.ctxs.filterMap fun e =>
        if e.1 ≠ c ∧ e.2.part = s.partOf c then (s.waitsFor g e.1).map fun t => (e.1, e.2.cls, t) else none
      match cs with
      | [] => none
      | x :: t => some (t.foldl (fun a b => if b.2.1 < a.2.1 ∨ (b.2.1 = a.2.1 ∧ b.2.2 < a.2.2) then b else a) x).1
def State.shadows (s : State) : State :=
  (s.resident.map (·.1)).foldl (fun s g => match s.shadowChoice g with | some d => s.shadowLoad g d | none => s) s
/-- UMPIRE_ROUND. -/
def execUmpireRound (s : State) : Res :=
  if !s.regs.umpRun then .next s
  else
    let r : List (List Ask × Bool) := (List.range 5).map s.runPools
    let missed := s.ctxs.any fun e => e.2.missed
    let cs : Store Ctx := s.ctxs.map fun e => (e.1, { e.2 with loop := e.2.loop.settle e.1 (r.map (·.1)) })
    let regs : PfRegs := { s.regs with overcommit := r.any (·.2), latMiss := missed, rounds := (s.regs.rounds + 1) % 2 ^ 32, c2cap := if missed then s.regs.c2cap / 2 else min 1024 (s.regs.c2cap + 64) }
    let s1 : State := { s with ctxs := cs, regs := regs }
    let s2 := s.ctxs.foldl (fun t e => t.reclaimFor e.1 (e.2.loop.pos.getD 1 0)) s1.mapShares
    .next s2.clockAsk.shadows
/-- CLOCK_STEP_APPLY: a granted change of clock comes into force in a core, whose cycles count on from those that have passed. -/
def execClockStepApply (g : Nat) (s : State) : Res :=
  match Store.find g s.clkPend with
  | some (p, _) => .next { s with clk := Store.put g p s.clk, clkPend := s.clkPend.del g, forts := Store.put g ((Store.find g s.forts).getD s.fort) s.forts }
  | none => .next s

/-! BT_ registers (R78, R94 to R96) -/

/-- INTERVAL_WRITE. -/
def execIntervalWrite (fn c : Nat) (v : W) (s : State) : Res :=
  s.btWrite fn c fun s =>
    if v.toNat < 10000 ∨ 1000000 < v.toNat then s.btRefuse c
    else s.onLoop c fun l => { l with newInt := some (v.toNat, (s.now / v.toNat + 1) * v.toNat) }
/-- ACTUATOR_LIMIT_WRITE: k from 1 to 5. -/
def execActuatorLimitWrite (fn c k : Nat) (v : W) (s : State) : Res :=
  s.btWrite fn c fun s =>
    let lo := bits v.toNat 0 16
    let hi := bits v.toNat 16 16
    if k = 0 ∨ 5 < k then s
    else if actOk (k - 1) lo hi then s.onLoop c fun l => { l with act := l.act.set (k - 1) (lo, hi) }
    else s.btRefuse c
/-- BT_FIELD_WRITE: reg is the offset within the block. -/
def execBtFieldWrite (fn c reg : Nat) (v : W) (s : State) : Res :=
  s.btWrite fn c fun s =>
    let n := v.toNat
    if reg = 0x00 then s.onLoop c fun l => { l with target := bits n 0 16, ontime := decide (bits n 16 1 = 1) }
    else if reg = 0x08 then s.onLoop c fun l => { l with kp := bits n 0 16, ki := bits n 16 16 }
    else if reg = 0x0C then
      if 32767 < bits n 0 16 ∨ bits n 16 4 = 0 then s.btRefuse c
      else s.onLoop c fun l => { l with ilim := bits n 0 16, smax := bits n 16 4 }
    else if reg = 0x10 then
      if bits n 7 8 = 0 ∨ 128 < bits n 0 7 + bits n 7 8 then s.btRefuse c
      else s.onLoop c fun l => { l with mFirst := bits n 0 7, mN := bits n 7 8, mEn := decide (bits n 15 1 = 1) }
    else if reg = 0x18 then s.onLoop c fun l => { l with shed := l.shed && decide (bits n 9 1 = 0), refused := l.refused && decide (bits n 10 1 = 0) }
    else if reg = 0x38 then s.onLoop c fun l => { l with laten := n }
    else s

end Sys2Proof.Machine
end

