-- ==== Sys2Proof/Machine/Queue.lean ====
section
/-! DEFINITION. Launch queues, packets, starts, graphs, replication (02 R34 to R57; 01 R10 to R18). -/
namespace Sys2Proof.Machine

/-! Reads and writes of the front end, at scope SYSTEM -/

/-- An acquire read at SYSTEM: host memory is read afresh. -/
def State.fread (s : State) (c x n : Nat) : Except Nat (State × List Byte) :=
  let x := s.normal x
  if 2 ^ 56 ≤ x ∨ 5 ≤ region x then .error 0x11
  else match s.landUse c x false needNone with
    | .error e => .error e
    | .ok h =>
      let b := if h.sp = .host then (List.range n).map fun i => Config.hostByte s.fresh (h.pa + i) else s.peekN h.sp h.pa n
      .ok ({ s.landed c x h with fresh := s.fresh + 1 }, b)
/-- k blocks of 16 bytes. -/
def State.freadBlocks (s : State) (c x : Nat) : Nat → Except Nat (State × List Byte)
  | 0 => .ok (s, [])
  | k + 1 =>
    match s.fread c x 16 with
    | .error e => .error e
    | .ok (s1, b) =>
      match s1.freadBlocks c (x + 16) k with
      | .error e => .error e
      | .ok (s2, t) => .ok (s2, b ++ t)
/-- The key of the line that a watch on an address is kept on; a region-2 watch has none. -/
def State.watchKey (s : State) (c x : Nat) : Nat :=
  let x := s.normal x
  if region x = 2 then 2 ^ 100
  else match s.land c x false needNone with
    | .ok h => homeKey h.sp h.pa
    | .error _ => 2 ^ 100

/-! Queue state -/

def State.onQueue (s : State) (dq : Nat) (f : Queue → Queue) : State := { s with queues := Store.put dq (f (s.queue dq)) s.queues }
/-- LAP(w) of a ring of 2^L slots (R35). -/
def lap (l w : Nat) : Nat := (w / 2 ^ l + 1) % 2 ^ 32
/-- Distance from b to a, modulo 2^32. -/
def dist32 (a b : Nat) : Nat := (a + 2 ^ 32 - b % 2 ^ 32) % 2 ^ 32
/-- Are registers and doorbells of a queue cut off by a partition reset (R409)? -/
def State.queueShut (s : State) (q : Queue) : Bool := match s.ctx q.ctx with | some cx => s.resetting cx.part | none => false
/-- A queue stops with a status (R50), its record and its entry. -/
def State.qstop (s : State) (dq err node : Nat) : State :=
  let q := s.queue dq
  let part : Nat := s.partOf q.ctx
  let s1 := ({ s with fresh := s.fresh + 1 }).onQueue dq fun q => { q with stop := true, err := err, node := node, waitw := none, watch := none }
  let rep := { Rep.blank 2 0 with queue := q.num, ctx := q.ctx, part := part, err := err, node := node }
  (s1.report (q.fn.getD 0) rep).causeEvent (0x200 + dq) part q.ctx
def noNode : Nat := 0xFFFFFFFF
/-- A watch on a region-2 word ends at a write of the queue's tail (R39, R47). -/
def WaitW.tailed (w : WaitW) : WaitW := if region w.addr = 2 then { w with fired := true } else w
/-- Change the WAITW that holds the walk of each graph of a queue (R53). -/
def State.onWaits (s : State) (dq : Nat) (f : WaitW → WaitW) : State :=
  { s with launches := s.launches.map fun e => if e.2.queue = some dq then (e.1, { e.2 with graph := e.2.graph.map fun g => { g with waitw := g.waitw.map f } }) else e }
/-- QTAIL_WRITE (R38): accepted, or counted in STALE; any write ends a region-2 watch of the queue (R39). -/
def execQtailWrite (fn q : Nat) (v : W) (s : State) : Res :=
  match s.queueBy fn q with
  | none => .next s
  | some dq =>
    let x := s.queue dq
    if s.queueShut x then .next s
    else
      let t := v.toNat
      let s1 : State := s.onQueue dq fun x =>
        if !x.en then { x with tl := t, h := t, hw := t }
        else if 0 < dist32 t x.tl ∧ dist32 t x.tl < 2 ^ 31 ∧ dist32 t x.h < 2 ^ 31 then { x with tl := t }
        else { x with stale := satAdd16 x.stale 1 }
      .next ((s1.onQueue dq fun x => { x with watch := if region x.base = 2 then none else x.watch, waitw := x.waitw.map WaitW.tailed }).onWaits dq WaitW.tailed)

/-! Packets (R43, R44) -/

/-- Do the fields of a packet or node lie within R43 and R44? node: in a graph. -/
def packetOk (b : List Byte) (node : Bool) (chip : Nat) : Bool :=
  let t := field b 0 1
  let fl := field b 1 1
  let z := zeros b 2 2 && decide (fl < 8)
  if t = 0 then z && decide (fl < 4) && zeros b 4 56
  else if t = 1 then
    let first := field b 0x0C 1
    let n := field b 0x0D 1
    z && zeros b 0x0E 2 && zeros b 0x30 12
      && decide (1 ≤ field b 4 4 ∧ 1 ≤ field b 8 2 ∧ 1 ≤ field b 10 2 ∧ field b 4 4 * field b 8 2 * field b 10 2 ≤ 2 ^ 40)
      && decide (field b 0x10 8 % 256 = 0 ∧ field b 0x18 8 % 16 = 0 ∧ field b 0x20 8 % 8 = 0)
      && (if 4 ≤ fl then !node && decide (first < 128 ∧ 1 ≤ n ∧ n ≤ 128 ∧ first + n ≤ 128 ∧ first ≤ chip ∧ chip < first + n) else decide (first = 0 ∧ n = 0))
  else if t = 2 then
    !node && z && decide (fl < 4) && zeros b 8 8 && zeros b 0x18 8 && zeros b 0x30 12
      && decide (1 ≤ field b 4 4 ∧ field b 4 4 ≤ 65536 ∧ field b 0x10 8 % 256 = 0 ∧ field b 0x20 8 % 8 = 0)
  else if t = 3 then z && decide (fl < 4) && zeros b 8 8 && zeros b 0x20 28 && decide (field b 0x10 8 % 8 = 0)
  else if t = 4 then z && decide (fl < 4) && zeros b 4 12 && zeros b 0x20 28 && decide (field b 0x10 8 % 8 = 0)
  else if t = 5 then node && z && decide (fl < 4) && zeros b 6 2 && zeros b 0x0C 4 && zeros b 0x18 36 && decide (1 ≤ field b 4 2 ∧ field b 0x10 8 % 4 = 0)
  else if t = 6 then node && z && decide (fl < 4) && zeros b 4 56
  else false

/-- The kernel header's fields (R11, R13, R14). -/
def Header.ofBytes (b : List Byte) : Header :=
  let r := field b 0x28 4
  let sh := field b 0x2C 4
  { codeOff := field b 0x0C 4, codeSize := field b 0x20 4, entry := field b 0x24 4, vregs := bits r 0 8, sregs := bits r 8 7, pregs := bits r 16 7, tiles := bits r 24 4, accs := bits r 28 4,
    budget := bits sh 0 16, stands := bits sh 16 6, scratch := field b 0x30 4, argsize := field b 0x34 4, diag := bits (field b 0x38 4) 0 8, feature := field b 0x10 16,
    sptOff := field b 0x3C 4, sptCount := field b 0x40 4, lvtOff := field b 0x44 4, lvtCount := field b 0x48 4 }
/-- Two parts of a code object apart from each other. -/
def apart (a n b m : Nat) : Bool := decide (a + n ≤ b ∨ b + m ≤ a)
/-- Registers that DIAG names lie within the demands (R17). -/
def Header.diagOk (h : Header) : Bool :=
  [(0, 3, 0), (1, 4, 0), (2, 5, 0), (3, 0, 1), (4, 0, 5), (5, 0, 6), (6, 6, 7)].all fun (b, v, s) => decide (bits h.diag b 1 = 0 ∨ (v ≤ h.vregs ∧ s ≤ h.sregs)) && decide (h.diag < 128)
/-- The limits of a header (R11 to R14, R16, R17, R245), bit 0 of FEATURE, and parts apart from one another. -/
def headerOk (b : List Byte) : Bool :=
  let h := Header.ofBytes b
  let r := field b 0x28 4
  let va := (h.vregs + 7) / 8 * 8
  let n := min h.argsize 128
  let flags := field b 8 4
  decide (field b 0 4 = 0x564F0384 ∧ field b 4 2 = 1 ∧ field b 6 2 = 256 ∧ flags < 2)
    && decide (h.codeOff % 16 = 0 ∧ h.codeSize ≠ 0 ∧ h.codeSize % 16 = 0 ∧ h.entry < h.codeSize / 16)
    && decide (h.vregs ≤ 128 ∧ h.sregs ≤ 64 ∧ h.pregs ≤ 96 ∧ h.tiles ≤ 8 ∧ h.accs ≤ 8 ∧ bits r 15 1 = 0 ∧ bits r 23 1 = 0)
    && decide (va ≤ h.budget ∧ h.budget ≤ 16 * va ∧ 1 ≤ h.stands ∧ h.stands ≤ 32 ∧ bits (field b 0x2C 4) 22 10 = 0)
    && decide (h.scratch ≤ 262144 ∧ h.scratch % 128 = 0 ∧ h.argsize ≤ 4096 ∧ h.argsize % 4 = 0)
    && decide (h.argsize = 0 ∨ 32 + (n + 3) / 4 ≤ h.sregs)
    && decide (field b 0x38 4 < 256 ∧ (flags = 1 ↔ h.diag ≠ 0)) && h.diagOk
    && decide (h.sptOff % 8 = 0 ∧ 1 ≤ h.sptCount ∧ h.sptCount ≤ 2 ^ 24 ∧ h.lvtOff % 16 = 0 ∧ 1 ≤ h.lvtCount ∧ h.lvtCount ≤ 2 ^ 24)
    && decide (bits h.feature 0 1 = 1 ∧ (bits h.feature 8 1 = 0 ∨ 512 ≤ h.scratch))
    && zeros b 0x4C 180
    && apart 0 256 h.codeOff h.codeSize && apart 0 256 h.sptOff (8 * h.sptCount) && apart 0 256 h.lvtOff (48 * h.lvtCount)
    && apart h.codeOff h.codeSize h.sptOff (8 * h.sptCount) && apart h.codeOff h.codeSize h.lvtOff (48 * h.lvtCount) && apart h.sptOff (8 * h.sptCount) h.lvtOff (48 * h.lvtCount)
/-- Features of the capability register (R20). -/
def capMask : Nat := 0xFFFF
/-- Is a feature mask covered by the capability register (R18)? -/
def Header.covered (h : Header) : Bool := decide (h.feature &&& capMask = h.feature)

/-- Steps 3 to 6 of R45 for a kernel: its header and argument bytes, or the status that stops the queue. -/
def State.readKernel (s : State) (c : Nat) (b : List Byte) : Except Nat (State × Header × List Byte) :=
  match s.freadBlocks c (field b 0x10 8) 16 with
  | .error _ => .error 6
  | .ok (s1, hb) =>
    if !headerOk hb then .error 1
    else
      let h := Header.ofBytes hb
      if !h.covered then .error 2
      else
        match s1.freadBlocks c (field b 0x18 8) ((min h.argsize 128 + 15) / 16) with
        | .error _ => .error 6
        | .ok (s2, a) => .ok (s2, h, a.take (min h.argsize 128))
def Header.none : Header :=
  { codeOff := 0, codeSize := 0, entry := 0, vregs := 0, sregs := 0, pregs := 0, tiles := 0, accs := 0, budget := 0, stands := 0, scratch := 0, argsize := 0, diag := 0, feature := 0,
    sptOff := 0, sptCount := 0, lvtOff := 0, lvtCount := 0 }
/-- A launch as its packet describes it, not started. -/
def Launch.ofPacket (b : List Byte) (h : Header) (args : List Byte) (q : Option Nat) (c seq : Nat) : Launch :=
  { queue := q, seq := seq, ctx := c, graph := Option.none, parent := Option.none, nodeIx := 0xFFFFFFFF, hdr := h, code := field b 0x10 8, args := field b 0x18 8,
    x := field b 4 4, y := field b 8 2, z := field b 10 2, argb := args, cpladdr := field b 0x20 8, cplval := field b 0x28 8,
    irq := decide (bits (field b 1 1) 1 1 = 1), dep := decide (bits (field b 1 1) 0 1 = 1), started := false, order := 0, number := 0, next := 0, last := Option.none, waitSince := 0,
    repl := Option.none, killing := false, why := Option.none }
/-- A new launch enters the table. -/
def State.addLaunch (s : State) (l : Launch) : State := { s with launches := s.launches ++ [(s.seq, { l with seq := s.seq })], seq := s.seq + 1 }

/-! Graphs (R52) -/

/-- Nodes as a list of 64 bytes each. -/
def chunks64 (b : List Byte) : Nat → List (List Byte)
  | 0 => []
  | n + 1 => b.take 64 :: chunks64 (b.drop 64) n
def nodeType (b : List Byte) : Nat := field b 0 1
/-- The bodies of a graph's loops: first and last node. -/
def bodies (ns : List (List Byte)) : List (Nat × Nat) :=
  ((List.range ns.length).filter fun i => decide (nodeType (ns.getD i []) = 5)).map fun i => (i + 1, i + field (ns.getD i []) 4 2)
/-- Is a graph valid? -/
def graphOk (ns : List (List Byte)) (chip : Nat) : Bool :=
  let n := ns.length
  let bs := bodies ns
  ns.all (fun b => packetOk b true chip)
    && decide (nodeType (ns.getD (n - 1) []) = 6) && ((ns.take (n - 1)).all fun b => decide (nodeType b ≠ 6))
    && (bs.all fun b => decide (b.2 < n - 1))
    && (bs.all fun a => bs.all fun b => decide (a = b ∨ a.2 < b.1 ∨ b.2 < a.1 ∨ (a.1 ≤ b.1 ∧ b.2 ≤ a.2) ∨ (b.1 ≤ a.1 ∧ a.2 ≤ b.2)))
    && ((List.range n).all fun i => decide ((bs.filter fun b => decide (b.1 ≤ i ∧ i ≤ b.2)).length ≤ 8))
/-- Steps 3 and 4 of R45 for a graph. -/
def State.readGraph (s : State) (c : Nat) (b : List Byte) : Except Nat (State × List (List Byte)) :=
  let n := field b 4 4
  match s.freadBlocks c (field b 0x10 8) (4 * n) with
  | .error _ => .error 6
  | .ok (s1, bs) => if graphOk (chunks64 bs n) s.pkg.chip then .ok (s1, chunks64 bs n) else .error 9

/-! Acceptance (R45 to R48, R56) -/

/-- Chips of a replicated launch's set. -/
def Repl.chips (r : Repl) : List Nat := (List.range r.nchip).map (r.first + ·)
/-- What the origin sends to the other chips of a set (R56): kind 10 of the model's flits, with the launch's key and generation. -/
def State.sendSet (s : State) (r : Repl) (what : Nat) (args : List Nat) : State :=
  { s with outbox := s.outbox ++ (r.chips.filter fun c => decide (c ≠ s.pkg.chip)).map fun c => Out.flit c what args }
/-- A KERNEL packet of a queue: a launch, or a status. -/
def State.acceptKernel (s : State) (dq : Nat) (q : Queue) (b : List Byte) : Except Nat State :=
  match s.readKernel q.ctx b with
  | .error e => .error e
  | .ok (s1, h, a) =>
    let l := Launch.ofPacket b h a (some dq) q.ctx 0
    if bits (field b 1 1) 2 1 = 0 then .ok (s1.addLaunch l)
    else
      let gen := (q.gen + 1) % 2 ^ 32
      let r : Repl := { origin := s.pkg.chip, gen := gen, first := field b 0x0C 1, nchip := field b 0x0D 1, ready := [], done := [], release := none, since := s.now, sentReady := false, okey := s1.seq }
      if r.chips.all fun c => s.reachable c then
        .ok (((s1.addLaunch { l with repl := some r }).onQueue dq fun q => { q with gen := gen }).sendSet r 10 ([s1.seq, gen, q.ctx, s.partOf q.ctx] ++ b.map (·.toNat) ++ a.map (·.toNat)))
      else .error 7
/-- The word of a WAITW is read (R47): satisfied, or the watch it waits on. -/
def State.tryWaitw (s : State) (c : Nat) (w : WaitW) : Except Unit (State × Option WaitW) :=
  match s.fread c w.addr 8 with
  | .error _ => .error ()
  | .ok (s1, b) => if w.value ≤ ofBytes b then .ok (s1, none) else .ok (s1, some { w with watch := s.watchKey c w.addr, since := s.now, fired := false })
def WaitW.ofPacket (b : List Byte) (now : Nat) : WaitW :=
  { addr := field b 0x10 8, value := field b 0x18 8, timeout := field b 4 4, first := now, watch := 0, since := now, fired := false }
/-- The head advances past an accepted packet. -/
def Queue.advance (q : Queue) : Queue := { q with h := (q.h + 1) % 2 ^ 32, waitw := none, watch := none }
/-- accept(h) (R45): the checks in order; the first that fails stops the queue. A GRAPH packet that fails here has no node yet that failed: HQ_QERR is 0xFFFFFFFF (log 112). -/
def State.accept (s : State) (dq : Nat) (b : List Byte) : State :=
  let q := s.queue dq
  let t := nodeType b
  if !packetOk b false s.pkg.chip then s.qstop dq 3 noNode
  else if t = 0 then s.onQueue dq Queue.advance
  else if t = 1 then
    match s.acceptKernel dq q b with
    | .ok s' => s'.onQueue dq Queue.advance
    | .error e => if e = 7 then (s.onQueue dq fun q => { q with gen := (q.gen + 1) % 2 ^ 32 }).qstop dq 7 noNode else s.qstop dq e noNode
  else if t = 2 then
    match s.readGraph q.ctx b with
    | .ok (s1, ns) =>
      (s1.addLaunch { Launch.ofPacket b Header.none [] (some dq) q.ctx 0 with graph := some { nodes := ns, at_ := 0, iters := [], waitw := none, done := false }, x := 0, y := 0, z := 0, code := 0, args := 0 }).onQueue dq Queue.advance
    | .error e => s.qstop dq e noNode
  else if t = 3 then
    match s.tryWaitw q.ctx (WaitW.ofPacket b s.now) with
    | .error () => s.qstop dq 6 noNode
    | .ok (s1, none) => s1.onQueue dq Queue.advance
    | .ok (s1, some w) => s1.onQueue dq fun q => { q with waitw := some w }
  else
    let sg : Signal := { seq := s.seq, addr := field b 0x10 8, value := field b 0x18 8, irq := decide (bits (field b 1 1) 1 1 = 1), graph := none }
    { s with seq := s.seq + 1 }.onQueue dq fun q => { q.advance with sigs := q.sigs ++ [sg] }
/-- Does the queue's context exist, in a partition of its function (R39, R45 step 2)? -/
def State.ctxFits (s : State) (q : Queue) : Bool := match s.ctx q.ctx with | some cx => decide (q.fn = some (s.part cx.part).fn) | none => false
/-- Is there anything to service in a queue (R39)? -/
def State.serviceable (s : State) (q : Queue) : Bool :=
  q.en && !q.stop && decide (0 < dist32 q.tl q.h ∧ dist32 q.tl q.h < 2 ^ 31) && q.watch.isNone && q.waitw.isNone && !s.queueShut q
/-- One turn of the loop of R39. -/
def State.service (s : State) (dq : Nat) : State :=
  let q := s.queue dq
  if !s.serviceable q then s
  else if !s.ctxFits q then s.qstop dq 8 noNode
  else
    let a := q.base + 64 * (q.h % 2 ^ q.log2)
    match s.fread q.ctx (a + 0x3C) 4 with
    | .error _ => s.qstop dq 6 noNode
    | .ok (s1, sb) =>
      let st := ofBytes sb
      if st = lap q.log2 q.h then
        match s1.freadBlocks q.ctx a 4 with
        | .error _ => s1.qstop dq 6 noNode
        | .ok (s2, b) => s2.accept dq b
      else if st = lap q.log2 ((q.h + 2 ^ q.log2) % 2 ^ 32) then s1.qstop dq 4 noNode
      else s1.onQueue dq fun q => { q with watch := some s.now, watchLine := s.watchKey q.ctx (a + 0x3C) }
/-- QUEUE_SERVICE. -/
def execQueueService (dq : Nat) (s : State) : Res := .next (s.service dq)
/-- RING_WATCH_TIMEOUT: a region-2 watch of a queue, of its WAITW or of a graph's, ends 10,000 ticks after it began. -/
def WaitW.late (now : Nat) (w : WaitW) : WaitW := if region w.addr = 2 ∧ w.since + 10000 ≤ now then { w with fired := true } else w
def execRingWatchTimeout (dq : Nat) (s : State) : Res :=
  let s1 := s.onQueue dq fun q =>
    { q with
      watch := match q.watch with | some t => if region q.base = 2 ∧ t + 10000 ≤ s.now then none else some t | none => none
      waitw := q.waitw.map (WaitW.late s.now) }
  .next (s1.onWaits dq (WaitW.late s.now))

/-! Head write-back (R40, R41) -/

/-- Write the head back: performed, or faulted with a record unless HWBF is 1 already. -/
def State.writeHead (s : State) (dq : Nat) : State :=
  let q := s.queue dq
  match s.vwrite q.ctx q.hwb (toBytes 4 q.h) with
  | .ok s' => s'.onQueue dq fun x => { x with hw := q.h, hwbf := false }
  | .error c =>
    let s1 := { s with fresh := s.fresh + 1 }.onQueue dq fun x => { x with hw := q.h, hwbf := true }
    if q.hwbf then s1
    else
      let part : Nat := s.partOf q.ctx
      (s1.report (q.fn.getD 0) { Rep.blank 8 c with queue := q.num, ctx := q.ctx, part := part, addr := q.hwb }).causeEvent (0x200 + dq) part q.ctx
/-- Is a new head to be written back? -/
def Queue.owesHead (q : Queue) : Bool := q.en && decide (q.hwb ≠ 0 ∧ q.hw ≠ q.h)
/-- HEAD_WRITEBACK. -/
def execHeadWriteback (dq : Nat) (s : State) : Res := if (s.queue dq).owesHead then .next (s.writeHead dq) else .next s
/-- HEAD_WRITEBACK_RETRY: HWBR written while HWBF is 1. -/
def execHeadWritebackRetry (fn q : Nat) (s : State) : Res :=
  match s.queueBy fn q with
  | none => .next s
  | some dq => let x := s.queue dq; if x.hwbf && decide (x.hwb ≠ 0) && !s.queueShut x then .next (s.writeHead dq) else .next s

/-! EN and RESTART (R34, R35, R51, R60) -/

/-- May EN rise? -/
def Queue.canEnable (q : Queue) : Bool := decide (4 ≤ q.log2 ∧ q.log2 ≤ 16 ∧ q.base < 2 ^ 56 ∧ (region q.base = 0 ∨ region q.base = 2) ∧ q.base % 4096 = 0)
/-- QUEUE_ENABLE. -/
def execQueueEnable (fn q : Nat) (s : State) : Res :=
  match s.queueBy fn q with
  | none => .next s
  | some dq => let x := s.queue dq; if !x.en && x.canEnable && !s.queueShut x then .next (s.onQueue dq fun x => { x with en := true, watch := none, waitw := none }) else .next s
/-- QUEUE_DISABLE. -/
def execQueueDisable (fn q : Nat) (s : State) : Res :=
  match s.queueBy fn q with
  | none => .next s
  | some dq => if s.queueShut (s.queue dq) then .next s else .next (s.onQueue dq fun x => { x with en := false, watch := none, waitw := none })
/-- The graphs of a queue that stopped at one of their nodes. -/
def State.stoppedGraphs (s : State) (dq : Nat) : List Nat :=
  (s.launches.filter fun e => decide (e.2.queue = some dq) && !e.2.killing && (match e.2.graph with | some g => g.done | none => false)).map (·.1)
/-- A stopped graph runs again from node 0. -/
def State.rerun (s : State) (k : Nat) : State :=
  s.onLaunch k fun l => { l with graph := l.graph.map fun g => { g with at_ := 0, iters := [], waitw := none, done := false } }
/-- A stopped graph that a SKIP abandons: it is finished once its kernels are. -/
def State.forsake (s : State) (k : Nat) : State := (s.onLaunch k Launch.abandon).graphGone k
/-- QUEUE_RESTART: STOP and ERR are cleared; every graph that stopped runs again, and the packet at h is accepted afresh. -/
def execQueueRestart (fn q : Nat) (s : State) : Res :=
  match s.queueBy fn q with
  | none => .next s
  | some dq =>
    let x := s.queue dq
    if !x.stop || s.queueShut x then .next s
    else
      let s1 := s.onQueue dq fun x => { x with stop := false, err := 0 }
      .next (((s.stoppedGraphs dq).foldl State.rerun s1).service dq)
/-- QUEUE_RESTART_SKIP: the head advances past the packet at h, and a graph that stopped does not run again; then the queue restarts (log 68). -/
def execQueueRestartSkip (fn q : Nat) (s : State) : Res :=
  match s.queueBy fn q with
  | none => .next s
  | some dq =>
    let x := s.queue dq
    if !x.stop || s.queueShut x then .next s
    else
      let s1 := s.onQueue dq fun x => { x with stop := false, err := 0 }
      .next ((((s.stoppedGraphs dq).foldl State.forsake s1).onQueue dq Queue.advance).service dq)

/-! Starts (R46) -/

/-- The launches that stand in one order with a launch: of its queue, or of its graph. -/
def State.launchMates (s : State) (l : Launch) : List (Nat × Launch) :=
  s.launches.filter fun e => match l.parent with
    | some p => decide (e.2.parent = some p)
    | none => decide (e.2.parent = none ∧ e.2.queue = l.queue) && l.queue.isSome
/-- May an accepted launch start? A stop of its queue does not keep it back (log 112). -/
def State.startable (s : State) (k : Nat) (l : Launch) : Bool :=
  let sib := s.launchMates l
  !l.started && !l.killing
    && (!l.dep || !(sib.any fun e => decide (e.1 < k)))
    && decide ((sib.filter fun e => e.2.started).length < 16)
    && (sib.all fun e => decide (k ≤ e.1) || e.2.started)
    && !s.frozenCk && !s.resetting (s.partOf l.ctx)
/-- What a start does beside placement: the entry cache and the packet cache let go of what they hold of the launch (R29, R100), and so do the L1s and local copies, from which a later fill would take what a store visible at SYSTEM has replaced (R100, log 106). -/
def State.freshCaches (s : State) (l : Launch) : State :=
  let lo := (l.code + l.hdr.codeOff) / 128
  let hi := (l.code + l.hdr.codeOff + l.hdr.codeSize) / 128
  let tag := s.ctag l.ctx
  { s with
    l1 := s.l1.filter fun c => decide (keyLine c.1 < lo ∨ hi < keyLine c.1)
    sec := s.sec.filter fun c => decide (keyLine c.1 < lo ∨ hi < keyLine c.1)
    tcache := s.tcache.filter fun t => decide (t.1 / 4096 % 256 ≠ l.ctx)
    pcache := s.pcache.filter fun e => decide (e.1 / 2 ^ 49 % 65536 ≠ tag ∨ e.1 % 2 ^ 49 < lo ∨ hi < e.1 % 2 ^ 49) }
/-- The die whose front end starts a launch, and its turn there after the queue that came last: round-robin by queue number (R46, log 110). -/
def State.launchDie (s : State) (l : Launch) : Nat := Config.queueDie ((s.queueOf l).getD 0) % 4
def State.launchTurn (s : State) (l : Launch) : Nat := ((s.queueOf l).getD 0 + 511 - (Store.find (s.launchDie l) s.rr).getD 511) % 512
/-- A launch starts: it takes its number, its place in the start order. -/
def State.start (s : State) (k : Nat) (l : Launch) : State :=
  let n : Nat := ((s.ctx l.ctx).map (·.started)).getD 0
  let s0 : State := match s.queueOf l with | some dq => { s with rr := Store.put (s.launchDie l) dq s.rr } | none => s
  let s1 := (s0.freshCaches l).onLaunch k fun l => { l with started := true, order := s.seq, number := n, waitSince := s.now }
  ({ s1 with seq := s1.seq + 1 }).onCtx l.ctx fun c => { c with started := (c.started + 1) % 2 ^ 32, loop := { c.loop with active := true } }
/-- The graph stops its queue at a node (R51, R54): it starts nothing more and waits for a restart. Its SIGNALs that are not stored yet are dropped (log 112). -/
def State.graphStop (s : State) (k dq err node : Nat) : State :=
  let s1 := (s.dropWaiting k).onLaunch k fun l => { l with graph := l.graph.map fun g => { g with done := true, waitw := none } }
  (s1.onQueue dq fun q => { q with sigs := q.sigs.filter fun x => decide (x.graph ≠ some k) }).qstop dq err node
/-- The node after node i: after the last node of a body the walk returns to its loop, the innermost whose body begins at lim or before. -/
def afterFrom (ns : List (List Byte)) (i lim : Nat) : Nat :=
  match (bodies ns).filter fun b => decide (b.2 = i ∧ b.1 ≤ lim) with
  | [] => i + 1
  | b :: t => (t.foldl (fun a b => if a.1 < b.1 then b else a) b).1 - 1
/-- The node after one that is done. -/
def afterNode (ns : List (List Byte)) (i : Nat) : Nat := afterFrom ns i i
def State.toNode (s : State) (k n : Nat) : State := s.onLaunch k fun l => { l with graph := l.graph.map fun g => { g with at_ := n, waitw := none } }
/-- One node of a running graph's walk: KERNEL, WAITW, SIGNAL or NOP (R53). -/
def State.walkNode (s : State) (k : Nat) (l : Launch) (g : GraphRun) (dq : Nat) : State :=
  let b := g.nodes.getD g.at_ []
  let t := nodeType b
  let nxt := afterNode g.nodes g.at_
  if t = 0 then s.toNode k nxt
  else if t = 1 then
    if !(match s.ctx l.ctx with | some _ => true | none => false) then s.graphStop k dq 8 g.at_
    else match s.readKernel l.ctx b with
      | .error e => s.graphStop k dq e g.at_
      | .ok (s1, h, a) => (s1.addLaunch { Launch.ofPacket b h a none l.ctx 0 with parent := some k, nodeIx := g.at_ }).toNode k nxt
  else if t = 3 then
    match s.tryWaitw l.ctx (WaitW.ofPacket b s.now) with
    | .error () => s.graphStop k dq 6 g.at_
    | .ok (s1, none) => s1.toNode k nxt
    | .ok (s1, some w) => s1.onLaunch k fun l => { l with graph := l.graph.map fun g => { g with waitw := some w } }
  else if t = 4 then
    let sg : Signal := { seq := s.seq, addr := field b 0x10 8, value := field b 0x18 8, irq := decide (bits (field b 1 1) 1 1 = 1), graph := some k }
    (({ s with seq := s.seq + 1 }).onQueue dq fun q => { q with sigs := q.sigs ++ [sg] }).toNode k nxt
  else s
/-- Can a running graph walk on at a node of R53 other than LOOP and END? -/
def Launch.walks (l : Launch) : Bool :=
  l.started && !l.killing && (match l.graph with | some g => !g.done && g.waitw.isNone && decide (nodeType (g.nodes.getD g.at_ []) < 5) | none => false)
/-- LAUNCH_START: an accepted launch starts, or a started graph walks one node on. -/
def execLaunchStart (key : Nat) (s : State) : Res :=
  match s.launch key with
  | none => .next s
  | some l =>
    if s.startable key l then .next (s.start key l)
    else match l.graph, l.queue with
      | some g, some dq => if l.walks && !s.frozenCk then .next (s.walkNode key l g dq) else .next s
      | _, _ => .next s

/-! WAITW, SIGNAL, LOOP and END -/

/-- Graphs of a queue whose walk is held by a WAITW that passes a test. -/
def State.heldGraphs (s : State) (dq : Nat) (ok : WaitW → Bool) : List (Nat × Launch × GraphRun × WaitW) :=
  s.launches.filterMap fun e =>
    match e.2.graph with
    | some g => (match g.waitw with | some w => if e.2.queue = some dq ∧ !e.2.killing ∧ ok w then some (e.1, e.2, g, w) else none | none => none)
    | none => none
/-- WAITW_CHECK: at the end of a watch the word is read again. -/
def execWaitwCheck (dq : Nat) (s : State) : Res :=
  let q := s.queue dq
  match q.waitw.filter fun w => w.fired && !s.queueShut q with
  | some w =>
    (match s.tryWaitw q.ctx w with
      | .error () => .next (s.qstop dq 6 noNode)
      | .ok (s1, none) => .next (s1.onQueue dq Queue.advance)
      | .ok (s1, some w) => .next (s1.onQueue dq fun q => { q with waitw := some w }))
  | none =>
    match s.heldGraphs dq (·.fired) with
    | [] => .next s
    | (k, l, g, w) :: _ =>
      match s.tryWaitw l.ctx w with
      | .error () => .next (s.graphStop k dq 6 g.at_)
      | .ok (s1, none) => .next (s1.toNode k (afterNode g.nodes g.at_))
      | .ok (s1, some w) => .next (s1.onLaunch k fun l => { l with graph := l.graph.map fun g => { g with waitw := some w } })
/-- Has a WAITW run out of time? -/
def WaitW.past (now : Nat) (w : WaitW) : Bool := decide (w.timeout ≠ 0 ∧ w.first + w.timeout ≤ now)
/-- WAITW_TIMEOUT. -/
def execWaitwTimeout (dq : Nat) (s : State) : Res :=
  let q := s.queue dq
  let mine := match q.waitw with | some w => w.past s.now | none => false
  if mine then .next (s.qstop dq 5 noNode)
  else match s.heldGraphs dq (WaitW.past s.now) with
    | [] => .next s
    | (k, _, g, _) :: _ => .next (s.graphStop k dq 5 g.at_)
/-- Have all launches before a SIGNAL finished (R48)? -/
def State.signalDue (s : State) (dq : Nat) (x : Signal) : Bool :=
  !(s.launches.any fun e => decide (e.1 < x.seq) && (match x.graph with
    | some k => decide (e.2.parent = some k)
    | none => decide (e.2.queue = some dq ∧ e.2.parent = none)))
/-- A store by the front end faulted (R399): a CPLF record and the queue's error entry. -/
def State.cplf (s : State) (dq c cause addr launch : Nat) : State :=
  let q := s.queue dq
  let part : Nat := s.partOf c
  (s.report (q.fn.getD 0) { Rep.blank 3 cause with queue := q.num, ctx := c, part := part, addr := addr, launch := launch }).causeEvent (0x200 + dq) part c
/-- SIGNAL_STORE: the first SIGNAL of a queue whose launches have finished. One that still waits when EN falls is stored all the same, in the context that HQ_QCFG names by then (log 112). -/
def execSignalStore (dq : Nat) (s : State) : Res :=
  let q := s.queue dq
  match q.sigs.find? (s.signalDue dq) with
  | none => .next s
  | some x =>
    let s1 : State := match s.vwrite q.ctx x.addr (toBytes 8 x.value) with
      | .ok s' => s'
      | .error c => ({ s with fresh := s.fresh + 1 }).cplf dq q.ctx c x.addr 0
    let s2 := s1.onQueue dq fun q => { q with sigs := q.sigs.filter fun y => decide (y ≠ x) }
    .next (if x.irq then s2.causeEvent dq (s.partOf q.ctx) q.ctx else s2)
/-- Has a graph a kernel that is not finished? -/
def State.hasKids (s : State) (k : Nat) : Bool := s.launches.any fun e => decide (e.2.parent = some k)
/-- Running graphs of a queue that stand at a node type with every started kernel finished. -/
def State.graphsAt (s : State) (dq t : Nat) : List (Nat × Launch × GraphRun) :=
  s.launches.filterMap fun e =>
    match e.2.graph with
    | some g => if e.2.queue = some dq ∧ e.2.started ∧ !e.2.killing ∧ !g.done ∧ nodeType (g.nodes.getD g.at_ []) = t ∧ !s.hasKids e.1 then some (e.1, e.2, g) else none
    | none => none
/-- GRAPH_LOOP: the LOOP node reads its condition (R53); a landing fault on the read stops the queue as one on a node does (log 112). -/
def execGraphLoop (dq : Nat) (s : State) : Res :=
  match s.graphsAt dq 5 with
  | [] => .next s
  | (k, l, g) :: _ =>
    let b := g.nodes.getD g.at_ []
    match s.fread l.ctx (field b 0x10 8) 4 with
    | .error _ => .next (s.graphStop k dq 6 g.at_)
    | .ok (s1, cb) =>
      let n := (Store.find g.at_ g.iters).getD 0
      let max_ := field b 8 4
      .next (if ofBytes cb ≠ 0 ∧ (max_ = 0 ∨ n < max_) then
          s1.onLaunch k fun l => { l with graph := l.graph.map fun g => { g with at_ := g.at_ + 1, iters := Store.put g.at_ (n + 1) g.iters } }
        else
          s1.onLaunch k fun l => { l with graph := l.graph.map fun g' => { g' with at_ := afterFrom g.nodes (g.at_ + field b 4 2) g.at_, iters := Store.del g.at_ g'.iters } })
/-- The completion of a launch by the front end (R398 steps 2 to 4, R399). -/
def State.complete (s : State) (k : Nat) (l : Launch) : State :=
  let s1 : State :=
    if l.cpladdr = 0 then s
    else match s.vwrite l.ctx l.cpladdr (toBytes 8 l.cplval) with
      | .ok s' => s'
      | .error c => (match s.queueOf l with | some dq => ({ s with fresh := s.fresh + 1 }).cplf dq l.ctx c l.cpladdr l.number | none => s)
  let s2 := { s1 with launches := s1.launches.del k }
  match s.queueOf l with
  | some dq => if l.irq then s2.causeEvent dq (s.partOf l.ctx) l.ctx else s2
  | none => s2
/-- GRAPH_END: the graph completes (R54). -/
def execGraphEnd (dq : Nat) (s : State) : Res :=
  match s.graphsAt dq 6 with
  | [] => .next s
  | (k, l, _) :: _ => .next (s.complete k l)

/-! Replication and the start barrier (R56, R57) -/

/-- REPLICATION_RECEIVE: the launch runs here in the context of the same number, when that context, its partition and the capability register allow. -/
def execReplicationReceive (r : Replica) (s : State) : Res :=
  match s.ctx r.ctx with
  | none => .next s
  | some cx =>
    if cx.part ≠ r.part then .next s
    else match s.freadBlocks r.ctx (field r.packet 0x10 8) 16 with
      | .error _ => .next { s with fresh := s.fresh + 1 }
      | .ok (s1, hb) =>
        if !headerOk hb || !(Header.ofBytes hb).covered then .next s1
        else
          let rp : Repl := { origin := r.origin, gen := r.gen, first := field r.packet 0x0C 1, nchip := field r.packet 0x0D 1, ready := [], done := [], release := none, since := s.now, sentReady := false, okey := r.okey }
          let l := { Launch.ofPacket r.packet (Header.ofBytes hb) r.args none r.ctx 0 with repl := some rp, cpladdr := 0, irq := false }
          let k := s1.seq
          .next ((((s1.addLaunch l).start k l)).onLaunch k fun l => { l with number := r.number })
/-- START_READY: the origin counts a chip; when every chip is ready it sends release with S 20,000 ticks ahead. -/
def execStartReady (key chip gen : Nat) (s : State) : Res :=
  match s.launch key with
  | none => .next s
  | some l =>
    match l.repl with
    | none => .next s
    | some r =>
      if r.origin ≠ s.pkg.chip ∨ r.gen ≠ gen ∨ r.release.isSome ∨ !(r.chips.contains chip) then .next s
      else
        let r1 : Repl := { r with ready := if r.ready.contains chip then r.ready else r.ready ++ [chip] }
        let s1 := s.onLaunch key fun l => { l with repl := some r1 }
        let rto : Nat := match l.queue with | some dq => (s.queue dq).rto | none => 0
        if (r.chips.all fun c => r1.ready.contains c) && decide (s.now < r.since + max 10000 rto) then .next ((s1.post (.startReleaseReceive key gen (s.now + 20000))).sendSet r 12 [key, gen, s.now + 20000])
        else .next s1
/-- At S the held stands may issue; the merge group is that of the launch (R80). -/
def State.barrierIssue (s : State) (key : Nat) : State :=
  match s.launch key with
  | none => s
  | some l =>
    match l.repl with
    | none => s
    | some r =>
      if (match r.release with | some t => decide (t ≤ s.now) | none => false) then s.onLoop l.ctx fun x => { x with mFirst := r.first, mN := r.nchip, mEn := true }
      else s
/-- START_RELEASE_RECEIVE; one that comes at S or after it starts the launch at once. -/
def execStartReleaseReceive (key gen t : Nat) (s : State) : Res :=
  .next ((s.onLaunch key fun l => match l.repl with | some r => if r.gen = gen ∧ r.release.isNone then { l with repl := some { r with release := some t } } else l | none => l).barrierIssue key)
/-- START_BARRIER_ISSUE. -/
def execStartBarrierIssue (key : Nat) (s : State) : Res := .next (s.barrierIssue key)
/-- A launch that the barrier aborted is gone, without a completion. -/
def State.abortLaunch (s : State) (key : Nat) : State :=
  let s1 := s.purge fun k => decide (k = key)
  { s1 with launches := s1.launches.del key }
/-- Does the start barrier of a launch abort: HQ_QRTO has run out, or a chip of the set cannot be reached (R417)? -/
def State.barrierOver (s : State) (l : Launch) : Bool :=
  match l.repl, l.queue with
  | some r, some dq => decide (r.origin = s.pkg.chip) && r.release.isNone && (decide (r.since + max 10000 (s.queue dq).rto ≤ s.now) || !(r.chips.all fun c => s.reachable c))
  | _, _ => false
/-- START_BARRIER_TIMEOUT. -/
def execStartBarrierTimeout (key : Nat) (s : State) : Res :=
  match s.launch key with
  | none => .next s
  | some l =>
    match l.repl, l.queue with
    | some r, some dq => if s.barrierOver l then .next (((s.abortLaunch key).sendSet r 13 [key, r.gen]).qstop dq 7 noNode) else .next s
    | _, _ => .next s
/-- START_ABORT_RECEIVE. -/
def execStartAbortReceive (key gen : Nat) (s : State) : Res :=
  match s.launch key with
  | none => .next s
  | some l => .next (match l.repl with | some r => if r.gen = gen then s.abortLaunch key else s | none => s)

end Sys2Proof.Machine
end

