-- ==== Sys2Proof/Machine/Retire.lean ====
section
/-! DEFINITION. Completion, resets of partitions and functions, guest time, links, expanders, checkpoints (19 R397 to R422). -/
namespace Sys2Proof.Machine

/-! The completion point (R397, R398) -/

/-- Has a launch reached its completion point on this chip (R397)? -/
def State.atEnd (s : State) (k : Nat) (l : Launch) : Bool :=
  l.started && l.graph.isNone && !l.killing && decide (l.next = l.total)
    && !(s.stands.any fun e => decide (e.2.launch = k)) && !(s.returning.any fun e => decide (e.2.2.launch = k))
    && !(s.outs.any fun o => o.stands.any fun e => decide (e.2.launch = k))
    && !(s.reqs.any fun r => decide (r.2.launch = k)) && !(s.cpys.any fun c => decide (c.2.launch = k)) && !(s.teams.any fun t => decide (t.2.launch = k))
/-- Has this chip's completion point of a launch passed already? -/
def Launch.ended (chip : Nat) (l : Launch) : Bool := match l.repl with | some r => r.done.contains chip | none => false
/-- Every member of a replicated launch is done. -/
def Repl.past (r : Repl) : Bool := r.chips.all fun c => r.done.contains c
/-- Steps 2 to 4, and what a kernel of an abandoned graph leaves (R357). -/
def State.finish (s : State) (k : Nat) (l : Launch) : State :=
  match l.parent with
  | some p => (s.complete k l).graphGone p
  | none => s.complete k l
/-- COMPLETION_POINT (R398): step 1, then the origin's steps once every member is done; another chip sends done to the origin. -/
def execCompletionPoint (key : Nat) (s : State) : Res :=
  match s.launch key with
  | none => .next s
  | some l =>
    if !(s.atEnd key l) || l.ended s.pkg.chip then .next s
    else
      let s1 := s.purge fun k => decide (k = key)
      match l.repl with
      | none => .next (s1.finish key l)
      | some r =>
        if r.origin ≠ s.pkg.chip then .next { s1 with launches := s1.launches.del key, outbox := s1.outbox ++ [.flit r.origin 14 [r.okey, s.pkg.chip, r.gen]] }
        else
          let r1 : Repl := { r with done := s.pkg.chip :: r.done }
          if r1.past then .next (s1.finish key l) else .next (s1.onLaunch key fun l => { l with repl := some r1 })
/-- REPLICA_DONE: done of a member reaches the origin. -/
def execReplicaDone (key chip gen : Nat) (s : State) : Res :=
  match s.launch key with
  | none => .next s
  | some l =>
    match l.repl with
    | none => .next s
    | some r =>
      if r.origin ≠ s.pkg.chip ∨ r.gen ≠ gen ∨ chip = s.pkg.chip ∨ !(r.chips.contains chip) then .next s
      else
        let r1 : Repl := { r with done := if r.done.contains chip then r.done else r.done ++ [chip] }
        if r1.past then .next (s.finish key l) else .next (s.onLaunch key fun l => { l with repl := some r1 })

/-! Partition resets (R408, R409) -/

/-- The contexts of a partition. -/
def State.ctxsOf (s : State) (p : Nat) : List Nat := (s.ctxs.filter fun c => decide (c.2.part = p)).map (·.1)
/-- Steps 1 and 2: queues stop, launches are killed; the completer of last resort serves the partition from now on. -/
def Queue.shut (cs : List Nat) (q : Queue) : Queue := if cs.contains q.ctx ∧ q.en then { q with en := false, watch := none, waitw := none, sigs := [] } else q
def State.fence (s : State) (p : Nat) : State :=
  let cs := s.ctxsOf p
  let s1 := s.setPart p { s.part p with resetAt := some s.now }
  let s2 : State := { s1 with queues := s1.queues.map fun e => (e.1, e.2.shut cs) }
  let ks : List Nat := (s2.launches.filter fun l => cs.contains l.2.ctx).map (·.1)
  ks.foldl (fun s k => s.killOne k 0x3C false) s2
/-- Step 4: what the partition's contexts held is gone; lines of their tags are in memory and dropped; its die-shared bytes are 0; what it borrowed goes back. -/
def State.clearPart (s : State) (p : Nat) : State :=
  let cs := s.ctxsOf p
  let tags : List Nat := (s.ctxs.filter fun c => decide (c.2.part = p)).map fun c => c.2.ctag
  let s1 : State := { s with
    reqs := s.reqs.filter fun r => !(cs.contains r.2.ctx)
    holds := (s.holds.map fun h => { h with items := h.items.filter fun i => !(s.reqs.any fun r => decide (r.1 = i.1) && cs.contains r.2.ctx) }).filter fun h => !h.items.isEmpty
    ordRecs := s.ordRecs.filter fun r => !(tags.contains r.tag)
    samples := s.samples.filter fun x => !(cs.contains x.ctx)
    l2 := s.l2.filter fun l => !(tags.contains l.2.tag)
    pcache := s.pcache.filter fun e => !(tags.contains (e.1 / 2 ^ 49 % 65536))
    tcache := s.tcache.filter fun t => !(cs.contains (t.1 / 4096 % 256))
    lent := s.lent.filter fun e => decide (e.2 ≠ p)
    reclaim := s.reclaim.filter fun c => decide (Store.find c s.lent ≠ some p)
    regs := { s.regs with calOwn := s.regs.calOwn.filter fun e => !(decide (256 ≤ e.2) && cs.contains (e.2 - 256)) } }
  let s2 := (s1.invalidate fun tag _ _ => tags.contains tag).dshClear p
  cs.foldl (fun s c => s.dropCtx c) s2
/-- Ticks that a reset waits for its requests; what is left of 100 ms bounds it in a function's reset (R410). -/
def State.resetWait (s : State) (since : Nat) : Nat :=
  let n := max 100000 s.regs.rstto
  if s.regs.flr.isEmpty then n else min n (s.regs.flrAt + 100000000 - since)
/-- May a partition's reset clear: every request of its agents is answered, or the time is over? -/
def State.drainedPart (s : State) (p since : Nat) : Bool :=
  let cs := s.ctxsOf p
  !(s.reqs.any fun r => cs.contains r.2.ctx) || decide (since + s.resetWait since ≤ s.now)
/-- What a function's reset does after its partitions (R410). -/
def Queue.shutFn (f : Nat) (q : Queue) : Queue := if q.fn = some f then { q with en := false, watch := none, waitw := none } else q
def State.fnDone (s : State) (f : Nat) : State :=
  let x := s.fn f
  let s1 : State := { s with
    queues := s.queues.map fun e => (e.1, e.2.shutFn f)
    fns := Store.put f { x with rrEn := false, gOfs := 0, gMul := 0x01000000, gOfsLive := 0, gMulLive := 0x01000000 } s.fns }
  (s1.report 0 (Rep.blank 5 0x3E)).causeEvent (0x520 + f) 0 0
/-- Functions that were disabled have no queue (R411). -/
def Queue.unassign (q : Queue) : Queue := if q.fn = some 0 then q else { q with fn := none, en := false }
/-- Go on with the functions' resets: one partition of the first function, or its end. -/
def State.flrGo (s : State) : List (Nat × List Nat) → State
  | [] =>
    let s1 : State := { s with regs := { s.regs with flr := [], vfOff := false } }
    if s.regs.vfOff then { s1 with queues := s1.queues.map fun e => (e.1, e.2.unassign) } else s1
  | (f, p :: ps) :: t => ({ s with regs := { s.regs with flr := (f, p :: ps) :: t } }).fence p
  | (f, []) :: t =>
    let s1 := s.fnDone f
    State.flrGo { s1 with regs := { s1.regs with flrAt := s.now } } t
/-- Does a reset of a partition run? -/
def State.anyReset (s : State) : Bool := s.parts.any fun e => e.2.resetAt.isSome
/-- HQ_PRST.BUSY. -/
def State.resetBusy (s : State) : Bool := s.regs.prstBusy || s.anyReset || !s.regs.flr.isEmpty
/-- The next reset that waits, when none runs and no checkpoint does. -/
def State.nextReset (s : State) : State :=
  if s.regs.ckBusy ∨ s.anyReset then s
  else if s.regs.prstBusy then s.fence s.regs.prst
  else if s.regs.flr.isEmpty then s
  else s.flrGo s.regs.flr
/-- PARTITION_RESET: a write of HQ_PRST. -/
def execPartitionReset (v : W) (s : State) : Res :=
  if s.resetBusy then .next s
  else
    let p := bits v.toNat 0 5
    let go := decide (bits v.toNat 31 1 = 1)
    .next ({ s with regs := { s.regs with prst := p, prstBusy := go } }).nextReset
/-- RESET_DRAIN_END: steps 3 to 5 of R408. -/
def execResetDrainEnd (p : Nat) (s : State) : Res :=
  match (s.part p).resetAt with
  | none => .next s
  | some since =>
    if s.drainedPart p since = false then .next s
    else
      let s1 := s.clearPart p
      let s2 := s1.setPart p { s1.part p with resetAt := none, armed := false }
      match s.regs.flr with
      | (f, q :: ps) :: t =>
        if q = p then .next ({ s2 with regs := { s2.regs with flr := (f, ps) :: t } }).nextReset
        else .next s2.nextReset
      | _ =>
        let s3 := (s2.report (s2.part p).fn { Rep.blank 4 0x3C with part := p }).causeEvent (0x500 + p) p 0
        .next ({ s3 with regs := { s3.regs with prstBusy := false } }).nextReset

/-! Function resets (R410, R411) -/

/-- The partitions of a function, ascending. -/
def State.partsOf (s : State) (f : Nat) : List Nat := (List.range 32).filter fun p => decide ((s.part p).fn = f)
/-- Queue a function's reset behind those that run. -/
def State.flrAdd (s : State) (f : Nat) : State :=
  { s with regs := { s.regs with flr := s.regs.flr ++ [(f, s.partsOf f)], flrAt := if s.regs.flr.isEmpty then s.now else s.regs.flrAt } }
/-- Is a virtual function enabled (R406)? -/
def State.vfOn (s : State) (f : Nat) : Bool := s.regs.vfEnable && decide (1 ≤ f ∧ f ≤ s.regs.numVfs ∧ f < 32)
/-- VF_FLR: an initiate-FLR of an enabled virtual function that is not in reset. -/
def execVfFlr (f : Nat) (s : State) : Res :=
  if !(s.vfOn f) || s.regs.flr.any fun e => decide (e.1 = f) then .next s
  else .next (if s.anyReset || !s.regs.flr.isEmpty then s.flrAdd f else (s.flrAdd f).nextReset)
/-- VF_DISABLE: every enabled function is reset in ascending order, then they disappear. -/
def execVfDisable (s : State) : Res :=
  if s.regs.vfEnable = false then .next s
  else
    let fs := (List.range 32).filter fun f => s.vfOn f && !(s.regs.flr.any fun e => decide (e.1 = f))
    let s1 := fs.foldl (fun s f => s.flrAdd f) s
    let s2 : State := { s1 with regs := { s1.regs with vfEnable := false, vfOff := true } }
    .next (if s.anyReset || !s.regs.flr.isEmpty then s2 else if s2.regs.flr.isEmpty then s2.flrGo [] else s2.nextReset)
/-- VF_ENABLE: n virtual functions come up, with no queues assigned. -/
def execVfEnable (n : Nat) (s : State) : Res :=
  if s.regs.vfEnable || s.regs.vfOff then .next s
  else .next { s with regs := { s.regs with vfEnable := true, numVfs := min n 31 }, queues := s.queues.map fun e => (e.1, e.2.unassign) }

/-! The physical function's reset and bring-up (R410, R433, R437) -/

/-- The firmware a package starts: the staged image after a conventional reset; the ROM runs it when its signature is good and its version at or above the fused counter (R433). -/
def Pkg.boot (p : Pkg) : Pkg :=
  let img := p.staged.getD p.image
  { p with image := img, staged := none, fwok := img.good && decide (p.fused ≤ img.svn), svn := img.svn, ready := false, off := false, frozen := false, routes := [], links := [],
           ports := p.ports.map fun x => (true, x.2), chip := 0, ecc := 0, scrub := 0, clockCut := false, ceiling := 24 }
/-- The state after a conventional reset, before bring-up: what the package keeps is its flash, its fuses, its fences and the expanders. -/
def State.cold (s : State) : State :=
  { State.reset with pkg := s.pkg.boot, tier := s.tier, outbox := s.outbox, fresh := s.fresh, seq := s.seq, turn := s.turn }
/-- PF_RESET: a conventional reset (conv), after which bring-up runs; or an FLR, which keeps device memory, RH_CHIPID and the package. -/
def execPfReset (conv : Bool) (s : State) : Res :=
  if conv then .next (s.cold.post .bringUp)
  else .next { State.reset with pkg := { s.pkg with routes := [] }, now := s.now, fort := s.fort, forts := s.forts, mem := s.mem, tier := s.tier, poison := s.poison, outbox := s.outbox, fresh := s.fresh, seq := s.seq, turn := s.turn }
/-- BRING_UP (R437): the firmware is verified, SRAM and device memory are zero, READY rises when the firmware is good. -/
def execBringUp (s : State) : Res :=
  let c := s.cold
  .next { c with pkg := { c.pkg with ready := c.pkg.fwok } }

/-! Guest time (R412) -/

/-- GUEST_TIME_APPLY. -/
def execGuestTimeApply (f : Nat) (s : State) : Res :=
  let x := s.fn f
  .next { s with fns := Store.put f { x with gOfsLive := x.gOfs, gMulLive := x.gMul } s.fns }

/-! RAS events, links and expanders (R416 to R419, R432) -/

/-- An error event: its entry of the cause table, and RAS records to the physical function's ring and to those of the functions named (R432). -/
def State.ras (s : State) (event addr : Nat) (fs : List Nat) : State :=
  let r : Rep := { Rep.blank 7 event with addr := addr }
  (((fs.filter fun f => decide (f ≠ 0)).foldl (fun s f => s.report f r) (s.report 0 r))).causeEvent (0x540 + event) 0 0
/-- The address field of a RAS record. -/
def unitAddr (die sector index : Nat) : Nat := die + 256 * sector + 65536 * index
/-- A link is down: rounds that need a chip that is cut off fail, and SENDs to it answer unreachable (R417). -/
def State.cutFail (s : State) : State :=
  let walks : Store WalkRec := s.walks.map fun w => (w.1, match w.2.kind, w.2.status with
    | .send m _ _, none => if s.reachable m.chip then w.2 else { w.2 with status := some 3 }
    | _, _ => w.2)
  let open_ := (s.rounds.filter fun r => !r.done).map fun r => (r.ctx, r.grp, r.round)
  if s.cutOff then
    open_.foldl (fun (s : State) k =>
      let s1 : State := { s with fresh := s.fresh + 1 }
      if Config.fresh s.fresh % 2 = 0 then s1
      else ({ s1 with rounds := s1.rounds.map fun (r : TreeRound) => if r.ctx = k.1 ∧ r.grp = k.2.1 ∧ r.round = k.2.2 then { r with failed := true } else r }).treeSettle k.1 k.2.1 k.2.2) { s with walks := walks }
  else { s with walks := walks }
/-- LINK_DOWN: link n is down. -/
def State.linkLost (s : State) (n : Nat) : State :=
  match Store.find n s.pkg.links with
  | some (true, _, r) => ({ s with pkg := { s.pkg with links := Store.put n (false, 0, r) s.pkg.links } }).cutFail
  | _ => s
def execLinkDown (n : Nat) (s : State) : Res :=
  if 16 ≤ n then .next s else .next ((s.linkLost n).ras 6 (unitAddr 0 0 n) [])
/-- LINK_UP: link n is trained and carries flits over its lanes. -/
def execLinkUp (n lanes : Nat) (s : State) : Res :=
  if 16 ≤ n ∨ s.pkg.fenced.contains (4, n) then .next s
  else .next { s with pkg := { s.pkg with links := Store.put n (true, min lanes 8, (((Store.find n s.pkg.links).map fun l => l.2.2).getD 0)) s.pkg.links } }
/-- EXPANDER_DOWN: accesses through the port take tier-error. -/
def execExpanderDown (port : Nat) (s : State) : Res :=
  if 4 ≤ port then .next s
  else .next ((({ s with pkg := { s.pkg with ports := s.pkg.ports.set port (false, (s.pkg.ports.getD port (false, 0)).2) } } : State)).ras 7 (unitAddr port 0 port) [])
/-- The second tier of a package holds at most 4,096 GB (R3, R242). -/
def tierMax : Nat := 4096 * 10 ^ 9
/-- EXPANDER_UP: the cruiser has brought the expander up again, with as much of its memory as the package takes beside the other ports. -/
def execExpanderUp (port size : Nat) (s : State) : Res :=
  if 4 ≤ port then .next s
  else
    let rest := ((s.pkg.ports.eraseIdx port).map (·.2)).foldl (· + ·) 0
    .next { s with pkg := { s.pkg with ports := s.pkg.ports.set port (true, min size (tierMax - rest)) } }

/-! Whole-memory checkpoint (R420 to R422) -/

/-- Bytes that a port copies. -/
def ckPortBytes : Nat := 192 * 2 ^ 30
/-- The stack-local address of a physical address. -/
def stackLocal (p : Nat) : Nat := p / 8192 * 1024 + p % 1024
/-- The base of port d's range, 256 MiB aligned. -/
def State.ckBase (s : State) (d : Nat) : Nat := (Store.find d s.regs.ckDst).getD 0 / 2 ^ 28 * 2 ^ 28
/-- The key in the second tier of an address of port d: region 1 reaches the addresses whose stack lies on the die of the port; the others have keys of their own. -/
def tierKey (d a : Nat) : Nat := if stackOf a / 2 = d then a else (d + 1) * 2 ^ 56 + a
/-- The key in the second tier of the byte that a physical address is copied to. -/
def State.ckAddr (s : State) (p : Nat) : Nat := tierKey (stackOf p / 2) (s.ckBase (stackOf p / 2) + stackLocal p + 96 * 2 ^ 30 * (stackOf p % 2))
/-- Is a GO refused? -/
def State.ckRefused (s : State) (v : W) : Bool :=
  s.regs.ckBusy || s.resetBusy || s.pkg.ports.any (fun p => !p.1) || ((List.range 4).any fun d => decide ((s.pkg.ports.getD d (false, 0)).2 < s.ckBase d + ckPortBytes))
    || (decide (bits v.toNat 1 1 = 1) && (decide (bits v.toNat 2 1 = 1) || !s.ctxs.isEmpty))
/-- A write of RAS_CKCTL with GO 1. -/
def State.ckGo (s : State) (v : W) (restore : Bool) : State :=
  let ctl := BitVec.ofNat 32 ((if restore then 2 else 0) + 4 * bits v.toNat 2 1)
  if s.ckRefused ctl then { s with regs := { s.regs with ckResult := 1, ckCtl := ctl } }
  else { s with regs := { s.regs with ckCtl := ctl, ckBusy := true, ckRestore := restore, ckLive := some (restore || decide (bits v.toNat 2 1 = 1)), ckMib := 0 } }
/-- CHECKPOINT_SAVE. A frozen save stops every loop's interval from counting as active (R421). -/
def execCheckpointSave (v : W) (s : State) : Res :=
  let s1 := s.ckGo v false
  if s1.frozenCk ∧ s.regs.ckBusy = false then .next { s1 with ctxs := s1.ctxs.map fun c => (c.1, { c.2 with loop := { c.2.loop with active := false } }) } else .next s1
/-- CHECKPOINT_RESTORE. -/
def execCheckpointRestore (v : W) (s : State) : Res := .next (s.ckGo v true)
/-- Have all threads stopped and all commands finished (R421 step 2)? -/
def State.ckQuiet (s : State) : Bool := s.issue.isEmpty && (s.stands.all fun e => e.2.quiet) && s.cpys.isEmpty
/-- Copy one line of device memory to the tier or back, with its poison. -/
def State.ckLine (s : State) (restore : Bool) (n : Nat) : State :=
  let a := 128 * n
  let t := s.ckAddr a
  let k := homeKey .tier t
  let psn (src dst : Nat) : List Nat :=
    let rest := s.poison.filter fun l => decide (l ≠ dst)
    if s.poison.contains src then dst :: rest else rest
  if restore then { s.pokeN .dev a (s.peekN .tier t 128) with poison := psn k n }
  else { s.pokeN .tier t (s.peekN .dev a 128) with poison := psn n k }
/-- The copy: of every line, or, when it stops on an error, of lines that the specification does not name. -/
def State.ckCopy (s : State) (restore all : Bool) : State :=
  (List.range (devEnd / 128)).foldl (fun t n => if all ∨ Config.pick (s.fresh + n) % 2 = 0 then t.ckLine restore n else t) s
/-- Threads stopped by a frozen checkpoint go on. -/
def State.thaw (s : State) : State :=
  let going (g : Nat) (st : Stand) : Bool := match s.launchCtx st.launch with | some c => decide (s.mustStop g c = 0) | none => false
  let f (g : Nat) (st : Stand) : Stand := { st with thr := st.thr.map (Thread.start (s.cyc g)), h := st.h.map fun h => { h with thr := h.thr.map (Thread.start (s.cyc g)) } }
  { s with stands := s.stands.map fun e => (e.1, if going (gOf e.1) e.2 then f (gOf e.1) e.2 else e.2) }
/-- CHECKPOINT_DONE: it finishes (err 0), stops on a tier-error (2) or is aborted by a device error (3). A reset that waited for it runs now. -/
def execCheckpointDone (err : Nat) (s : State) : Res :=
  if s.regs.ckBusy = false ∨ (err ≠ 0 ∧ err ≠ 2 ∧ err ≠ 3) then .next s
  else if err = 0 ∧ s.frozenCk ∧ s.ckQuiet = false then .next s
  else
    let restore := s.regs.ckRestore
    let s1 := s.ckCopy restore (decide (err = 0))
    let s2 : State := if restore then { s1 with l1 := [], sec := [], l2 := [], pcache := [], tcache := [] } else s1
    let mib : Nat := if err = 0 then 786432 else Config.pick s.fresh % 786432
    let s3 : State := { s2 with fresh := s.fresh + 1 + devEnd / 128, regs := { s2.regs with ckBusy := false, ckLive := none, ckResult := err, ckMib := mib } }
    let s4 := if s.frozenCk then s3.thaw else s3
    .next ((s4.report 0 (Rep.blank 6 0)).causeEvent 0x540 0 0).nextReset

end Sys2Proof.Machine
end

