-- ==== Sys2Proof/Machine/Debug.lean ====
section
/-! DEFINITION. The debugger, arming, freeze, watchpoints, sampled requests (20 R423 to R430). -/
namespace Sys2Proof.Machine

/-! Stops (R423, R424) -/

/-- Is the partition of a context armed? -/
def State.armedFor (s : State) (c : Nat) : Bool := match s.ctx c with | some cx => (s.part cx.part).armed | none => false
def State.onDbg (s : State) (c : Nat) (f : Dbg → Dbg) : State := s.onCtx c (Ctx.onDbg f)
/-- A write to the block of a partition that is not armed: RES is 6. -/
def State.dbgRefuse (s : State) (c : Nat) : State := s.onDbg c fun d => { d with res := 6 }
/-- Change every stand of a context, on a core or off it, by its core. -/
def State.eachStand (s : State) (c : Nat) (f : Nat → Stand → Stand) : State :=
  let g (core : Nat) (st : Stand) : Stand := if s.launchCtx st.launch = some c then f core st else st
  { s with
    stands := s.stands.map fun e => (e.1, g (gOf e.1) e.2)
    outs := s.outs.map fun o => { o with stands := o.stands.map fun e => (e.1, g o.g e.2) }
    returning := s.returning.map fun e => (e.1, e.2.1, g e.1 e.2.2) }
/-- Change every thread of a stand, handlers' threads too. -/
def Stand.eachThread (st : Stand) (f : Thread → Thread) : Stand :=
  { st with thr := st.thr.map f, h := st.h.map fun h => { h with thr := h.thr.map f } }
/-- A parked or held thread stops where it is; a ready or stalled one runs on to its stop site. -/
def Thread.haltHere (t : Thread) : Thread :=
  match t.st with
  | .parked _ => { t with dbg := .held }
  | .held => { t with dbg := .held }
  | .stopped => { t with dbg := .held }
  | .ready => t
  | .stalled => t
  | .issuing => t
  | .exited => t
/-- A halt that is to be raised at the next safe point. -/
def Thread.haltAsk (t : Thread) : Thread := if t.st = .exited then t else { t with dbg := .halt }
/-- Every thread of a context stops (R423); with DELIV, each takes halt instead. -/
def State.stopCtx (s : State) (c : Nat) : State :=
  match s.ctx c with
  | none => s
  | some cx =>
    if cx.dbg.deliv then s.eachStand c fun _ st => { st with thr := st.thr.map Thread.haltAsk }
    else (s.eachStand c fun _ st => st.eachThread Thread.haltHere).onDbg c fun d => { d with stop := true }
/-- DEBUG_STOP. -/
def execDebugStop (c : Nat) (s : State) : Res := if s.armedFor c then .next (s.stopCtx c) else .next (s.dbgRefuse c)
/-- A held thread is released: one that stands at a packet goes on with it; to: what the debugger asks of it then. -/
def Thread.release (cyc : Nat) (stopped parked : Dbgt) (t : Thread) : Thread :=
  if t.dbg = .held then (match t.st with
    | .stopped => { t.ready cyc with dbg := stopped }
    | _ => { t with dbg := parked })
  else t
/-- DEBUG_RUN. -/
def execDebugRun (c : Nat) (s : State) : Res :=
  if s.armedFor c then .next ((s.eachStand c fun g st => st.eachThread (Thread.release (s.cyc g) .pass .none)).onDbg c fun d => { d with stop := false })
  else .next (s.dbgRefuse c)
/-- DEBUG_STEP: a held thread passes its packet and stops again at its next safe point. -/
def execDebugStep (c : Nat) (s : State) : Res :=
  match s.ctx c with
  | none => .next s
  | some cx =>
    if s.armedFor c then .next (s.eachStand c fun g st => st.eachThread (Thread.release (s.cyc g) (.first cx.dbg.deliv) (.step cx.dbg.deliv)))
    else .next (s.dbgRefuse c)
/-- DBG_STAT.STOPPED: every live thread of the context is debugger-held. -/
def State.stopped (s : State) (c : Nat) : Bool :=
  let all (st : Stand) : Bool := s.launchCtx st.launch != some c || st.thr.all fun t => decide (t.st = .exited ∨ t.dbg = .held)
  (s.stands.all fun e => all e.2) && (s.outs.all fun o => o.stands.all fun e => all e.2) && s.returning.all fun e => all e.2.2

/-! Register access (R425) -/

def selSlot (r : W) : Nat := bits r.toNat 9 5
def selLane (r : W) : Nat := bits r.toNat 14 5
def selCls (r : W) : Nat := bits r.toNat 19 3
def selReg (r : W) : Nat := bits r.toNat 22 7
/-- What an access finds: the stand with its launch and whether the handler's thread is meant, or a result code. -/
def State.dbgFind (s : State) (c : Nat) (r : W) : Except Nat (Stand × Launch × Bool) :=
  let g := bits r.toNat 0 9
  let out := (s.outs.find? fun o => decide (o.g = g ∧ o.ctx = c)).bind fun o => Store.find (selSlot r) o.stands
  match s.stand (standKey g (selSlot r)) with
  | none => (match out with
    | some st => if (st.t false (selLane r)).dbg = .held then .error 3 else .error 2
    | none => .error 2)
  | some st =>
    match s.launch st.launch with
    | none => .error 2
    | some l =>
      let hdl := decide ((st.t true (selLane r)).dbg = .held)
      if l.ctx ≠ c ∨ (st.t hdl (selLane r)).dbg ≠ .held then .error 2
      else if st.place ≠ .resident ∨ (selCls r = 0 ∧ st.spilledV.contains (selReg r)) then .error 3
      else
        let n := selReg r
        let cnt := if selCls r = 0 then l.hdr.vregs else if selCls r = 1 then l.hdr.sregs else if selCls r = 2 then l.hdr.pregs else if selCls r = 3 then 12 else 128
        if 5 ≤ selCls r ∨ cnt ≤ n then .error 5 else .ok (st, l, hdl)
/-- The value a register holds for the lane. -/
def dbgValue (st : Stand) (l : Launch) (hdl : Bool) (r : W) : W :=
  let v := st.seen hdl
  let t := st.t hdl (selLane r)
  if selCls r = 0 then v.rv (selReg r) (selLane r)
  else if selCls r = 1 then v.rs (selReg r)
  else if selCls r = 2 then (if v.rp (selReg r) (selLane r) then 1 else 0)
  else if selCls r = 3 then BitVec.ofNat 32 (t.flags.getD (selReg r) 0)
  else BitVec.ofNat 32 (l.pkt t.pc)
/-- The flag of a counted write to the register that is outstanding for the lane (R105, R345). -/
def State.counted (s : State) (r : W) : Option Nat :=
  let g := bits r.toNat 0 9
  let op := s.ops.find? fun o => decide (o.2.g = g ∧ o.2.slot = selSlot r ∧ o.2.d ≤ selReg r ∧ selReg r < o.2.d + o.2.nreg) && inMask o.2.q (selLane r)
  let tree := (s.rounds.flatMap (·.ins)).find? fun m => decide (m.g = g ∧ m.slot = selSlot r ∧ m.p = selReg r) && inMask m.q (selLane r) && m.flag.isSome
  if selCls r = 0 then op.map (·.2.flag) else if selCls r = 2 then tree.bind (·.flag) else none
/-- The packets that are safe points of a launch's code. -/
def State.isSafePoint (s : State) (l : Launch) (pkt : Nat) : Bool :=
  decide (pkt < l.hdr.codeSize / 16) && (match s.spSet l pkt with | some b => b | none => false)
/-- Write the register, when its limits and the pool allow: the result code and the new state. -/
def State.dbgPut (s : State) (st : Stand) (l : Launch) (hdl : Bool) (r v : W) : Nat × State :=
  let g := bits r.toNat 0 9
  let key := standKey g (selSlot r)
  let q := bit (selLane r)
  let w := st.seen hdl
  let t := st.t hdl (selLane r)
  if selCls r = 0 then
    let new := st.back hdl (w.wv q (selReg r) .part fun _ => v)
    if s.lacks g st new then (4, s) else (0, s.setStand key (new.spent st 0))
  else if selCls r = 1 then (0, s.setStand key (st.back hdl (w.ws (selReg r) v)))
  else if selCls r = 2 then (0, s.setStand key (st.back hdl (w.wp q (selReg r) fun _ => decide (bits v.toNat 0 1 = 1))))
  else if selCls r = 3 then (0, s.setStand key (st.onT hdl (selLane r) fun t => { t with flags := t.flags.set (selReg r) (v.toNat % 64) }))
  else if s.isSafePoint l v.toNat = false then (5, s)
  else (0, s.setStand key (st.onT hdl (selLane r) fun _ => { t with pc := l.codePc + BitVec.ofNat 52 v.toNat, slot := 0 }))
/-- End an access with a result. -/
def State.dbgRes (s : State) (c res : Nat) : State := s.onDbg c fun d => { d with res := res, pend := none }
/-- DEBUG_REG_READ. -/
def execDebugRegRead (c : Nat) (s : State) : Res :=
  match s.ctx c with
  | none => .next s
  | some cx =>
    if s.armedFor c = false then .next (s.dbgRefuse c)
    else if cx.dbg.pend.isSome then .next s
    else match s.dbgFind c cx.dbg.rsel with
      | .error e => .next (s.dbgRes c e)
      | .ok (st, l, hdl) => .next ((s.dbgRes c 0).onDbg c fun d => { d with rdata := dbgValue st l hdl cx.dbg.rsel })
/-- Try a write: it is refused, applied, or, with DRAIN, waits for the flag. -/
def State.dbgWrite (s : State) (c : Nat) (r v : W) (drain : Bool) : State :=
  match s.dbgFind c r with
  | .error e => s.dbgRes c e
  | .ok (st, l, hdl) =>
    match s.counted r with
    | some f =>
      if drain then s.onDbg c fun d => { d with pend := some (r, v, f), drainAt := s.cyc (bits r.toNat 0 9) + min d.drainto 16777215 }
      else s.dbgRes c 1
    | none => let x := s.dbgPut st l hdl r v; x.2.dbgRes c x.1
/-- The flag a waiting write waits for has reached 0. -/
def State.dbgDrained (s : State) (r : W) (f : Nat) : Bool :=
  match s.stand (standKey (bits r.toNat 0 9) (selSlot r)) with
  | some st => decide ((st.t false (selLane r)).flags.getD f 0 = 0) && (s.counted r).isNone
  | none => true
/-- DEBUG_REG_WRITE: a GO with WRITE 1; a write that waits is applied once its flag is 0. -/
def execDebugRegWrite (c : Nat) (v : W) (s : State) : Res :=
  match s.ctx c with
  | none => .next s
  | some cx =>
    match cx.dbg.pend with
    | some (r, w, f) => if s.dbgDrained r f then .next (s.dbgWrite c r w false) else .next s
    | none => if s.armedFor c = false then .next (s.dbgRefuse c) else .next (s.dbgWrite c cx.dbg.rsel v (decide (bits cx.dbg.rsel.toNat 30 1 = 1)))
/-- DEBUG_DRAIN_TIMEOUT. -/
def execDebugDrainTimeout (c : Nat) (s : State) : Res :=
  match s.ctx c with
  | none => .next s
  | some cx =>
    match cx.dbg.pend with
    | some (r, _, f) => if decide (cx.dbg.drainAt ≤ s.cyc (bits r.toNat 0 9)) && !(s.dbgDrained r f) then .next (s.dbgRes c 1) else .next s
    | none => .next s

/-! Arming and freeze (R426, R427) -/

/-- DEBUG_ARM: a write of DBG_ARM of a partition. -/
def execDebugArm (p : Nat) (v : W) (s : State) : Res :=
  if 32 ≤ p then .next s else .next (s.setPart p { s.part p with armed := decide (bits v.toNat 31 1 = 1), token := bits v.toNat 0 16 })
/-- FREEZE: every clock of the package stops. -/
def execFreeze (s : State) : Res := .next { s with pkg := { s.pkg with frozen := true } }

/-! Watchpoints and sampled requests (R424, R430) -/

/-- One participant's access of a slot: context, launch, stand, lane, handler, address, bytes, write or read-modify-write, access kind, and its request or operation. -/
structure Acc1 where
  ctx : Nat
  launch : Nat
  g : Nat
  slot : Nat
  lane : Nat
  hdl : Bool
  addr : Nat
  n : Nat
  wr : Bool
  acc : Nat
  pkt : Nat
  pslot : Nat
  isReq : Bool
  id : Nat
  deriving DecidableEq, Repr
def Req.accs (id : Nat) (r : Req) : List Acc1 :=
  if r.engine ∨ r.kind = .clean then [] else r.lanes.map fun a =>
    { ctx := r.ctx, launch := r.launch, g := r.g, slot := r.slot, lane := a.lane, hdl := r.hdl, addr := a.addr, n := max (r.kind.width a.data.length) a.data.length, wr := true, acc := r.acc, pkt := r.pkt, pslot := r.pslot, isReq := true, id := id }
def Op.reads (o : Op) : Bool := !o.scr && (match o.kind with | .load _ _ => true | .tread _ _ _ _ => true | .atom => false | .tquery _ _ => false | .lds _ _ => false | .atoms _ => false | .value => false)
def Op.accs (id : Nat) (o : Op) : List Acc1 :=
  if o.reads then (o.lanes.filter fun a => decide (0 < a.n)).map fun a =>
    { ctx := o.ctx, launch := o.launch, g := o.g, slot := o.slot, lane := a.lane, hdl := o.hdl, addr := a.addr, n := a.n, wr := false, acc := 1, pkt := o.pkt, pslot := o.pslot, isReq := false, id := id }
  else []
/-- The accesses that an executed slot has added. -/
def State.newAccs (a b : State) : List Acc1 :=
  ((b.reqs.filter fun r => decide (a.seq ≤ r.1)).flatMap fun r => r.2.accs r.1) ++ ((b.ops.filter fun o => decide (a.seq ≤ o.1)).flatMap fun o => o.2.accs o.1)
/-- Does an access match the watched range? -/
def Dbg.watches (d : Dbg) (x : Acc1) : Bool :=
  let len := bits d.wcfg 0 12
  decide (len ≠ 0 ∧ x.addr < d.waddr + len ∧ d.waddr < x.addr + x.n) && (if x.wr then decide (bits d.wcfg 13 1 = 1) else decide (bits d.wcfg 12 1 = 1))
/-- The accesses of a list that hit in one stand, one for each lane: the lane's first, in ascending lanes. -/
def hitsOf (xs : List Acc1) (slot : Nat) : List Acc1 := lanes32.filterMap fun i => xs.find? fun x => decide (x.slot = slot ∧ x.lane = i)
/-- Watch hits of a slot in one stand: WHIT; the threads stop before their next packet and the context under R423, or, with DELIV, they take one watchpoint together after their slot (R359). -/
def State.watchHit (s : State) (sq : Squad) (xs : List Acc1) : State :=
  match xs with
  | [] => s
  | x :: _ =>
    match s.ctx x.ctx with
    | none => s
    | some cx =>
      let key := standKey x.g x.slot
      let s1 := s.onDbg x.ctx fun d => { d with whit := true }
      if cx.dbg.deliv then
        let len : Nat := match decode (sq.ws.drop sq.k) with | some (_, n) => n | none => 1
        let nx := sq.k + len
        s1.take key x.hdl x.launch { cause := 0x32, kind := 0, acc := x.acc, ghost := false, lanes := xs.map fun x => { lane := x.lane, pkt := x.pkt, slot := x.pslot, addr := BitVec.ofNat 64 x.addr, retPc := if 3 ≤ nx then sq.pc + 1 else sq.pc, retSlot := if 3 ≤ nx then 0 else nx } }
      else xs.foldl (fun s x => s.onT key x.hdl x.lane fun t => { t with dbg := .next }) (s1.stopCtx x.ctx)
/-- The count of participants of a core, and a sample of each N-th. -/
def State.sampleOne (s : State) (x : Acc1) : State :=
  match s.ctx x.ctx with
  | none => s
  | some cx =>
    let n := bits cx.dbg.smpctl 0 16
    if n = 0 ∨ x.acc = 6 then s
    else
      let k := (Store.find x.g cx.dbg.smp).getD 0 + 1
      let s1 := s.onDbg x.ctx fun d => { d with smp := Store.put x.g (k % n) d.smp }
      if k < n then s1
      else
        let a : Nat := match s.stand (standKey x.g x.slot) with | some st => ((st.seen x.hdl).rs64 (bits cx.dbg.smpctl 16 6)).toNat | none => 0
        { s1 with samples := s1.samples ++ [{ isReq := x.isReq, id := x.id, g := x.g, lane := x.lane, ctx := x.ctx, launch := x.launch, at_ := a, time := s.now, addr := x.addr, pkt := x.pkt, slot := x.pslot, acc := x.acc }] }
/-- After a slot: watch hits and samples of the accesses it has issued. -/
def State.observeSlot (a b : State) : State :=
  if b.ctxs.all fun c => decide (bits c.2.dbg.wcfg 0 12 = 0 ∧ bits c.2.dbg.smpctl 0 16 = 0) then b
  else
    match a.issue with
    | [] => b
    | sq :: _ =>
      let xs := State.newAccs a b
      let b1 := xs.foldl (fun s x => s.sampleOne x) b
      let hits := xs.filter fun x => match b.ctx x.ctx with | some cx => cx.dbg.watches x | none => false
      (List.range 32).foldl (fun s slot => s.watchHit sq (hitsOf hits slot)) b1

/-- How a sampled access stands: still open, done, or faulted; a: the state before the step. -/
def State.sampleEnd (a b : State) (x : Sample) : Option Bool :=
  if x.isReq then
    let lane (s : State) : Option RLane := (Store.find x.id s.reqs).bind fun r => r.lanes.find? fun l => decide (l.lane = x.lane)
    match lane b with
    | some l => if l.parked.isSome then some true else if l.done then some false else none
    | none => some (match lane a with | some l => l.parked.isSome | none => false)
  else
    let lane (s : State) : Option OLane := (Store.find x.id s.ops).bind fun o => o.lanes.find? fun l => decide (l.lane = x.lane)
    match lane b with
    | some l => if l.fault.isSome then some true else if l.open_ then none else some false
    | none => some (match lane a with | some l => l.fault.isSome | none => false)
/-- One hop entry: its kind, place and queueing time are not known to the model. -/
def hopBytes (k : Nat) : List Byte :=
  toBytes 1 (1 + Config.fresh k % 9) ++ toBytes 1 (Config.fresh (k + 1)) ++ toBytes 2 (Config.fresh (k + 2)) ++ toBytes 4 (Config.fresh (k + 3))
/-- The record of a sampled access. -/
def State.sampleBytes (s : State) (x : Sample) (fault : Bool) : List Byte :=
  let p : Nat × Nat := match s.launch x.launch with
    | some l => (match s.position l x.pkt with | .ok o d => (o, d) | .bad _ => (0, 0))
    | none => (0, 0)
  let hops := Config.fresh s.fresh % 13
  toBytes 8 x.time ++ toBytes 8 x.addr ++ toBytes 4 (p.1 % 2 ^ 24) ++ toBytes 4 (x.slot + 65536 * p.2) ++ toBytes 4 (if fault then 0xFFFFFFFF else s.now - x.time) ++ toBytes 1 hops ++ toBytes 1 x.acc ++ [0, 0]
    ++ (List.range 12).flatMap fun i => if i < hops then hopBytes (s.fresh + 1 + 4 * i) else toBytes 8 0
/-- Write the record with a plain store, or count it as lost. -/
def State.sampleWrite (s : State) (x : Sample) (fault : Bool) : State :=
  let lose (s : State) : State := s.onDbg x.ctx fun d => { d with lost := satAdd16 d.lost 1 }
  if x.at_ % 128 ≠ 0 ∨ (region x.at_ ≠ 0 ∧ region x.at_ ≠ 4) ∨ 2 ^ 56 ≤ x.at_ then lose s
  else match s.vwrite x.ctx x.at_ (s.sampleBytes x fault) with
    | .ok s1 => { s1 with fresh := s1.fresh + 64 }
    | .error _ => lose { s with fresh := s.fresh + 1 }
/-- After every step: the records of sampled accesses that have completed or faulted. -/
def State.observe (a b : State) : State :=
  if b.samples.isEmpty then b
  else
    b.samples.foldl (fun (s : State) x =>
      match State.sampleEnd a b x with
      | none => s
      | some f => ({ s with samples := s.samples.filter fun y => decide (y ≠ x) }).sampleWrite x f) b

end Sys2Proof.Machine
end

