-- ==== Sys2Proof/Machine/Float.lean ====
section
/-! DEFINITION. Floating point, packed, narrow formats and conversion (09). -/
namespace Sys2Proof.Machine

/-- Write one V register, whose shape is U or a narrow one, never A (R199), and raise the sticky flags of the lanes (R184). -/
def Env.f1 (e : Env) (d : Nat) (f : Nat → W × Flags) : Stand × List Raise :=
  ((e.st.wv e.q d .noA fun l => (f l).1).sticky e.bundle ((lanesOf e.q).foldl (fun fl l => fl ||| (f l).2) 0), [])
def Env.f2 (e : Env) (x : RB) (f : W → W → W × Flags) : Stand × List Raise := e.f1 x.d fun l => f (e.st.rv x.a l) (e.st.src x.b l)
def Env.f3 (e : Env) (x : RX) (f : W → W → W → W × Flags) : Stand × List Raise := e.f1 x.d fun l => f (e.st.rv x.a l) (e.st.src x.b l) (e.st.src x.e l)
/-- A predicate and flags. -/
def Env.fp (e : Env) (x : RB) (op : Nat) : Stand × List Raise :=
  let r (l : Nat) : Bool × Flags := fcmp fp32 op (e.st.rv x.a l).toNat (e.st.src x.b l).toNat
  ((e.st.wp e.q x.d fun l => (r l).1).sticky e.bundle ((lanesOf e.q).foldl (fun fl l => fl ||| (r l).2) 0), [])
/-- Write a pair; a 64-bit operation never yields A (R138). -/
def Env.d1 (e : Env) (d : Nat) (f : Nat → DW × Flags) : Stand × List Raise :=
  ((e.st.wv64 e.q d .noA fun l => (f l).1).sticky e.bundle ((lanesOf e.q).foldl (fun fl l => fl ||| (f l).2) 0), [])
def Env.d2 (e : Env) (x : RB) (f : DW → DW → DW × Flags) : Stand × List Raise := e.d1 x.d fun l => f (e.st.rv64 x.a l) (e.st.srcD x.b l)

/-! FP32 (R203 to R205) -/

def execFadd (x : RB) (s : State) : Res := regOp (.fadd x) (fun e => e.f2 x fun a b => w32 (fadd fp32 a.toNat b.toNat)) s
def execFsub (x : RB) (s : State) : Res := regOp (.fsub x) (fun e => e.f2 x fun a b => w32 (fsub fp32 a.toNat b.toNat)) s
def execFmul (x : RB) (s : State) : Res := regOp (.fmul x) (fun e => e.f2 x fun a b => w32 (fmul fp32 a.toNat b.toNat)) s
def execFmin (x : RB) (s : State) : Res := regOp (.fmin x) (fun e => e.f2 x fun a b => w32 (fminmax fp32 false a.toNat b.toNat)) s
def execFmax (x : RB) (s : State) : Res := regOp (.fmax x) (fun e => e.f2 x fun a b => w32 (fminmax fp32 true a.toNat b.toNat)) s
def execFfma (x : RX) (s : State) : Res := regOp (.ffma x) (fun e => e.f3 x fun a b c => w32 (ffma fp32 false false a.toNat b.toNat c.toNat)) s
def execFfms (x : RX) (s : State) : Res := regOp (.ffms x) (fun e => e.f3 x fun a b c => w32 (ffma fp32 false true a.toNat b.toNat c.toNat)) s
def execFnma (x : RX) (s : State) : Res := regOp (.fnma x) (fun e => e.f3 x fun a b c => w32 (ffma fp32 true false a.toNat b.toNat c.toNat)) s
def execFcmpEq (x : RB) (s : State) : Res := regOp (.fcmpEq x) (fun e => e.fp x 0) s
def execFcmpNe (x : RB) (s : State) : Res := regOp (.fcmpNe x) (fun e => e.fp x 1) s
def execFcmpLt (x : RB) (s : State) : Res := regOp (.fcmpLt x) (fun e => e.fp x 2) s
def execFcmpLe (x : RB) (s : State) : Res := regOp (.fcmpLe x) (fun e => e.fp x 3) s
def execFcmpGt (x : RB) (s : State) : Res := regOp (.fcmpGt x) (fun e => e.fp x 4) s
def execFcmpGe (x : RB) (s : State) : Res := regOp (.fcmpGe x) (fun e => e.fp x 5) s
def execFcmpUn (x : RB) (s : State) : Res := regOp (.fcmpUn x) (fun e => e.fp x 6) s
def execFcmpOr (x : RB) (s : State) : Res := regOp (.fcmpOr x) (fun e => e.fp x 7) s

/-! Special functions (R206 to R208) -/

def execFrcp (x : RU) (s : State) : Res := regOp (.frcp x) (fun e => e.f1 x.d fun l => fspec 0 (e.st.rv x.a l)) s
def execFrsq (x : RU) (s : State) : Res := regOp (.frsq x) (fun e => e.f1 x.d fun l => fspec 1 (e.st.rv x.a l)) s
def execFsqrt (x : RU) (s : State) : Res := regOp (.fsqrt x) (fun e => e.f1 x.d fun l => fspec 2 (e.st.rv x.a l)) s
def execFexp2 (x : RU) (s : State) : Res := regOp (.fexp2 x) (fun e => e.f1 x.d fun l => fspec 3 (e.st.rv x.a l)) s
def execFlog2 (x : RU) (s : State) : Res := regOp (.flog2 x) (fun e => e.f1 x.d fun l => fspec 4 (e.st.rv x.a l)) s
def execFsin (x : RU) (s : State) : Res := regOp (.fsin x) (fun e => e.f1 x.d fun l => fspec 5 (e.st.rv x.a l)) s
def execFcos (x : RU) (s : State) : Res := regOp (.fcos x) (fun e => e.f1 x.d fun l => fspec 6 (e.st.rv x.a l)) s
def execFtanh (x : RU) (s : State) : Res := regOp (.ftanh x) (fun e => e.f1 x.d fun l => fspec 7 (e.st.rv x.a l)) s

/-! FP64 (R209) -/

def execDadd (x : RB) (s : State) : Res := regOp (.dadd x) (fun e => e.d2 x fun a b => w64 (fadd fp64 a.toNat b.toNat)) s
def execDmul (x : RB) (s : State) : Res := regOp (.dmul x) (fun e => e.d2 x fun a b => w64 (fmul fp64 a.toNat b.toNat)) s
def execDmin (x : RB) (s : State) : Res := regOp (.dmin x) (fun e => e.d2 x fun a b => w64 (fminmax fp64 false a.toNat b.toNat)) s
def execDmax (x : RB) (s : State) : Res := regOp (.dmax x) (fun e => e.d2 x fun a b => w64 (fminmax fp64 true a.toNat b.toNat)) s
def execDfma (x : RX) (s : State) : Res := regOp (.dfma x) (fun e => e.d1 x.d fun l => w64 (ffma fp64 false false (e.st.rv64 x.a l).toNat (e.st.srcD x.b l).toNat (e.st.srcD x.e l).toNat)) s

/-! Packed FP16 and BF16 (R210, R211) -/

def execHadd2 (x : RB) (s : State) : Res := regOp (.hadd2 x) (fun e => e.f2 x fun a b => packed fun i => fadd fp16 (half a i) (half b i)) s
def execHmul2 (x : RB) (s : State) : Res := regOp (.hmul2 x) (fun e => e.f2 x fun a b => packed fun i => fmul fp16 (half a i) (half b i)) s
def execHfma2 (x : RX) (s : State) : Res := regOp (.hfma2 x) (fun e => e.f3 x fun a b c => packed fun i => ffma fp16 false false (half a i) (half b i) (half c i)) s
def execBadd2 (x : RB) (s : State) : Res := regOp (.badd2 x) (fun e => e.f2 x fun a b => packed fun i => fadd bf16 (half a i) (half b i)) s
def execBmul2 (x : RB) (s : State) : Res := regOp (.bmul2 x) (fun e => e.f2 x fun a b => packed fun i => fmul bf16 (half a i) (half b i)) s
def execBfma2 (x : RX) (s : State) : Res := regOp (.bfma2 x) (fun e => e.f3 x fun a b c => packed fun i => ffma bf16 false false (half a i) (half b i) (half c i)) s
def execHmin2 (x : RB) (s : State) : Res := regOp (.hmin2 x) (fun e => e.f2 x fun a b => packed fun i => fminmax fp16 false (half a i) (half b i)) s
def execHmax2 (x : RB) (s : State) : Res := regOp (.hmax2 x) (fun e => e.f2 x fun a b => packed fun i => fminmax fp16 true (half a i) (half b i)) s
def execBdot2 (x : RB) (s : State) : Res := regOp (.bdot2 x) (fun e => e.f1 x.d fun l => bdot2 (e.st.rv x.a l) (e.st.src x.b l) (e.st.rv x.d l)) s

/-! Conversion (R212, R213) -/

/-- CVT reads the low bits of V[A], or the pair for FP64, and writes V[D] or the pair. -/
def execCvt (x : RCvt) (s : State) : Res :=
  regOp (.cvt x) (fun e =>
    let src (l : Nat) : Nat := if x.sf = 3 then (e.st.rv64 x.a l).toNat else (e.st.rv x.a l).toNat % 2 ^ fmtBits x.sf
    let r (l : Nat) : Nat × Flags := convert x.sf x.df (rndOf x.rnd) (src l)
    if x.df = 3 then e.d1 x.d fun l => w64 (r l)
    else if x.df = 6 ∨ x.df = 7 then e.f1 x.d fun l => (w32i (sx (r l).1 (fmtBits x.df)), (r l).2)
    else e.f1 x.d fun l => w32 (r l)) s

/-! Narrow formats (R214 to R216) -/

/-- A selector beyond a bound raises operand-range. -/
def Env.selCause (e : Env) (b : Src) (ok : Nat → Bool) (l : Nat) : Option Nat := if ok (e.st.src b l).toNat then none else some 0x04
/-- A narrow form: the lanes whose selector is good take a value and flags. -/
def Env.narrow (e : Env) (x : RB) (ok : Nat → Bool) (f : Nat → W × Flags) : Stand × List Raise :=
  let j := e.judge (e.selCause x.b ok)
  if j.1 = 0 then (e.st, j.2)
  else ((e.st.wv j.1 x.d .noA fun l => (f l).1).sticky e.bundle ((lanesOf j.1).foldl (fun fl l => fl ||| (f l).2) 0), j.2)
def Env.sel (e : Env) (x : RB) (l : Nat) : Nat := (e.st.src x.b l).toNat
/-- Element j of n bits as an FP32 value. -/
def unpack (fmt : Nat) (a : W) (j n : Nat) : W := BitVec.ofNat 32 (roundF 0 .rne (valF fmt (bits a.toNat (n * j) n))).1
def execT8unpk (x : RB) (s : State) : Res :=
  regOp (.t8unpk x) (fun e => e.narrow x (fun n => decide (n < 4)) fun l => (unpack 4 (e.st.rv x.a l) (e.sel x l) 8, 0)) s
def execT6unpk (x : RB) (s : State) : Res :=
  regOp (.t6unpk x) (fun e => e.narrow x (fun n => decide (n < 4)) fun l => (unpack 5 (e.st.rv x.a l) (e.sel x l) 6, 0)) s
def execI4unpk (x : RB) (s : State) : Res :=
  regOp (.i4unpk x) (fun e => e.narrow x (fun n => decide (n < 32)) fun l =>
    let n := e.sel x l
    let f := if bits n 3 1 = 1 then 10 else 7
    let b := bits (e.st.rv x.a l).toNat (4 * (n % 8)) 4
    (if bits n 4 1 = 1 then (if f = 10 then BitVec.ofNat 32 b else w32i (sx b 4)) else unpack f (e.st.rv x.a l) (n % 8) 4, 0)) s
/-- Legal selectors of NPK. -/
def npkOk (n : Nat) : Bool :=
  let nf := bits n 0 4
  decide (n < 4096 ∧ bits n 7 1 = 0 ∧ bits n 4 3 < 5 ∧ (nf = 4 ∨ nf = 5 ∨ nf = 6 ∨ nf = 7 ∨ nf = 9 ∨ nf = 10) ∧ bits n 8 4 < (if nf = 7 ∨ nf = 10 then 8 else 4))
/-- Insert n bits at element j. -/
def insertAt (old : W) (n j r : Nat) : W :=
  let m : W := BitVec.ofNat 32 ((2 ^ n - 1) * 2 ^ (n * j))
  (old &&& ~~~m) ||| (BitVec.ofNat 32 (r % 2 ^ n * 2 ^ (n * j)))
def execNpk (x : RB) (s : State) : Res :=
  regOp (.npk x) (fun e => e.narrow x npkOk fun l =>
    let n := e.sel x l
    let r := convert 0 (bits n 0 4) (rndOf (bits n 4 3)) (e.st.rv x.a l).toNat
    (insertAt (e.st.rv x.d l) (fmtBits (bits n 0 4)) (bits n 8 4) r.1, r.2)) s

end Sys2Proof.Machine
end

