-- ==== Sys2Proof/Machine/Host.lean ====
section
/-! DEFINITION. Accesses of the host and of peer chips, the register maps of BAR 0, errors, firmware, power and heat (02 R59 to R61; 14 R325; 19 R409, R415; 20 R431 to R437). -/
namespace Sys2Proof.Machine

/-! Device memory (R325) -/

/-- HOST_WRITE: performed at its home slice. -/
def execHostWrite (pa : Nat) (bytes : List Byte) (s : State) : Res :=
  if devEnd < pa + bytes.length then .next s else .next (s.physWrite pa (bytes.length + 1) bytes)
/-- HOST_READ: the bytes at their home; a poisoned line makes the answer poisoned (R431). -/
def execHostRead (pa n : Nat) (s : State) : Res :=
  if n = 0 ∨ devEnd < pa + n then .next s
  else .next { s with outbox := s.outbox ++ [.hostData (memRead s.mem pa n) (s.poison.any fun l => decide (pa / 128 ≤ l ∧ l ≤ (pa + n - 1) / 128))] }
/-- What a peer's atomic is here: by major and OP. -/
def peerKind (m : Nat) : Option ReqKind :=
  let op := m % 8
  if m / 8 = 0x30 then some (if op = 7 then .cas 32 else .atom op 32)
  else if m / 8 = 0x31 then some (if op = 7 then .cas 64 else .atom op 64)
  else if m / 8 = 0x33 then some (.atomF op)
  else if m / 8 = 0x35 then some (.red op)
  else if m / 8 = 0x34 then some .chunk
  else none
/-- Bytes an access of a peer touches. -/
def peerSize (r : PeerReq) : Nat :=
  match r.write, r.atom with
  | some b, _ => b.length
  | none, some (m, d, _) => ((peerKind m).map fun k => max (k.width d.length) d.length).getD 0
  | none, none => r.n
/-- PEER_ACCESS (R219, R325, R409): an access of one line in the context of the same number; an absent context, or a landing fault, answers with an error. -/
def execPeerAccess (r : PeerReq) (s : State) : Res :=
  let x := r.off % 2 ^ 45
  let answer (s : State) (a : List Nat) : State := { s with outbox := s.outbox ++ [.flit r.chip 20 a] }
  let s1 : State := { s with fresh := s.fresh + 1 }
  if (s.ctx r.ctx).isNone then .next (answer s [1, 0x15])
  else if s.resetting (s.partOf r.ctx) then .next (answer s [1, 0x1D])
  else if 128 < x % 128 + peerSize r then .next (answer s [1, 0x10])
  else
    match r.write, r.atom with
    | some b, _ =>
      (match s.land r.ctx x true needWr with
        | .error e => .next (answer s1 [1, e])
        | .ok h => .next (answer (((s1.landed r.ctx x h).homeWrite h x 0 b).writePoison h (decide (b.length = 128)) false) [0]))
    | none, some (m, d, new) =>
      (match peerKind m with
        | none => .next (answer s [1, 0x04])
        | some k =>
          match s.landUse r.ctx x true k.need with
          | .error e => .next (answer s1 [1, e])
          | .ok h =>
            let res := laneOp k (s.peekN h.sp h.pa (k.width d.length)) (rlane 0 x d new)
            let s2 := s1.landed r.ctx x h
            .next (answer (match res.1 with | some b => s2.homeWrite h x 0 b | none => s2) (0 :: res.2.map (·.toNat))))
    | none, none =>
      (match s.landUse r.ctx x true needRd with
        | .error e => .next (answer s1 [1, e])
        | .ok h => .next (answer (s1.landed r.ctx x h) (0 :: (s.peekN h.sp h.pa r.n).map (·.toNat))))

/-! Register maps (R7). Offsets within BAR 0; function 32 stands for the cruiser, which writes in the physical function's space. -/

/-- Replace the low or the high word of a 64-bit register. -/
def setLo (x : Nat) (v : W) : Nat := x / 2 ^ 32 * 2 ^ 32 + v.toNat
def setHi (x : Nat) (v : W) : Nat := x % 2 ^ 32 + v.toNat * 2 ^ 32
def loW (x : Nat) : W := BitVec.ofNat 32 x
def hiW (x : Nat) : W := BitVec.ofNat 32 (x / 2 ^ 32)
def fbit (b : Bool) (n : Nat) : Nat := if b then 2 ^ n else 0
def wbit (v : W) (n : Nat) : Bool := decide (bits v.toNat n 1 = 1)
def State.setFn (s : State) (f : Nat) (g : Fn → Fn) : State := { s with fns := Store.put f (g (s.fn f)) s.fns }
def State.onRegs (s : State) (f : PfRegs → PfRegs) : State := { s with regs := f s.regs }
/-- A register write has its effect before the next one (R38, R60): its step comes before what waits. Of several, the last one named comes first. -/
def State.nowIf (s : State) (b : Bool) (e : Ev) : State := if b then s.postFirst e else s

/-- The queue block (R59, R60). HQ_QHWB is 4-byte aligned: its low two bits are dropped as written (log 113). -/
def State.writeQueue (s : State) (fn q r : Nat) (v : W) : State :=
  match s.queueBy fn q with
  | none => s
  | some dq =>
    let x := s.queue dq
    let n := v.toNat
    let keep (f : Queue → Queue) : State := if x.en then s else s.onQueue dq f
    if s.queueShut x then s
    else if r = 0x00 then keep fun q => { q with base := setLo q.base v }
    else if r = 0x04 then keep fun q => { q with base := setHi q.base v }
    else if r = 0x08 then keep fun q => { q with log2 := bits n 0 5, ctx := bits n 5 8, prio := bits n 13 2, devdb := wbit v 15 }
    else if r = 0x0C then
      let s1 := (s.nowIf (wbit v 3) (.headWritebackRetry fn q)).nowIf (wbit v 1) (if wbit v 2 then .queueRestartSkip fn q else .queueRestart fn q)
      (s1.nowIf (!(wbit v 0) && x.en) (.queueDisable fn q)).nowIf (wbit v 0 && !x.en) (.queueEnable fn q)
    else if r = 0x10 then keep fun q => { q with hwb := setLo q.hwb v / 4 * 4 }
    else if r = 0x14 then keep fun q => { q with hwb := setHi q.hwb v }
    else if r = 0x18 then s.postFirst (.qtailWrite fn q v)
    else if r = 0x20 then s.onQueue dq fun q => { q with stale := bits n 16 16 }
    else if r = 0x28 then s.onQueue dq fun q => { q with rto := n }
    else s
/-- HQ_QSTAT.INFL. -/
def State.infl (s : State) (dq : Nat) : Nat := (s.launches.filter fun l => decide (l.2.queue = some dq ∧ l.2.parent = none) && l.2.started).length
def State.readQueue (s : State) (fn q r : Nat) : W :=
  match s.queueBy fn q with
  | none => 0
  | some dq =>
    let x := s.queue dq
    if s.queueShut x then 0
    else if r = 0x00 then loW x.base
    else if r = 0x04 then hiW x.base
    else if r = 0x08 then loW (x.log2 + 32 * x.ctx + 2 ^ 13 * x.prio + fbit x.devdb 15)
    else if r = 0x0C then loW (fbit x.en 0)
    else if r = 0x10 then loW x.hwb
    else if r = 0x14 then hiW x.hwb
    else if r = 0x18 then loW x.tl
    else if r = 0x1C then loW x.h
    else if r = 0x20 then loW (x.err + fbit x.stop 4 + fbit x.hwbf 5 + 256 * min 16 (s.infl dq) + 65536 * x.stale)
    else if r = 0x24 then loW x.gen
    else if r = 0x28 then loW x.rto
    else if r = 0x2C then loW x.node
    else 0

/-- The context commands (R58, R61). -/
def State.writeCtx (s : State) (fn r : Nat) (v : W) : State :=
  let f := s.fn fn
  if r = 0 then s.setFn fn fun f => { f with ctxAddr := setLo f.ctxAddr v }
  else if r = 4 then s.setFn fn fun f => { f with ctxAddr := setHi f.ctxAddr v }
  else if r = 8 ∧ f.ctxBusy = false then
    let c := bits v.toNat 0 8
    let op := bits v.toNat 8 2
    let s1 := s.setFn fn fun f => { f with ctxCmd := loW (bits v.toNat 0 10), ctxBusy := wbit v 31 }
    let e : Ev := if op = 1 then .ctxCreate fn c else if op = 2 then .ctxReload fn c else if op = 3 then .ctxDestroy fn c else .ctxCmdNone fn c
    if wbit v 31 then (s1.post (.ctxCommandDone fn)).postFirst e else s1
  else s
/-- The report ring (R402). -/
def State.writeRing (s : State) (fn r : Nat) (v : W) : State :=
  let f := s.fn fn
  if r = 0 then (if f.rrEn then s else s.setFn fn fun f => { f with rrBase := setLo f.rrBase v })
  else if r = 4 then (if f.rrEn then s else s.setFn fn fun f => { f with rrBase := setHi f.rrBase v })
  else if r = 8 then
    let s1 := if f.rrEn then s else s.setFn fn fun f => { f with rrLog2 := bits v.toNat 0 5 }
    if wbit v 5 then s1.nowIf (!f.rrEn) (.reportRingEnable fn) else s1.setFn fn fun f => { f with rrEn := false }
  else if r = 0xC then s.setFn fn fun f => { f with rrHead := v.toNat }
  else if r = 0x14 then (if bits v.toNat 0 16 ≠ 0 then s.setFn fn fun f => { f with rrDropped := 0 } else s)
  else s
/-- Invalidation (R234). -/
def State.writeInv (s : State) (fn r : Nat) (v : W) : State :=
  let f := s.fn fn
  if r = 0 then s.setFn fn fun f => { f with invAddr := setLo f.invAddr v }
  else if r = 4 then s.setFn fn fun f => { f with invAddr := setHi f.invAddr v }
  else if r = 8 ∧ f.invBusy = false then
    let s1 := s.setFn fn fun f => { f with invCmd := loW (bits v.toNat 0 18) }
    let op := bits v.toNat 16 2
    if !(wbit v 31) ∨ op = 0 then s1
    else s1.postFirst (if op = 1 then .invalidatePage fn else if op = 2 then .invalidateTag fn else .invalidateFunction fn)
  else if r = 0xC then (if wbit v 1 then s.setFn fn fun f => { f with invRefused := false } else s)
  else s
/-- The beat loop's block (R94 to R96). -/
def State.writeBt (s : State) (fn c r : Nat) (v : W) : State :=
  if r = 0x04 then s.postFirst (.intervalWrite fn c v)
  else if r = 0x14 ∧ bits v.toNat 0 2 ≠ 0 then (s.nowIf (wbit v 0) (.loopSave fn c)).nowIf (wbit v 1) (.loopClear fn c)
  else s.postFirst (.btFieldWrite fn c r v)
def State.readBt (s : State) (fn c r : Nat) : W :=
  if s.btOwn fn c = false then 0
  else match s.ctx c with
    | none => 0
    | some cx =>
      let l := cx.loop
      let p (k : Nat) : Nat := l.pos.getD k 0
      loW (if r = 0x00 then l.target + fbit l.ontime 16
        else if r = 0x04 then (match l.newInt with | some (n, _) => n | none => l.interval)
        else if r = 0x08 then l.kp + 65536 * l.ki
        else if r = 0x0C then l.ilim + 65536 * l.smax
        else if r = 0x10 then l.mFirst + 128 * l.mN + fbit l.mEn 15
        else if r = 0x18 then l.cur % 8 + fbit l.starved 3 + fbit l.satup 4 + fbit l.satdn 5 + fbit l.miss 6 + fbit l.idle 7 + fbit l.clkok 8 + fbit l.shed 9 + fbit l.refused 10 + fbit l.busy 11
        else if r = 0x1C then toPat l.intg 32
        else if r = 0x20 then l.mlast
        else if r = 0x24 then toPat l.elast 16 + 65536 * toPat l.ulast 8
        else if r = 0x28 then p 0 + 65536 * p 1
        else if r = 0x2C then p 2 + 65536 * p 3
        else if r = 0x30 then p 4
        else if r = 0x34 then l.bcnt
        else if r = 0x38 then l.laten
        else if r = 0x3C then l.starvn
        else 0)
def State.readAct (s : State) (fn c k : Nat) : W :=
  if s.btOwn fn c = false then 0
  else match s.ctx c with
    | some cx => (match cx.loop.act[k]? with | some (lo, hi) => loW (lo + 65536 * hi) | none => 0)
    | none => 0
/-- The debug block of a context (R424). -/
def State.writeDbg (s : State) (c r : Nat) (v : W) : State :=
  if s.armedFor c = false then s.dbgRefuse c
  else
    let d (f : Dbg → Dbg) : State := s.onDbg c f
    let n := v.toNat
    if r = 0x00 then (((d fun d => { d with deliv := wbit v 3 }).nowIf (wbit v 2) (.debugStep c)).nowIf (wbit v 1) (.debugRun c)).nowIf (wbit v 0) (.debugStop c)
    else if r = 0x04 then d fun d => { d with hit := d.hit &&& (15 - bits n 5 4), whit := d.whit && !(wbit v 9) }
    else if 0x08 ≤ r ∧ r < 0x18 then d fun d => { d with bp := d.bp.set ((r - 8) / 4) (bits n 0 24, wbit v 31) }
    else if r = 0x18 then d fun d => { d with waddr := setLo d.waddr v }
    else if r = 0x1C then d fun d => { d with waddr := setHi d.waddr v }
    else if r = 0x20 then d fun d => { d with wcfg := bits n 0 14 }
    else if r = 0x24 then
      let data : W := ((s.ctx c).map (·.dbg.rdata)).getD 0
      (d fun d => { d with rsel := loW (bits n 0 31) }).nowIf (wbit v 31) (if wbit v 29 then .debugRegWrite c data else .debugRegRead c)
    else if r = 0x28 then d fun d => { d with rdata := v }
    else if r = 0x2C then d fun d => { d with drainto := n }
    else if r = 0x30 then d fun d => { d with smpctl := bits n 0 22 }
    else if r = 0x34 then d fun d => { d with lost := d.lost &&& (0xFFFF - bits n 0 16) }
    else s
def State.readDbg (s : State) (c r : Nat) : W :=
  let d : Dbg := ((s.ctx c).map (·.dbg)).getD Dbg.off
  if r = 0x00 then loW (fbit d.deliv 3)
  else if r = 0x04 then loW (fbit (s.stopped c) 0 + fbit d.pend.isSome 1 + 4 * d.res + 32 * (d.hit % 16) + fbit d.whit 9)
  else if 0x08 ≤ r ∧ r < 0x18 then (match d.bp[(r - 8) / 4]? with | some (o, e) => loW (o + fbit e 31) | none => 0)
  else if r = 0x18 then loW d.waddr
  else if r = 0x1C then hiW d.waddr
  else if r = 0x20 then loW d.wcfg
  else if r = 0x24 then d.rsel
  else if r = 0x28 then d.rdata
  else if r = 0x2C then loW d.drainto
  else if r = 0x30 then loW d.smpctl
  else if r = 0x34 then loW d.lost
  else 0

/-- Registers of the debug, trace and counter blocks (R426 to R429), 0x68000 to 0x6FFFF. -/
def State.writeTrace (s : State) (off : Nat) (v : W) : State :=
  let n := v.toNat
  if off = 0x68000 then s.nowIf (wbit v 0) .freeze
  else if off = 0x68100 then s.onRegs fun r => { r with trBase := setLo r.trBase v / 4096 * 4096 }
  else if off = 0x68104 then s.onRegs fun r => { r with trBase := setHi r.trBase v }
  else if off = 0x68108 then s.onRegs fun r => { r with trCtl := loW (bits n 0 27) }
  else if 0x69000 ≤ off ∧ off < 0x69080 then s.postFirst (.debugArm ((off - 0x69000) / 4) v)
  else if 0x6A000 ≤ off ∧ off < 0x70000 then
    let g := (off - 0x6A000) / 64
    let r := (off - 0x6A000) % 64
    if r = 0 then s.onRegs fun x => { x with pmSel := Store.put g v x.pmSel }
    else if r = 4 then s.onRegs fun x => { x with pmFlt := Store.put g (loW (bits n 0 9)) x.pmFlt }
    else if 8 ≤ r ∧ r < 40 then
      let k := 4 * g + (r - 8) / 8
      s.onRegs fun x => let old := (Store.find k x.pmc).getD 0; { x with pmc := Store.put k (if r % 8 = 0 then setLo old v else setHi old v) x.pmc }
    else s
  else s
def State.readTrace (s : State) (off : Nat) : W :=
  let x := s.regs
  if off = 0x68100 then loW x.trBase
  else if off = 0x68104 then hiW x.trBase
  else if off = 0x68108 then x.trCtl
  else if off = 0x68110 then loW x.trTail
  else if 0x69000 ≤ off ∧ off < 0x69080 then loW (fbit (s.part ((off - 0x69000) / 4)).armed 31)
  else if 0x6A000 ≤ off ∧ off < 0x70000 then
    let g := (off - 0x6A000) / 64
    let r := (off - 0x6A000) % 64
    if r = 0 then (Store.find g x.pmSel).getD 0
    else if r = 4 then (Store.find g x.pmFlt).getD 0
    else if 8 ≤ r ∧ r < 40 then
      let c := (Store.find (4 * g + (r - 8) / 8) x.pmc).getD 0
      if r % 8 = 0 then loW c else hiW c
    else 0
  else 0
/-- The checkpoint's registers (R420). -/
def State.writeCk (s : State) (off : Nat) (v : W) : State :=
  if off < 0x70020 then
    let d := (off - 0x70000) / 8
    s.onRegs fun r => let old := (Store.find d r.ckDst).getD 0; { r with ckDst := Store.put d (if off % 8 = 0 then setLo old v else setHi old v) r.ckDst }
  else if off = 0x70020 then
    if wbit v 0 then s.postFirst (if wbit v 1 then .checkpointRestore v else .checkpointSave v)
    else s.onRegs fun r => { r with ckCtl := loW (bits v.toNat 1 2 * 2) }
  else s
def State.readCk (s : State) (off : Nat) : W :=
  let x := s.regs
  if off < 0x70020 then (let d := (Store.find ((off - 0x70000) / 8) x.ckDst).getD 0; if off % 8 = 0 then loW d else hiW d)
  else if off = 0x70020 then x.ckCtl
  else if off = 0x70024 then loW (fbit x.ckBusy 0 + 2 * x.ckResult)
  else if off = 0x70028 then loW (if x.ckBusy then Config.pick s.fresh % 786433 else x.ckMib)
  else 0
/-- Links and routes (R416). -/
def State.writeLink (s : State) (off : Nat) (v : W) : State :=
  let n := v.toNat
  if off = 0x80000 then (if s.ctxs.isEmpty then { s with pkg := { s.pkg with chip := bits n 0 7 } } else s)
  else if 0x80040 ≤ off ∧ off < 0x80080 then
    let k := (off - 0x80040) / 4
    if bits n 16 16 = 0 then s else { s with pkg := { s.pkg with links := Store.adjust k (fun l => (l.1, l.2.1, 0)) s.pkg.links } }
  else if 0x80400 ≤ off ∧ off < 0x80600 then { s with pkg := { s.pkg with routes := Store.put ((off - 0x80400) / 4) (loW (bits n 0 17)) s.pkg.routes } }.cutFail
  else s
def State.readLink (s : State) (off : Nat) : W :=
  if off = 0x80000 then loW s.pkg.chip
  else if 0x80040 ≤ off ∧ off < 0x80080 then
    (match Store.find ((off - 0x80040) / 4) s.pkg.links with
      | some (up, lanes, rep) => loW (fbit up 0 + 2 * lanes + 65536 * min rep 0xFFFF)
      | none => 0)
  else if 0x80400 ≤ off ∧ off < 0x80600 then (Store.find ((off - 0x80400) / 4) s.pkg.routes).getD 0
  else 0
/-- The Umpire and the calendar (R70, R97). cr: written by the cruiser, whose lowering of the supply sets entry 0x548 (R435). -/
def State.writeUmp (s : State) (cr : Bool) (off : Nat) (v : W) : State :=
  let n := v.toNat
  if off = 0xB0000 then s.onRegs fun r => { r with umpRun := wbit v 0 }
  else if off = 0xB0004 then
    let s1 := s.onRegs fun r => { r with clkSup := bits n 0 16 }
    if cr && decide (bits n 0 16 < s.regs.clkSup) then s1.ras 8 0 [] else s1
  else if 0xD0000 ≤ off ∧ off < 0xD0400 then s.onRegs fun r => { r with calOwn := Store.put ((off - 0xD0000) / 4) (bits n 0 9) r.calOwn }
  else s
def State.readUmp (s : State) (off : Nat) : W :=
  let x := s.regs
  if off = 0xB0000 then loW (fbit x.umpRun 0)
  else if off = 0xB0004 then loW x.clkSup
  else if off = 0xB0008 then loW s.clockUse
  else if off = 0xB000C then loW (fbit x.overcommit 0 + fbit x.latMiss 1)
  else if off = 0xB0010 then loW x.rounds
  else if 0xD0000 ≤ off ∧ off < 0xD0400 then loW ((Store.find ((off - 0xD0000) / 4) x.calOwn).getD 0)
  else if off = 0xD0400 then loW x.c2cap
  else 0
/-- Partitions, resets and guest time (R63, R375, R407, R408, R412), 0xE0000 to 0xE11FF. -/
def State.writePart (s : State) (off : Nat) (v : W) : State :=
  let n := v.toNat
  if off < 0xE0400 then s.postFirst (.partitionWrite ((off - 0xE0000) / 32) ((off - 0xE0000) % 32) v)
  else if off < 0xE0480 then
    let p := (off - 0xE0400) / 4
    if s.ctxs.any fun c => decide (c.2.part = p) then s.partRefuse p else s.setPart p { s.part p with fn := bits n 0 5 }
  else if 0xE0800 ≤ off ∧ off < 0xE0880 then s.setPart ((off - 0xE0800) / 4) { s.part ((off - 0xE0800) / 4) with slice := n }
  else if off = 0xE0C00 then s.postFirst (.partitionReset v)
  else if off = 0xE0C04 then s.onRegs fun r => { r with rstto := n }
  else if 0xE1000 ≤ off ∧ off < 0xE1200 then
    let f := (off - 0xE1000) / 16
    let r := (off - 0xE1000) % 16
    if r = 0 then s.setFn f fun x => { x with gOfs := setLo x.gOfs v }
    else if r = 4 then s.setFn f fun x => { x with gOfs := setHi x.gOfs v }
    else if r = 8 then s.setFn f fun x => { x with gMul := n }
    else s.nowIf (wbit v 0) (.guestTimeApply f)
  else s
def State.readPart (s : State) (off : Nat) : W :=
  if off < 0xE0400 then
    let x := s.part ((off - 0xE0000) / 32)
    let r := (off - 0xE0000) % 32
    if r < 12 then loW (bits x.clu (8 * r) 32)
    else if r = 12 then loW (x.l2ways + 32 * x.dshare + fbit x.lend 9 + fbit x.borrow 10)
    else if r = 16 then loW (fbit x.refused 0)
    else 0
  else if off < 0xE0480 then loW (s.part ((off - 0xE0400) / 4)).fn
  else if 0xE0800 ≤ off ∧ off < 0xE0880 then loW (s.part ((off - 0xE0800) / 4)).slice
  else if off = 0xE0C00 then loW (s.regs.prst + fbit s.resetBusy 30)
  else if off = 0xE0C04 then loW s.regs.rstto
  else if 0xE1000 ≤ off ∧ off < 0xE1200 then
    let x := s.fn ((off - 0xE1000) / 16)
    let r := (off - 0xE1000) % 16
    if r = 0 then loW x.gOfs else if r = 4 then hiW x.gOfs else if r = 8 then loW x.gMul else 0
  else 0

/-- Does a function's BAR 0 answer: READY, and the function is the physical one, the cruiser, or an enabled virtual one? -/
def State.barOn (s : State) (fn : Nat) : Bool := s.pkg.ready && (decide (fn = 0 ∨ fn = 32) || s.vfOn fn)
/-- A 32-bit write to BAR 0. One at an offset that is no multiple of 4 writes nothing, and reads 0 (log 113). -/
def State.writeReg (s : State) (who off : Nat) (v : W) : State :=
  let fn := if who = 32 then 0 else who
  if !(s.barOn who) ∨ off % 4 ≠ 0 then s
  else if 0x100000 ≤ off ∧ off < 0x108000 then s.writeQueue fn ((off - 0x100000) / 64) (off % 64) v
  else if 0xF0000 ≤ off ∧ off < 0xF0010 then s.writeCtx fn (off - 0xF0000) v
  else if 0xF0100 ≤ off ∧ off < 0xF0118 then s.writeRing fn (off - 0xF0100) v
  else if 0xA0000 ≤ off ∧ off < 0xA0010 then s.writeInv fn (off - 0xA0000) v
  else if 0xC0000 ≤ off ∧ off < 0xC4000 then s.writeBt fn ((off - 0xC0000) / 64) (off % 64) v
  else if 0xC4000 ≤ off ∧ off < 0xC6000 then s.postFirst (.actuatorLimitWrite fn ((off - 0xC4000) / 32) (off % 32 / 4 + 1) v)
  else if fn ≠ 0 then s
  else if 0x60000 ≤ off ∧ off < 0x64000 then s.writeDbg ((off - 0x60000) / 64) (off % 64) v
  else if 0x68000 ≤ off ∧ off < 0x70000 then s.writeTrace off v
  else if 0x70000 ≤ off ∧ off < 0x70030 then s.writeCk off v
  else if 0x80000 ≤ off ∧ off < 0x80600 then s.writeLink off v
  else if 0x90000 ≤ off ∧ off < 0x94000 then s.postFirst (.causeEntryClear ((off - 0x90000) / 4) v)
  else if off = 0x94010 then s.postFirst (.vfInterruptInject v)
  else if (0xB0000 ≤ off ∧ off < 0xB0014) ∨ (0xD0000 ≤ off ∧ off < 0xD0404) then s.writeUmp (decide (who = 32)) off v
  else if 0xE0000 ≤ off ∧ off < 0xE1200 then s.writePart off v
  else s
/-- A cause-table entry as read (R404). -/
def CauseEnt.word (e : CauseEnt) : W := loW (fbit e.pend 0 + fbit e.mask 1 + fbit e.again 2 + 8 * e.part + 256 * e.ctx + 65536 * e.fn)
/-- A 32-bit read of BAR 0; at an offset that is no multiple of 4 it reads 0 (log 113). -/
def State.readReg (s : State) (who off : Nat) : W :=
  let fn := if who = 32 then 0 else who
  let f := s.fn fn
  if !(s.barOn who) ∨ off % 4 ≠ 0 then 0
  else if 0x100000 ≤ off ∧ off < 0x108000 then s.readQueue fn ((off - 0x100000) / 64) (off % 64)
  else if off = 0xF0000 then loW f.ctxAddr
  else if off = 0xF0004 then hiW f.ctxAddr
  else if off = 0xF0008 then f.ctxCmd
  else if off = 0xF000C then loW (fbit f.ctxBusy 0 + 16 * f.ctxResult)
  else if off = 0xF0100 then loW f.rrBase
  else if off = 0xF0104 then hiW f.rrBase
  else if off = 0xF0108 then loW (f.rrLog2 + fbit f.rrEn 5)
  else if off = 0xF010C then loW f.rrHead
  else if off = 0xF0110 then loW f.rrTail
  else if off = 0xF0114 then loW f.rrDropped
  else if 0xF0200 ≤ off ∧ off < 0xF0210 then loW (bits capMask (8 * (off - 0xF0200)) 32)
  else if off = 0xA0000 then loW f.invAddr
  else if off = 0xA0004 then hiW f.invAddr
  else if off = 0xA0008 then f.invCmd
  else if off = 0xA000C then loW (fbit f.invBusy 0 + fbit f.invRefused 1)
  else if 0xC0000 ≤ off ∧ off < 0xC4000 then s.readBt fn ((off - 0xC0000) / 64) (off % 64)
  else if 0xC4000 ≤ off ∧ off < 0xC6000 then s.readAct fn ((off - 0xC4000) / 32) (off % 32 / 4)
  else if fn ≠ 0 then 0
  else if off = 0x40000 then loW (fbit s.pkg.ready 0 + fbit s.pkg.fwok 1 + 256 * (s.pkg.svn % 256))
  else if 0x60000 ≤ off ∧ off < 0x64000 then s.readDbg ((off - 0x60000) / 64) (off % 64)
  else if 0x68000 ≤ off ∧ off < 0x70000 then s.readTrace off
  else if 0x70000 ≤ off ∧ off < 0x70030 then s.readCk off
  else if 0x80000 ≤ off ∧ off < 0x80600 then s.readLink off
  else if 0x90000 ≤ off ∧ off < 0x94000 then (s.causeEnt ((off - 0x90000) / 4)).word
  else if off = 0x94000 then loW (((List.range 32).map fun g => fbit (s.csum g) g).foldl (· + ·) 0)
  else if off = 0x94004 then loW (((List.range 32).map fun g => fbit (s.csum (g + 32)) g).foldl (· + ·) 0)
  else if (0xB0000 ≤ off ∧ off < 0xB0014) ∨ (0xD0000 ≤ off ∧ off < 0xD0404) then s.readUmp off
  else if 0xE0000 ≤ off ∧ off < 0xE1200 then s.readPart off
  else 0
/-- REGISTER_WRITE: a write to a register; one that has a row of its own is posted as that step. -/
def execRegisterWrite (fn off : Nat) (v : W) (s : State) : Res := .next (s.writeReg fn off v)

/-! Errors and fences (R431, R432) -/

/-- ECC_CORRECTED: corrected in place and counted; whether the count crosses a threshold is open. -/
def execEccCorrected (s : State) : Res :=
  let s1 : State := { s with fresh := s.fresh + 2, pkg := { s.pkg with ecc := s.pkg.ecc + 1 } }
  .next (if Config.fresh s.fresh % 2 = 0 then s1 else s1.ras 1 (Config.fresh (s.fresh + 1) % 2 ^ 32) [])
/-- The squad in which a thread executes. -/
def State.squadOf (s : State) (key : Nat) (hdl : Bool) (lane : Nat) : Option Squad :=
  s.issue.find? fun q => decide (q.g = gOf key ∧ q.hdl = hdl) && q.mem.any fun m => decide (m.1 = slotOf key) && inMask m.2 lane
/-- Does a thread use the network interface: it executes a SEND, TREE or TREEW, or waits in a TREEW (R356)? -/
def usesNetwork (q : Option Squad) (t : Thread) : Bool :=
  match q with
  | none => decide (t.st = .parked .treew)
  | some q => match decode (q.ws.drop q.k) with
    | some (.send _, _) => true
    | some (.tree _, _) => true
    | some (.treew _, _) => true
    | _ => false
/-- What a thread has under way in a unit when an error ends it: its stall, its part of a TREEW. -/
def TreeIn.without (g slot : Nat) (hdl : Bool) (lane : Nat) (m : TreeIn) : TreeIn :=
  if m.g = g ∧ m.slot = slot ∧ m.hdl = hdl ∧ m.flag = none then { m with q := m.q &&& ~~~(bit lane) } else m
def State.leaveUnits (s : State) (key : Nat) (hdl : Bool) (lane : Nat) : State :=
  { s.dropWalks key hdl (bit lane) with rounds := s.rounds.map fun (r : TreeRound) => { r with ins := r.ins.map (TreeIn.without (gOf key) (slotOf key) hdl lane) } }
/-- Raise a cause of an error found as a slot is executed: precise at that slot, or at the one that the thread executes next (R356). -/
def State.raiseAt (s : State) (key lane cause : Nat) (only : Option Squad → Thread → Bool) : State :=
  match s.stand key with
  | none => s
  | some st =>
    match s.launch st.launch with
    | none => s
    | some l =>
      let hdl := decide ((st.t true lane).st ≠ .exited)
      let t := st.t hdl lane
      let q := s.squadOf key hdl lane
      let p : BitVec 52 × Nat := match q with | some q => (q.pc, q.k) | none => (t.pc, t.slot)
      if t.st = .exited ∨ !(only q t) then s
      else (s.leaveUnits key hdl lane).take key hdl st.launch { cause := cause, kind := 0, acc := 0, ghost := false, lanes := [{ lane := lane, pkt := l.pkt p.1, slot := p.2, addr := 0, retPc := p.1, retSlot := p.2 }] }
/-- The launches that have state on a set of cores, with every launch of their contexts. -/
def State.onCores (s : State) (hit : Nat → Bool) : List Nat :=
  let cs : List Nat := ((s.stands.filter fun e => hit (gOf e.1)).filterMap fun e => s.launchCtx e.2.launch) ++ ((s.outs.filter fun o => hit o.g && o.shadow).map (·.ctx))
  (s.launches.filter fun l => cs.contains l.2.ctx).map (·.1)
def State.killAll (s : State) (ks : List Nat) (cause : Nat) : State := ks.foldl (fun s k => s.killOne k cause false) s
/-- ECC_UNCORRECTABLE. -/
def execEccUncorrectable (place : EccPlace) (s : State) : Res :=
  match place with
  | .line k => .next (if s.poison.contains k then s else { s with poison := k :: s.poison })
  | .stand g slot lane => .next (s.raiseAt (standKey g slot) lane 0x19 fun _ _ => true)
  | .team id => .next (match s.team id with | some t => s.post (.kill t.launch 0x2B) | none => s)
  | .matrix id => .next (match s.team id with
      | some t => (match t.queue with
        | o :: rest => s.onTeam id fun t => { t with queue := { o with bad := some { cause := 0x2C, addr := 0, acc := 0, pkt := o.pkt, pslot := o.pslot, told := [] } } :: rest }
        | [] => s)
      | none => s)
  | .copy id => .next (match Store.find id s.cpys with
      | some c => ({ s with cpys := Store.put id { c with moves := [], bad := true } s.cpys }).copyReq id c 6 c.lane 0 (some 0x2D) [] []
      | none => s)
  | .network g slot lane => .next (s.raiseAt (standKey g slot) lane 0x2E usesNetwork)
  | .barrier id => .next (match s.team id with | some t => s.post (.kill t.launch 0x2F) | none => s)
  | .core g => .next (s.killAll (s.onCores fun x => decide (x = g)) 0x3F)
  | .contained => .next s
/-- UNIT_FENCE: kind 0 way, 1 slice, 2 core, 3 cluster, 4 link; unit: its global number. -/
def execUnitFence (kind unit : Nat) (s : State) : Res :=
  if s.pkg.fenced.contains (kind, unit) then .next s
  else
    let s1 : State := { s with pkg := { s.pkg with fenced := (kind, unit) :: s.pkg.fenced } }
    let fnOf (g : Nat) : List Nat := distinct ((match s.ownerPart g with | some p => [(s.part p).fn] | none => []) ++ (match Store.find g s.lent with | some p => [(s.part p).fn] | none => []))
    if kind = 0 then .next (s1.ras 2 (unitAddr (unit / 768) (unit / 256 % 3) (unit % 256)) [])
    else if kind = 1 then
      let gone (x : Nat) : Bool := decide (48 * (stackOf x / 2) + sliceOf x = unit)
      let l2 : Store HomeLine := s1.l2.map fun l => (l.1, if gone (128 * l.2.line) then l.2.clean else l.2)
      .next ({ s1 with l2 := l2 }.ras 3 (unitAddr (unit / 48) (unit / 16 % 3) (unit % 16)) [])
    else if kind = 2 then .next ((s1.killAll (s1.onCores fun g => decide (g = unit)) 0x3F).ras 4 (unitAddr (dieOf unit) (sectorOf (clusterOf unit) % 3) unit) (fnOf (clusterOf unit)))
    else if kind = 3 then
      let s2 := s1.killAll (s1.onCores fun g => decide (clusterOf g = unit)) 0x3F
      let s3 : State := { s2 with parts := s2.parts.map fun p => (p.1, if p.2.owns unit then { p.2 with clu := p.2.clu - 2 ^ unit } else p.2), lent := s2.lent.del unit, reclaim := s2.reclaim.filter fun c => decide (c ≠ unit) }
      .next (s3.clockCheck.ras 5 (unitAddr (unit / 24) (sectorOf unit % 3) unit) (fnOf unit))
    else if kind = 4 then .next ((s1.linkLost unit).ras 6 (unitAddr 0 0 unit) [])
    else .next s
/-- PATROL_SCRUB: the next line of device memory is read and corrected. -/
def execPatrolScrub (s : State) : Res := .next { s with pkg := { s.pkg with scrub := (s.pkg.scrub + 1) % (devEnd / 128) } }

/-! Firmware, power and heat (R433 to R436) -/

/-- POWER_LIMIT_CROSS: above the fused limit every cluster's clock is lowered, below positions, to a step the specification does not give; below it again, the limit is off. -/
def execPowerLimitCross (above : Bool) (s : State) : Res :=
  .next { s with fresh := s.fresh + 1, pkg := { s.pkg with clockCut := above, ceiling := if above then Config.pick s.fresh % 24 else 24 } }
/-- THERMAL_LIMIT_REACHED: entry 0x549; the cruiser throttles: it lowers the clock supply to a value the specification does not give. -/
def execThermalLimitReached (s : State) : Res :=
  let s1 := s.ras 9 0 []
  let sup := Config.pick s.fresh % (s.regs.clkSup + 1)
  let s2 : State := { s1 with fresh := s.fresh + 1, regs := { s1.regs with clkSup := sup } }
  .next (if sup < s.regs.clkSup then s2.ras 8 0 [] else s2)
/-- THERMAL_SHUTDOWN: the module is off. -/
def execThermalShutdown (s : State) : Res := .next { s with pkg := { s.pkg with off := true, ready := false } }
/-- The response code of an SPDM request, or that of an error for one that is not supported (SPDM 1.3). -/
def spdmCode (c : Nat) : Nat :=
  if c = 0x81 then 0x01 else if c = 0x82 then 0x02 else if c = 0x83 then 0x03 else if c = 0x84 then 0x04
  else if c = 0xE0 then 0x60 else if c = 0xE1 then 0x61 else if c = 0xE3 then 0x63 else 0x7F
/-- SPDM_REQUEST: the cruiser answers; what the answer holds, beside its code, is open. -/
def execSpdmRequest (bytes : List Byte) (s : State) : Res :=
  let code := spdmCode (bytes.getD 1 0).toNat
  .next { s with fresh := s.fresh + 64, outbox := s.outbox ++ [.mctp (toBytes 1 0x13 ++ toBytes 1 code ++ (List.range (Config.pick s.fresh % 63)).map fun i => BitVec.ofNat 8 (Config.fresh (s.fresh + i)))] }
/-- FIRMWARE_UPDATE_STAGED: a signed image waits in flash for the next conventional reset. -/
def execFirmwareUpdateStaged (img : FwImage) (s : State) : Res :=
  if img.good = false then .next s else .next (({ s with pkg := { s.pkg with staged := some img } } : State).ras 10 0 [])

end Sys2Proof.Machine
end

