-- ==== Sys2Proof/Machine/Time.lean ====
section
/-! DEFINITION. Time, the steps that can come next, and what a slot leaves behind (04 R78 to R88; 05 R98; 06 R126; 95). -/
namespace Sys2Proof.Machine

/-! Time -/

/-- The clock position that acts in a core: the power limit holds it below a ceiling (R84, R86, log 92). -/
def State.clockNow (s : State) (g : Nat) : Nat := min (s.clockAt g) s.pkg.ceiling
/-- The core clocks run for one tick: (40 + p) fortieths of a cycle at position p (R6, R84). -/
def State.clocksRun (s : State) : State := { s with fort := s.fort + 40 + min 16 s.pkg.ceiling, forts := s.forts.map fun e => (e.1, e.2 + 40 + s.clockNow e.1) }
/-- Core cycles count on every core that has an event selected, since a state a (R428, code 1). -/
def State.countCycles (s a : State) : State :=
  (s.regs.pmSel.map (·.1)).foldl (fun s g => s.count g (match Store.find g s.resident with | some (c, _) => c | none => 256) 1 (s.cyc g - a.cyc g)) s
/-- Steps of the device that fall due at the time that a tick reaches: a new epoch, boundaries, merges at B + 4,000, loop steps at B + 5,000, the Umpire's round, clock changes, releases of the start barrier. -/
def State.due (s : State) (t : Nat) : List Ev :=
  (if epochAt t ≠ epochAt (t - 1) then [Ev.epochBoundary] else [])
    ++ (s.ctxs.filter fun c => decide (c.2.loop.boundary (t - 1) = t)).map (fun c => Ev.intervalBoundary c.1)
    ++ (s.ctxs.filter fun c => c.2.loop.mEn && c.2.loop.latches.any fun x => decide (x.b + 4000 = t)).map (fun c => Ev.mergeMinimumSend c.1)
    ++ (s.ctxs.filter fun c => c.2.loop.latches.any fun x => decide (x.b + 5000 = t)).map (fun c => Ev.loopStep c.1)
    ++ (if t % 10000 = 6000 then [Ev.umpireRound] else [])
    ++ (s.clkPend.filter fun e => decide (e.2.2 = t)).map (fun e => Ev.clockStepApply e.1)
    ++ (s.launches.filter fun l => match l.2.repl with | some r => decide (r.release = some t) | none => false).map (fun l => Ev.startBarrierIssue l.1)
/-- One tick of the timebase. -/
def State.tick (s : State) : State :=
  let t := s.now + 1
  let s1 : State := { s.clocksRun with now := t, inbox := s.inbox ++ s.due t }
  if s.regs.pmSel.isEmpty then s1 else s1.countCycles s
def State.ticks (s : State) : Nat → State
  | 0 => s
  | n + 1 => s.tick.ticks n
/-- TIMEBASE_SYNC (R418): a CTL flit with chip 0's time: the timebase is within 4 ticks of it; which of those values it takes, the specification does not say. -/
def execTimebaseSync (t : DW) (s : State) : Res :=
  let x := t.toNat
  if s.pkg.chip = 0 ∨ !(s.reachable 0) ∨ (s.now ≤ x + 4 ∧ x ≤ s.now + 4) then .next s
  else
    let y := x + Config.fresh s.fresh % 9 - 4
    let s1 : State := { s with fresh := s.fresh + 1 }
    .next (if s.now ≤ y then s1.ticks (y - s.now) else { s1 with now := y })

/-! The steps that can come next -/

/-- Cores with stands or with something that waits to return. -/
def State.cores (s : State) : List Nat := distinct ((s.stands.map fun e => gOf e.1) ++ s.outs.map (·.g) ++ s.resident.map (·.1))
/-- Threads and handler threads parked in a wait, by core, slot and lane. -/
def State.parkedIn (s : State) (w : Wait) : List (Nat × Nat × Nat) :=
  s.stands.flatMap fun e => (lanes32.filter fun l => decide ((e.2.t false l).st = .parked w ∨ (e.2.t true l).st = .parked w)).map fun l => (gOf e.1, slotOf e.1, l)
/-- The rank of a launch that could start: class of its context, then priority of its queue (R46). -/
def State.launchRank (s : State) (l : Launch) : Nat :=
  let q : Nat := match s.queueOf l with | some dq => (s.queue dq).prio | none => 1
  4 * ((s.ctx l.ctx).map (·.cls)).getD 3 + (if q = 2 then 0 else if q = 0 then 2 else 1)
/-- Of the launches of a die that could start, those that its front end picks: by rank, then round-robin by queue number (R46). -/
def State.picks (s : State) (die : Nat) (cs : List (Nat × Launch)) : List (Nat × Launch) :=
  let mine := cs.filter fun e => decide (s.launchDie e.2 = die)
  let best := (mine.map fun e => s.launchRank e.2).foldl min 100
  let tied := mine.filter fun e => decide (s.launchRank e.2 = best)
  let turn := (tied.map fun e => s.launchTurn e.2).foldl min 512
  tied.filter fun e => decide (s.launchTurn e.2 = turn)
/-- The launches that may start next, and the graphs that can walk on. -/
def State.starts (s : State) : List Ev :=
  let cs := s.launches.filter fun e => s.startable e.1 e.2
  ((List.range 4).flatMap fun die => (s.picks die cs).map fun e => Ev.launchStart e.1)
    ++ if s.frozenCk then [] else (s.launches.filter fun e => e.2.walks && e.2.queue.isSome).map fun e => Ev.launchStart e.1
/-- Steps of the cores. -/
def State.coreSteps (s : State) : List Ev :=
  let gs := s.cores
  (gs.filterMap fun g => if 2 ≤ (s.issue.filter fun q => decide (q.g = g)).length then none else (s.select g).map fun n => Ev.packetIssue g n)
    ++ s.fills.map (fun f => Ev.packetCacheFill f.1) ++ s.misses.map (fun m => Ev.brandFill m.1)
    ++ (gs.filter fun g => match (s.tables g).past with | o :: _ => decide (o.since + 256 ≤ s.cyc g) | [] => false).map (fun g => Ev.pcTableEvict g)
    ++ (s.stands.filter fun e => e.2.thr.any fun t => decide (t.st = .held)).map (fun e => Ev.reconRelease (gOf e.1) (slotOf e.1))
    ++ (s.stands.filter fun e => decide (0 < e.2.need) && decide (e.2.place = .resident)).map (fun e => Ev.shapeSpill (gOf e.1) (slotOf e.1))
    ++ (gs.filter fun g => (s.standsOn g).any fun e => decide (e.2.place = .spilled)).map (fun g => Ev.spillReturn g)
    ++ (s.stands.filter fun e => !e.2.reload.isEmpty).map (fun e => Ev.spillReload (gOf e.1) (slotOf e.1))
    ++ (gs.filter fun g => (s.switchCause g).isSome).map (fun g => Ev.switchOut g)
    ++ (gs.filter fun g => s.sliceOver g).map (fun g => Ev.sliceEnd g)
    ++ (s.switches.map fun w => Ev.budgetOverrun w.g) ++ (s.switches.map fun w => Ev.swapIn w.g)
    ++ (s.outs.filter (·.writing)).map (fun o => Ev.saveWriteDone o.g)
    ++ (s.clkPend.filter fun e => !(s.issue.any fun q => decide (q.g = e.1))).map (fun e => Ev.clockStepApply e.1)
/-- Steps of teams, engines and waits. -/
def State.teamSteps (s : State) : List Ev :=
  (distinct (s.joins.map (·.cl))).map (fun c => Ev.teamForm c) ++ s.teams.map (fun t => Ev.teamFree t.1)
    ++ (if s.frozenCk then [] else s.teams.map fun t => Ev.matrixOpComplete t.1)
    ++ s.teams.map (fun t => Ev.batchComplete t.1) ++ s.teams.map (fun t => Ev.operandFault t.1)
    ++ (s.parkedIn .mwait ++ s.parkedIn .waita).map (fun p => Ev.watchTrigger p.1 p.2.1 p.2.2) ++ (s.parkedIn .mwait).map (fun p => Ev.mwaitTimeout p.1 p.2.1 p.2.2)
    ++ (s.rounds.filter fun r => r.done && !r.ins.isEmpty).map (fun r => Ev.treeContribution { ctx := r.ctx, grp := r.grp, round := r.round, rank := 0, n := r.n, len := r.len, op := r.op, fmt := r.fmt, data := [] })
    ++ s.walks.filterMap (fun w => match w.2.kind, w.2.status with
      | .send m _ _, none => if m.chip = s.pkg.chip ∧ s.ringBehind m = false then some (Ev.ringAppend m) else none
      | .tdiscard _ _, _ => some (Ev.tdiscardDone w.1)
      | .hold _ _ _ _ _, _ => some (Ev.landingsAnswered w.1)
      | .tdesc _, _ => none
      | .send _ _ _, some _ => none)
/-- Steps of the memory system. -/
def State.memSteps (s : State) : List Ev :=
  s.ops.map (fun o => Ev.countedComplete o.1) ++ s.cpys.map (fun c => Ev.copyComplete c.1)
    ++ s.reqs.flatMap (fun r => (if r.2.kind = .chunk then [Ev.chunkRequest r.1] else []) ++ (if r.2.ord.isSome then [Ev.splitkPartArrive r.1] else []) ++ [Ev.storeAck r.1, Ev.landingFaultPark r.1, Ev.faultNotice r.1])
    ++ (distinct (s.holds.map (·.stack))).map (fun x => Ev.holdQueueRoom x)
    ++ (s.fns.filter fun f => f.2.invBusy).map (fun f => Ev.invalidateDone f.1)
    ++ (s.stands.filter fun e => !e.2.dl.isEmpty).flatMap (fun e => [Ev.trapDelivery (gOf e.1) (slotOf e.1), Ev.ghostDelivery (gOf e.1) (slotOf e.1)])
/-- Steps of the front end, the Umpire and the cruiser. -/
def State.frontSteps (s : State) : List Ev :=
  let qs := s.queues
  let waits (dq : Nat) (q : Queue) : Bool := q.waitw.isSome || !(s.heldGraphs dq fun _ => true).isEmpty
  (qs.filter fun q => s.serviceable q.2).map (fun q => Ev.queueService q.1)
    ++ (qs.filter fun q => q.2.watch.isSome || waits q.1 q.2).map (fun q => Ev.ringWatchTimeout q.1)
    ++ (qs.filter fun q => q.2.owesHead).map (fun q => Ev.headWriteback q.1)
    ++ (qs.filter fun q => waits q.1 q.2).flatMap (fun q => [Ev.waitwCheck q.1, Ev.waitwTimeout q.1])
    ++ (qs.filter fun q => !q.2.sigs.isEmpty).map (fun q => Ev.signalStore q.1)
    ++ (qs.filter fun q => !(s.graphsAt q.1 5).isEmpty).map (fun q => Ev.graphLoop q.1)
    ++ (qs.filter fun q => !(s.graphsAt q.1 6).isEmpty).map (fun q => Ev.graphEnd q.1)
    ++ s.starts
    ++ (match s.placeNext with | some k => [Ev.standPlace k] | none => [])
    ++ (s.launches.filter fun l => s.barrierOver l.2).map (fun l => Ev.startBarrierTimeout l.1)
    ++ (s.launches.filter fun l => s.atEnd l.1 l.2 && !(l.2.ended s.pkg.chip)).map (fun l => Ev.completionPoint l.1)
    ++ (s.parts.filter fun p => !(s.lendable p.1).isEmpty).map (fun p => Ev.clusterLend p.1)
    ++ (s.lent.filter fun e => s.wanted e.1).map (fun e => Ev.clusterReclaim e.1) ++ s.reclaim.map (fun c => Ev.reclaimHandover c)
    ++ (s.parts.filter fun p => match p.2.resetAt with | some t => s.drainedPart p.1 t | none => false).map (fun p => Ev.resetDrainEnd p.1)
    ++ (s.ctxs.filter fun c => c.2.loop.busy).map (fun c => Ev.loopSaveDone c.1)
    ++ (s.ctxs.filter fun c => c.2.dbg.pend.isSome).flatMap (fun c => [Ev.debugRegWrite c.1 c.2.dbg.rdata, Ev.debugDrainTimeout c.1])
    ++ (if s.regs.ckBusy then [Ev.checkpointDone 0] else [])
/-- Everything that can come next: an executing squad, a step of the device, a tick. -/
def State.choices (s : State) : List Turn :=
  (List.range s.issue.length).map Turn.squad ++ (s.coreSteps ++ s.teamSteps ++ s.memSteps ++ s.frontSteps).map Turn.event ++ [Turn.tick]
/-- Is the squad that has just executed a slot in the middle of a bundle, which issues in one core cycle (R107, R165)? -/
def State.midBundle (s : State) : Bool := match s.issue with | q :: _ => decide (q.b < q.k) | [] => false
/-- What comes next: the rest of a bundle; a step that has been posted, in order; else one of the choices, which one is open. -/
def State.reschedule (s : State) : State :=
  if s.midBundle then { s with turn := .squad 0 }
  else
    match s.inbox with
    | e :: t => { s with turn := .event e, inbox := t }
    | [] =>
      match s.choices with
      | [c] => { s with turn := c }
      | cs => { s with turn := cs.getD (Config.pick s.fresh % cs.length) .tick, fresh := s.fresh + 1 }

/-! A slot of an executing squad -/

/-- Squad n comes to the head of the list. -/
def State.squadFirst (s : State) (n : Nat) : Option State :=
  match s.issue[n]? with
  | some q => some { s with issue := q :: s.issue.eraseIdx n }
  | none => none
/-- The instruction of the head squad's slot, with the slots it takes. -/
def State.slotInstr (s : State) : Option (Instr × Nat) :=
  match s.issue with
  | q :: _ => decode (q.ws.drop q.k)
  | [] => none
/-- The threads of a squad go on to the next packet. -/
def State.squadOut (s : State) (q : Squad) : State :=
  q.mem.foldl (fun s m => s.arrive (standKey q.g m.1) q.hdl q.launch m.2 (q.pc + 1) 0) s
/-- After a slot: the squad tries it again, goes to its next slot, or has ended its packet. chained: the next slot is of the same bundle (R107). -/
def State.advance (s : State) (len : Nat) (chained : Bool) : State :=
  match s.issue with
  | [] => s
  | q :: t =>
    if q.mem.isEmpty then { s with issue := t }
    else if q.again then { s with issue := { q with again := false, b := q.k } :: t }
    else if 3 ≤ q.k + len then ({ s with issue := t }).squadOut q
    else { s with issue := { q with k := q.k + len, mark := none, b := if chained then q.b else q.k + len } :: t }
/-- The state after a slot, a: before it. -/
def State.afterSlot (a b : State) (len : Nat) (chained : Bool) : State := (State.observe a (State.observeSlot a b)).advance len chained
/-- A slot that does not decode: illegal-encoding in every member (R112). PACKET_ISSUE lets no such packet issue. -/
def State.squadIllegal (s : State) (q : Squad) : State :=
  match s.launch q.launch with
  | none => s
  | some l => q.mem.foldl (fun s m => s.take (standKey q.g m.1) q.hdl q.launch
      { cause := 0x00, kind := 0, acc := 0, ghost := false, lanes := (lanesOf m.2).map fun x => { lane := x, pkt := l.pkt q.pc, slot := q.k, addr := 0, retPc := q.pc, retSlot := q.k } }) s
def State.badSlot (s : State) : State :=
  match s.issue with
  | [] => s
  | q :: t => ({ s with issue := t }).squadIllegal q

/-- Does a clock run for a turn: a frozen package takes only a conventional reset, one that is off only a bring-up (R427, R436, R437). -/
def State.awake (s : State) : Bool :=
  match s.turn with
  | .event (.pfReset true) => !s.pkg.off
  | .event .bringUp => true
  | _ => !s.pkg.off && !s.pkg.frozen
/-- A package whose clocks stand still waits for such a step. -/
def Ev.wakes (off : Bool) (e : Ev) : Bool :=
  match e with
  | .bringUp => true
  | .pfReset c => c && !off
  | _ => false
def State.sleep (s : State) : State :=
  match s.inbox.find? (Ev.wakes s.pkg.off) with
  | some e => { s with turn := .event e, inbox := s.inbox.filter fun x => !(Ev.wakes s.pkg.off x) }
  | none => s

/-! A word to run next -/

/-- The kernel header of a launch that has every register. -/
def bareHeader : Header :=
  { Header.none with codeSize := 16, vregs := 128, sregs := 64, pregs := 96, tiles := 8, accs := 8, budget := 2048, stands := 1 }
/-- A context with nothing set but its tag. -/
def bareCtx : Ctx := Ctx.ofDesc [] 0 0
/-- Stand 0 of launch 0 in slot 0 of core 0, with 32 threads that execute a packet of these words in one squad. -/
def State.withPacket (s : State) (ws : List W) : State :=
  let l : Launch := { Launch.ofPacket [] bareHeader [] none 0 0 with x := 32, y := 1, z := 1, started := true, next := 1 }
  let st := (l.stand 0 0 0 0 s.pkg.chip (s.cyc 0))
  let st1 : Stand := { st with fresh := false, thr := st.thr.map fun t => { t with st := .issuing } }
  let q : Squad := { id := s.seq, g := 0, launch := 0, hdl := false, mem := [(0, 0xFFFFFFFF)], pc := l.codePc, ctrl := 0, ws := ws, k := 0, start := 0, again := false, mark := none }
  { s with
    ctxs := Store.put 0 bareCtx s.ctxs
    launches := Store.put 0 l s.launches
    stands := Store.put 0 st1 s.stands
    resident := Store.put 0 (0, s.now) s.resident
    issue := q :: s.issue
    seq := s.seq + 1
    turn := .squad 0 }

end Sys2Proof.Machine
end

