-- ==== Sys2Proof/Machine/Dispatch.lean ====
section
/-! DEFINITION. The dispatch: one arm for each constructor of Instr. -/
namespace Sys2Proof.Machine

def exec (i : Instr) (s : State) : Host.Outcome State Fault Refusal :=
  match i with
  | .mov x => Sys2Proof.Machine.execMov x s
  | .movS x => Sys2Proof.Machine.execMovS x s
  | .sel x => Sys2Proof.Machine.execSel x s
  | .vidxr x => Sys2Proof.Machine.execVidxr x s
  | .vidxw x => Sys2Proof.Machine.execVidxw x s
  | .getV x => Sys2Proof.Machine.execGetV x s
  | .getS x => Sys2Proof.Machine.execGetS x s
  | .put x => Sys2Proof.Machine.execPut x s
  | .iadd x => Sys2Proof.Machine.execIadd x s
  | .isub x => Sys2Proof.Machine.execIsub x s
  | .iadds x => Sys2Proof.Machine.execIadds x s
  | .isubs x => Sys2Proof.Machine.execIsubs x s
  | .ineg x => Sys2Proof.Machine.execIneg x s
  | .iabs x => Sys2Proof.Machine.execIabs x s
  | .imin x => Sys2Proof.Machine.execImin x s
  | .imax x => Sys2Proof.Machine.execImax x s
  | .imul x => Sys2Proof.Machine.execImul x s
  | .imulh x => Sys2Proof.Machine.execImulh x s
  | .imulhu x => Sys2Proof.Machine.execImulhu x s
  | .imad x => Sys2Proof.Machine.execImad x s
  | .imadh x => Sys2Proof.Machine.execImadh x s
  | .and x => Sys2Proof.Machine.execAnd x s
  | .or x => Sys2Proof.Machine.execOr x s
  | .xor x => Sys2Proof.Machine.execXor x s
  | .andn x => Sys2Proof.Machine.execAndn x s
  | .orn x => Sys2Proof.Machine.execOrn x s
  | .xnor x => Sys2Proof.Machine.execXnor x s
  | .shl x => Sys2Proof.Machine.execShl x s
  | .shr x => Sys2Proof.Machine.execShr x s
  | .sar x => Sys2Proof.Machine.execSar x s
  | .rol x => Sys2Proof.Machine.execRol x s
  | .ror x => Sys2Proof.Machine.execRor x s
  | .bfe x => Sys2Proof.Machine.execBfe x s
  | .bfeu x => Sys2Proof.Machine.execBfeu x s
  | .bfi x => Sys2Proof.Machine.execBfi x s
  | .popc x => Sys2Proof.Machine.execPopc x s
  | .clz x => Sys2Proof.Machine.execClz x s
  | .brev x => Sys2Proof.Machine.execBrev x s
  | .prmtB x => Sys2Proof.Machine.execPrmtB x s
  | .prmtN x => Sys2Proof.Machine.execPrmtN x s
  | .icmpEq x => Sys2Proof.Machine.execIcmpEq x s
  | .icmpNe x => Sys2Proof.Machine.execIcmpNe x s
  | .icmpLt x => Sys2Proof.Machine.execIcmpLt x s
  | .icmpLe x => Sys2Proof.Machine.execIcmpLe x s
  | .icmpGt x => Sys2Proof.Machine.execIcmpGt x s
  | .icmpGe x => Sys2Proof.Machine.execIcmpGe x s
  | .icmpLtu x => Sys2Proof.Machine.execIcmpLtu x s
  | .icmpGeu x => Sys2Proof.Machine.execIcmpGeu x s
  | .pand x => Sys2Proof.Machine.execPand x s
  | .por x => Sys2Proof.Machine.execPor x s
  | .pxor x => Sys2Proof.Machine.execPxor x s
  | .pnot x => Sys2Proof.Machine.execPnot x s
  | .pmov x => Sys2Proof.Machine.execPmov x s
  | .p2v x => Sys2Proof.Machine.execP2v x s
  | .v2p x => Sys2Proof.Machine.execV2p x s
  | .aff x => Sys2Proof.Machine.execAff x s
  | .shape x => Sys2Proof.Machine.execShape x s
  | .expand x => Sys2Proof.Machine.execExpand x s
  | .squeeze x => Sys2Proof.Machine.execSqueeze x s
  | .shflIdx x => Sys2Proof.Machine.execShflIdx x s
  | .shflUp x => Sys2Proof.Machine.execShflUp x s
  | .shflDn x => Sys2Proof.Machine.execShflDn x s
  | .shflXor x => Sys2Proof.Machine.execShflXor x s
  | .voteAny x => Sys2Proof.Machine.execVoteAny x s
  | .voteAll x => Sys2Proof.Machine.execVoteAll x s
  | .voteBal x => Sys2Proof.Machine.execVoteBal x s
  | .elect x => Sys2Proof.Machine.execElect x s
  | .redxAdd x => Sys2Proof.Machine.execRedxAdd x s
  | .redxMin x => Sys2Proof.Machine.execRedxMin x s
  | .redxMax x => Sys2Proof.Machine.execRedxMax x s
  | .redxMinu x => Sys2Proof.Machine.execRedxMinu x s
  | .redxMaxu x => Sys2Proof.Machine.execRedxMaxu x s
  | .redxAnd x => Sys2Proof.Machine.execRedxAnd x s
  | .redxOr x => Sys2Proof.Machine.execRedxOr x s
  | .redxFadd x => Sys2Proof.Machine.execRedxFadd x s
  | .bra x => Sys2Proof.Machine.execBra x s
  | .brxV x => Sys2Proof.Machine.execBrxV x s
  | .brxS x => Sys2Proof.Machine.execBrxS x s
  | .call x => Sys2Proof.Machine.execCall x s
  | .callxV x => Sys2Proof.Machine.execCallxV x s
  | .callxS x => Sys2Proof.Machine.execCallxS x s
  | .ret x => Sys2Proof.Machine.execRet x s
  | .recon x => Sys2Proof.Machine.execRecon x s
  | .yield x => Sys2Proof.Machine.execYield x s
  | .exit x => Sys2Proof.Machine.execExit x s
  | .join x => Sys2Proof.Machine.execJoin x s
  | .leave x => Sys2Proof.Machine.execLeave x s
  | .tinfo x => Sys2Proof.Machine.execTinfo x s
  | .fadd x => Sys2Proof.Machine.execFadd x s
  | .fsub x => Sys2Proof.Machine.execFsub x s
  | .fmul x => Sys2Proof.Machine.execFmul x s
  | .fmin x => Sys2Proof.Machine.execFmin x s
  | .fmax x => Sys2Proof.Machine.execFmax x s
  | .ffma x => Sys2Proof.Machine.execFfma x s
  | .ffms x => Sys2Proof.Machine.execFfms x s
  | .fnma x => Sys2Proof.Machine.execFnma x s
  | .fcmpEq x => Sys2Proof.Machine.execFcmpEq x s
  | .fcmpNe x => Sys2Proof.Machine.execFcmpNe x s
  | .fcmpLt x => Sys2Proof.Machine.execFcmpLt x s
  | .fcmpLe x => Sys2Proof.Machine.execFcmpLe x s
  | .fcmpGt x => Sys2Proof.Machine.execFcmpGt x s
  | .fcmpGe x => Sys2Proof.Machine.execFcmpGe x s
  | .fcmpUn x => Sys2Proof.Machine.execFcmpUn x s
  | .fcmpOr x => Sys2Proof.Machine.execFcmpOr x s
  | .frcp x => Sys2Proof.Machine.execFrcp x s
  | .frsq x => Sys2Proof.Machine.execFrsq x s
  | .fsqrt x => Sys2Proof.Machine.execFsqrt x s
  | .fexp2 x => Sys2Proof.Machine.execFexp2 x s
  | .flog2 x => Sys2Proof.Machine.execFlog2 x s
  | .fsin x => Sys2Proof.Machine.execFsin x s
  | .fcos x => Sys2Proof.Machine.execFcos x s
  | .ftanh x => Sys2Proof.Machine.execFtanh x s
  | .dadd x => Sys2Proof.Machine.execDadd x s
  | .dmul x => Sys2Proof.Machine.execDmul x s
  | .dfma x => Sys2Proof.Machine.execDfma x s
  | .dmin x => Sys2Proof.Machine.execDmin x s
  | .dmax x => Sys2Proof.Machine.execDmax x s
  | .hadd2 x => Sys2Proof.Machine.execHadd2 x s
  | .hmul2 x => Sys2Proof.Machine.execHmul2 x s
  | .hfma2 x => Sys2Proof.Machine.execHfma2 x s
  | .hmin2 x => Sys2Proof.Machine.execHmin2 x s
  | .hmax2 x => Sys2Proof.Machine.execHmax2 x s
  | .badd2 x => Sys2Proof.Machine.execBadd2 x s
  | .bmul2 x => Sys2Proof.Machine.execBmul2 x s
  | .bfma2 x => Sys2Proof.Machine.execBfma2 x s
  | .bdot2 x => Sys2Proof.Machine.execBdot2 x s
  | .cvt x => Sys2Proof.Machine.execCvt x s
  | .t8unpk x => Sys2Proof.Machine.execT8unpk x s
  | .t6unpk x => Sys2Proof.Machine.execT6unpk x s
  | .i4unpk x => Sys2Proof.Machine.execI4unpk x s
  | .npk x => Sys2Proof.Machine.execNpk x s
  | .ldB8 x => Sys2Proof.Machine.execLdB8 x s
  | .ldB16 x => Sys2Proof.Machine.execLdB16 x s
  | .ldB32 x => Sys2Proof.Machine.execLdB32 x s
  | .ldB64 x => Sys2Proof.Machine.execLdB64 x s
  | .ldB128 x => Sys2Proof.Machine.execLdB128 x s
  | .ldS8 x => Sys2Proof.Machine.execLdS8 x s
  | .ldS16 x => Sys2Proof.Machine.execLdS16 x s
  | .stB8 x => Sys2Proof.Machine.execStB8 x s
  | .stB16 x => Sys2Proof.Machine.execStB16 x s
  | .stB32 x => Sys2Proof.Machine.execStB32 x s
  | .stB64 x => Sys2Proof.Machine.execStB64 x s
  | .stB128 x => Sys2Proof.Machine.execStB128 x s
  | .stS8 x => Sys2Proof.Machine.execStS8 x s
  | .stS16 x => Sys2Proof.Machine.execStS16 x s
  | .ldsB8 x => Sys2Proof.Machine.execLdsB8 x s
  | .ldsB16 x => Sys2Proof.Machine.execLdsB16 x s
  | .ldsB32 x => Sys2Proof.Machine.execLdsB32 x s
  | .ldsB64 x => Sys2Proof.Machine.execLdsB64 x s
  | .ldsB128 x => Sys2Proof.Machine.execLdsB128 x s
  | .ldsS8 x => Sys2Proof.Machine.execLdsS8 x s
  | .ldsS16 x => Sys2Proof.Machine.execLdsS16 x s
  | .stsB8 x => Sys2Proof.Machine.execStsB8 x s
  | .stsB16 x => Sys2Proof.Machine.execStsB16 x s
  | .stsB32 x => Sys2Proof.Machine.execStsB32 x s
  | .stsB64 x => Sys2Proof.Machine.execStsB64 x s
  | .stsB128 x => Sys2Proof.Machine.execStsB128 x s
  | .stsS8 x => Sys2Proof.Machine.execStsS8 x s
  | .stsS16 x => Sys2Proof.Machine.execStsS16 x s
  | .pref x => Sys2Proof.Machine.execPref x s
  | .clean x => Sys2Proof.Machine.execClean x s
  | .inval x => Sys2Proof.Machine.execInval x s
  | .tdiscard x => Sys2Proof.Machine.execTdiscard x s
  | .tdesc x => Sys2Proof.Machine.execTdesc x s
  | .tread x => Sys2Proof.Machine.execTread x s
  | .tquery x => Sys2Proof.Machine.execTquery x s
  | .cpy x => Sys2Proof.Machine.execCpy x s
  | .cpyt x => Sys2Proof.Machine.execCpyt x s
  | .cpyv x => Sys2Proof.Machine.execCpyv x s
  | .mma x => Sys2Proof.Machine.execMma x s
  | .mmag x => Sys2Proof.Machine.execMmag x s
  | .mzero x => Sys2Proof.Machine.execMzero x s
  | .gath x => Sys2Proof.Machine.execGath x s
  | .tld x => Sys2Proof.Machine.execTld x s
  | .mcommit x => Sys2Proof.Machine.execMcommit x s
  | .mwaitb x => Sys2Proof.Machine.execMwaitb x s
  | .mdrain x => Sys2Proof.Machine.execMdrain x s
  | .mdraina x => Sys2Proof.Machine.execMdraina x s
  | .maccr x => Sys2Proof.Machine.execMaccr x s
  | .maccw x => Sys2Proof.Machine.execMaccw x s
  | .atomAdd x => Sys2Proof.Machine.execAtomAdd x s
  | .atomMin x => Sys2Proof.Machine.execAtomMin x s
  | .atomMax x => Sys2Proof.Machine.execAtomMax x s
  | .atomAnd x => Sys2Proof.Machine.execAtomAnd x s
  | .atomOr x => Sys2Proof.Machine.execAtomOr x s
  | .atomXor x => Sys2Proof.Machine.execAtomXor x s
  | .atomExch x => Sys2Proof.Machine.execAtomExch x s
  | .atomCas x => Sys2Proof.Machine.execAtomCas x s
  | .atom64Add x => Sys2Proof.Machine.execAtom64Add x s
  | .atom64Min x => Sys2Proof.Machine.execAtom64Min x s
  | .atom64Max x => Sys2Proof.Machine.execAtom64Max x s
  | .atom64And x => Sys2Proof.Machine.execAtom64And x s
  | .atom64Or x => Sys2Proof.Machine.execAtom64Or x s
  | .atom64Xor x => Sys2Proof.Machine.execAtom64Xor x s
  | .atom64Exch x => Sys2Proof.Machine.execAtom64Exch x s
  | .atom64Cas x => Sys2Proof.Machine.execAtom64Cas x s
  | .atomsAdd x => Sys2Proof.Machine.execAtomsAdd x s
  | .atomsMin x => Sys2Proof.Machine.execAtomsMin x s
  | .atomsMax x => Sys2Proof.Machine.execAtomsMax x s
  | .atomsAnd x => Sys2Proof.Machine.execAtomsAnd x s
  | .atomsOr x => Sys2Proof.Machine.execAtomsOr x s
  | .atomsXor x => Sys2Proof.Machine.execAtomsXor x s
  | .atomsExch x => Sys2Proof.Machine.execAtomsExch x s
  | .atomsCas x => Sys2Proof.Machine.execAtomsCas x s
  | .atomfFadd32 x => Sys2Proof.Machine.execAtomfFadd32 x s
  | .atomfFaddBf2 x => Sys2Proof.Machine.execAtomfFaddBf2 x s
  | .atomfFaddH2 x => Sys2Proof.Machine.execAtomfFaddH2 x s
  | .atomfFmin32 x => Sys2Proof.Machine.execAtomfFmin32 x s
  | .atomfFmax32 x => Sys2Proof.Machine.execAtomfFmax32 x s
  | .atomfFadd64 x => Sys2Proof.Machine.execAtomfFadd64 x s
  | .chunk x => Sys2Proof.Machine.execChunk x s
  | .redAdd x => Sys2Proof.Machine.execRedAdd x s
  | .redMin x => Sys2Proof.Machine.execRedMin x s
  | .redMax x => Sys2Proof.Machine.execRedMax x s
  | .redAnd x => Sys2Proof.Machine.execRedAnd x s
  | .redOr x => Sys2Proof.Machine.execRedOr x s
  | .redXor x => Sys2Proof.Machine.execRedXor x s
  | .fence x => Sys2Proof.Machine.execFence x s
  | .fenceX x => Sys2Proof.Machine.execFenceX x s
  | .barArrive x => Sys2Proof.Machine.execBarArrive x s
  | .barWait x => Sys2Proof.Machine.execBarWait x s
  | .barSync x => Sys2Proof.Machine.execBarSync x s
  | .mona x => Sys2Proof.Machine.execMona x s
  | .mwait x => Sys2Proof.Machine.execMwait x s
  | .waita x => Sys2Proof.Machine.execWaita x s
  | .send x => Sys2Proof.Machine.execSend x s
  | .tree x => Sys2Proof.Machine.execTree x s
  | .treew x => Sys2Proof.Machine.execTreew x s
  | .beat x => Sys2Proof.Machine.execBeat x s
  | .beatd x => Sys2Proof.Machine.execBeatd x s
  | .rng x => Sys2Proof.Machine.execRng x s
  | .time x => Sys2Proof.Machine.execTime x s
  | .trap x => Sys2Proof.Machine.execTrap x s
  | .rtt x => Sys2Proof.Machine.execRtt x s
  | .rttSkip x => Sys2Proof.Machine.execRttSkip x s
  | .lmovR x => Sys2Proof.Machine.execLmovR x s
  | .lmovW x => Sys2Proof.Machine.execLmovW x s
  | .brk x => Sys2Proof.Machine.execBrk x s
  | .resume x => Sys2Proof.Machine.execResume x s
  | .drop x => Sys2Proof.Machine.execDrop x s
  | .nop x => Sys2Proof.Machine.execNop x s
  | .packetIssue g n => Sys2Proof.Machine.execPacketIssue g n s
  | .countedComplete id => Sys2Proof.Machine.execCountedComplete id s
  | .packetCacheFill id => Sys2Proof.Machine.execPacketCacheFill id s
  | .brandFill id => Sys2Proof.Machine.execBrandFill id s
  | .pcTableEvict g => Sys2Proof.Machine.execPcTableEvict g s
  | .reconRelease g slot => Sys2Proof.Machine.execReconRelease g slot s
  | .teamForm cl => Sys2Proof.Machine.execTeamForm cl s
  | .teamFree id => Sys2Proof.Machine.execTeamFree id s
  | .shapeSpill g slot => Sys2Proof.Machine.execShapeSpill g slot s
  | .spillReturn g => Sys2Proof.Machine.execSpillReturn g s
  | .spillReload g slot => Sys2Proof.Machine.execSpillReload g slot s
  | .qtailWrite fn q v => Sys2Proof.Machine.execQtailWrite fn q v s
  | .queueService dq => Sys2Proof.Machine.execQueueService dq s
  | .ringWatchTimeout dq => Sys2Proof.Machine.execRingWatchTimeout dq s
  | .headWriteback dq => Sys2Proof.Machine.execHeadWriteback dq s
  | .headWritebackRetry fn q => Sys2Proof.Machine.execHeadWritebackRetry fn q s
  | .queueEnable fn q => Sys2Proof.Machine.execQueueEnable fn q s
  | .queueDisable fn q => Sys2Proof.Machine.execQueueDisable fn q s
  | .queueRestart fn q => Sys2Proof.Machine.execQueueRestart fn q s
  | .queueRestartSkip fn q => Sys2Proof.Machine.execQueueRestartSkip fn q s
  | .launchStart key => Sys2Proof.Machine.execLaunchStart key s
  | .waitwCheck dq => Sys2Proof.Machine.execWaitwCheck dq s
  | .waitwTimeout dq => Sys2Proof.Machine.execWaitwTimeout dq s
  | .signalStore dq => Sys2Proof.Machine.execSignalStore dq s
  | .graphLoop dq => Sys2Proof.Machine.execGraphLoop dq s
  | .graphEnd dq => Sys2Proof.Machine.execGraphEnd dq s
  | .replicationReceive r => Sys2Proof.Machine.execReplicationReceive r s
  | .startReady key chip gen => Sys2Proof.Machine.execStartReady key chip gen s
  | .startReleaseReceive key gen t => Sys2Proof.Machine.execStartReleaseReceive key gen t s
  | .startBarrierIssue key => Sys2Proof.Machine.execStartBarrierIssue key s
  | .startBarrierTimeout key => Sys2Proof.Machine.execStartBarrierTimeout key s
  | .startAbortReceive key gen => Sys2Proof.Machine.execStartAbortReceive key gen s
  | .ctxCreate fn ctx => Sys2Proof.Machine.execCtxCreate fn ctx s
  | .ctxReload fn ctx => Sys2Proof.Machine.execCtxReload fn ctx s
  | .ctxDestroy fn ctx => Sys2Proof.Machine.execCtxDestroy fn ctx s
  | .ctxCmdNone fn ctx => Sys2Proof.Machine.execCtxCmdNone fn ctx s
  | .standPlace key => Sys2Proof.Machine.execStandPlace key s
  | .partitionWrite p reg v => Sys2Proof.Machine.execPartitionWrite p reg v s
  | .epochBoundary => Sys2Proof.Machine.execEpochBoundary s
  | .chunkRequest id => Sys2Proof.Machine.execChunkRequest id s
  | .clusterLend p => Sys2Proof.Machine.execClusterLend p s
  | .clusterReclaim gcl => Sys2Proof.Machine.execClusterReclaim gcl s
  | .reclaimHandover gcl => Sys2Proof.Machine.execReclaimHandover gcl s
  | .intervalBoundary ctx => Sys2Proof.Machine.execIntervalBoundary ctx s
  | .mergeCountReceive chip ctx k count => Sys2Proof.Machine.execMergeCountReceive chip ctx k count s
  | .mergeMinimumSend ctx => Sys2Proof.Machine.execMergeMinimumSend ctx s
  | .mergeResultReceive ctx k res => Sys2Proof.Machine.execMergeResultReceive ctx k res s
  | .loopStep ctx => Sys2Proof.Machine.execLoopStep ctx s
  | .umpireRound => Sys2Proof.Machine.execUmpireRound s
  | .clockStepApply gcl => Sys2Proof.Machine.execClockStepApply gcl s
  | .intervalWrite fn ctx v => Sys2Proof.Machine.execIntervalWrite fn ctx v s
  | .loopSave fn ctx => Sys2Proof.Machine.execLoopSave fn ctx s
  | .loopClear fn ctx => Sys2Proof.Machine.execLoopClear fn ctx s
  | .actuatorLimitWrite fn ctx k v => Sys2Proof.Machine.execActuatorLimitWrite fn ctx k v s
  | .btFieldWrite fn ctx reg v => Sys2Proof.Machine.execBtFieldWrite fn ctx reg v s
  | .storeAck id => Sys2Proof.Machine.execStoreAck id s
  | .landingFaultPark id => Sys2Proof.Machine.execLandingFaultPark id s
  | .holdQueueRoom stack => Sys2Proof.Machine.execHoldQueueRoom stack s
  | .invalidatePage fn => Sys2Proof.Machine.execInvalidatePage fn s
  | .invalidateTag fn => Sys2Proof.Machine.execInvalidateTag fn s
  | .invalidateFunction fn => Sys2Proof.Machine.execInvalidateFunction fn s
  | .invalidateDone fn => Sys2Proof.Machine.execInvalidateDone fn s
  | .copyComplete id => Sys2Proof.Machine.execCopyComplete id s
  | .ringAppend m => Sys2Proof.Machine.execRingAppend m s
  | .sendStatus id status => Sys2Proof.Machine.execSendStatus id status s
  | .treeContribution t => Sys2Proof.Machine.execTreeContribution t s
  | .matrixOpComplete team => Sys2Proof.Machine.execMatrixOpComplete team s
  | .batchComplete team => Sys2Proof.Machine.execBatchComplete team s
  | .operandFault team => Sys2Proof.Machine.execOperandFault team s
  | .splitkPartArrive id => Sys2Proof.Machine.execSplitkPartArrive id s
  | .watchTrigger g slot lane => Sys2Proof.Machine.execWatchTrigger g slot lane s
  | .mwaitTimeout g slot lane => Sys2Proof.Machine.execMwaitTimeout g slot lane s
  | .hostWrite pa bytes => Sys2Proof.Machine.execHostWrite pa bytes s
  | .hostRead pa n => Sys2Proof.Machine.execHostRead pa n s
  | .peerAccess r => Sys2Proof.Machine.execPeerAccess r s
  | .trapDelivery g slot => Sys2Proof.Machine.execTrapDelivery g slot s
  | .faultNotice id => Sys2Proof.Machine.execFaultNotice id s
  | .ghostDelivery g slot => Sys2Proof.Machine.execGhostDelivery g slot s
  | .kill key cause => Sys2Proof.Machine.execKill key cause s
  | .switchOut g => Sys2Proof.Machine.execSwitchOut g s
  | .sliceEnd g => Sys2Proof.Machine.execSliceEnd g s
  | .budgetOverrun g => Sys2Proof.Machine.execBudgetOverrun g s
  | .swapIn g => Sys2Proof.Machine.execSwapIn g s
  | .saveWriteDone g => Sys2Proof.Machine.execSaveWriteDone g s
  | .completionPoint key => Sys2Proof.Machine.execCompletionPoint key s
  | .replicaDone key chip gen => Sys2Proof.Machine.execReplicaDone key chip gen s
  | .causeEntryClear n v => Sys2Proof.Machine.execCauseEntryClear n v s
  | .vfInterruptInject v => Sys2Proof.Machine.execVfInterruptInject v s
  | .reportRingEnable fn => Sys2Proof.Machine.execReportRingEnable fn s
  | .partitionReset v => Sys2Proof.Machine.execPartitionReset v s
  | .resetDrainEnd p => Sys2Proof.Machine.execResetDrainEnd p s
  | .vfFlr fn => Sys2Proof.Machine.execVfFlr fn s
  | .vfDisable => Sys2Proof.Machine.execVfDisable s
  | .vfEnable n => Sys2Proof.Machine.execVfEnable n s
  | .pfReset conv => Sys2Proof.Machine.execPfReset conv s
  | .guestTimeApply f => Sys2Proof.Machine.execGuestTimeApply f s
  | .linkDown n => Sys2Proof.Machine.execLinkDown n s
  | .linkUp n lanes => Sys2Proof.Machine.execLinkUp n lanes s
  | .timebaseSync t => Sys2Proof.Machine.execTimebaseSync t s
  | .checkpointSave v => Sys2Proof.Machine.execCheckpointSave v s
  | .checkpointRestore v => Sys2Proof.Machine.execCheckpointRestore v s
  | .checkpointDone err => Sys2Proof.Machine.execCheckpointDone err s
  | .expanderDown port => Sys2Proof.Machine.execExpanderDown port s
  | .debugStop ctx => Sys2Proof.Machine.execDebugStop ctx s
  | .debugRun ctx => Sys2Proof.Machine.execDebugRun ctx s
  | .debugStep ctx => Sys2Proof.Machine.execDebugStep ctx s
  | .debugRegRead ctx => Sys2Proof.Machine.execDebugRegRead ctx s
  | .debugRegWrite ctx v => Sys2Proof.Machine.execDebugRegWrite ctx v s
  | .debugDrainTimeout ctx => Sys2Proof.Machine.execDebugDrainTimeout ctx s
  | .debugArm p v => Sys2Proof.Machine.execDebugArm p v s
  | .freeze => Sys2Proof.Machine.execFreeze s
  | .eccCorrected => Sys2Proof.Machine.execEccCorrected s
  | .eccUncorrectable place => Sys2Proof.Machine.execEccUncorrectable place s
  | .unitFence kind unit => Sys2Proof.Machine.execUnitFence kind unit s
  | .patrolScrub => Sys2Proof.Machine.execPatrolScrub s
  | .powerLimitCross above => Sys2Proof.Machine.execPowerLimitCross above s
  | .thermalShutdown => Sys2Proof.Machine.execThermalShutdown s
  | .spdmRequest bytes => Sys2Proof.Machine.execSpdmRequest bytes s
  | .bringUp => Sys2Proof.Machine.execBringUp s
  | .registerWrite fn off v => Sys2Proof.Machine.execRegisterWrite fn off v s
  | .expanderUp port size => Sys2Proof.Machine.execExpanderUp port size s
  | .thermalLimitReached => Sys2Proof.Machine.execThermalLimitReached s
  | .firmwareUpdateStaged img => Sys2Proof.Machine.execFirmwareUpdateStaged img s
  | .ctxCommandDone fn => Sys2Proof.Machine.execCtxCommandDone fn s
  | .loopSaveDone ctx => Sys2Proof.Machine.execLoopSaveDone ctx s
  | .tdiscardDone id => Sys2Proof.Machine.execTdiscardDone id s
  | .landingsAnswered id => Sys2Proof.Machine.execLandingsAnswered id s

end Sys2Proof.Machine
end

