-- ==== Sys2Proof/Machine/Events.lean ====
section
/-! DEFINITION. A waiting step of the device has the meaning of its constructor of Instr (Laws/Events.lean proves it exec of that constructor). -/
namespace Sys2Proof.Machine

/-- Take a step that waited. -/
def runEv (e : Ev) (s : State) : Res :=
  match e with
  | .packetIssue g n => execPacketIssue g n s
  | .countedComplete id => execCountedComplete id s
  | .packetCacheFill id => execPacketCacheFill id s
  | .brandFill id => execBrandFill id s
  | .pcTableEvict g => execPcTableEvict g s
  | .reconRelease g slot => execReconRelease g slot s
  | .teamForm cl => execTeamForm cl s
  | .teamFree id => execTeamFree id s
  | .shapeSpill g slot => execShapeSpill g slot s
  | .spillReturn g => execSpillReturn g s
  | .spillReload g slot => execSpillReload g slot s
  | .qtailWrite fn q v => execQtailWrite fn q v s
  | .queueService dq => execQueueService dq s
  | .ringWatchTimeout dq => execRingWatchTimeout dq s
  | .headWriteback dq => execHeadWriteback dq s
  | .headWritebackRetry fn q => execHeadWritebackRetry fn q s
  | .queueEnable fn q => execQueueEnable fn q s
  | .queueDisable fn q => execQueueDisable fn q s
  | .queueRestart fn q => execQueueRestart fn q s
  | .queueRestartSkip fn q => execQueueRestartSkip fn q s
  | .launchStart key => execLaunchStart key s
  | .waitwCheck dq => execWaitwCheck dq s
  | .waitwTimeout dq => execWaitwTimeout dq s
  | .signalStore dq => execSignalStore dq s
  | .graphLoop dq => execGraphLoop dq s
  | .graphEnd dq => execGraphEnd dq s
  | .replicationReceive r => execReplicationReceive r s
  | .startReady key chip gen => execStartReady key chip gen s
  | .startReleaseReceive key gen t => execStartReleaseReceive key gen t s
  | .startBarrierIssue key => execStartBarrierIssue key s
  | .startBarrierTimeout key => execStartBarrierTimeout key s
  | .startAbortReceive key gen => execStartAbortReceive key gen s
  | .ctxCreate fn ctx => execCtxCreate fn ctx s
  | .ctxReload fn ctx => execCtxReload fn ctx s
  | .ctxDestroy fn ctx => execCtxDestroy fn ctx s
  | .ctxCmdNone fn ctx => execCtxCmdNone fn ctx s
  | .standPlace key => execStandPlace key s
  | .partitionWrite p reg v => execPartitionWrite p reg v s
  | .epochBoundary => execEpochBoundary s
  | .chunkRequest id => execChunkRequest id s
  | .clusterLend p => execClusterLend p s
  | .clusterReclaim gcl => execClusterReclaim gcl s
  | .reclaimHandover gcl => execReclaimHandover gcl s
  | .intervalBoundary ctx => execIntervalBoundary ctx s
  | .mergeCountReceive chip ctx k count => execMergeCountReceive chip ctx k count s
  | .mergeMinimumSend ctx => execMergeMinimumSend ctx s
  | .mergeResultReceive ctx k res => execMergeResultReceive ctx k res s
  | .loopStep ctx => execLoopStep ctx s
  | .umpireRound => execUmpireRound s
  | .clockStepApply gcl => execClockStepApply gcl s
  | .intervalWrite fn ctx v => execIntervalWrite fn ctx v s
  | .loopSave fn ctx => execLoopSave fn ctx s
  | .loopClear fn ctx => execLoopClear fn ctx s
  | .actuatorLimitWrite fn ctx k v => execActuatorLimitWrite fn ctx k v s
  | .btFieldWrite fn ctx reg v => execBtFieldWrite fn ctx reg v s
  | .storeAck id => execStoreAck id s
  | .landingFaultPark id => execLandingFaultPark id s
  | .holdQueueRoom stack => execHoldQueueRoom stack s
  | .invalidatePage fn => execInvalidatePage fn s
  | .invalidateTag fn => execInvalidateTag fn s
  | .invalidateFunction fn => execInvalidateFunction fn s
  | .invalidateDone fn => execInvalidateDone fn s
  | .copyComplete id => execCopyComplete id s
  | .ringAppend m => execRingAppend m s
  | .sendStatus id status => execSendStatus id status s
  | .treeContribution t => execTreeContribution t s
  | .matrixOpComplete team => execMatrixOpComplete team s
  | .batchComplete team => execBatchComplete team s
  | .operandFault team => execOperandFault team s
  | .splitkPartArrive id => execSplitkPartArrive id s
  | .watchTrigger g slot lane => execWatchTrigger g slot lane s
  | .mwaitTimeout g slot lane => execMwaitTimeout g slot lane s
  | .hostWrite pa bytes => execHostWrite pa bytes s
  | .hostRead pa n => execHostRead pa n s
  | .peerAccess r => execPeerAccess r s
  | .trapDelivery g slot => execTrapDelivery g slot s
  | .faultNotice id => execFaultNotice id s
  | .ghostDelivery g slot => execGhostDelivery g slot s
  | .kill key cause => execKill key cause s
  | .switchOut g => execSwitchOut g s
  | .sliceEnd g => execSliceEnd g s
  | .budgetOverrun g => execBudgetOverrun g s
  | .swapIn g => execSwapIn g s
  | .saveWriteDone g => execSaveWriteDone g s
  | .completionPoint key => execCompletionPoint key s
  | .replicaDone key chip gen => execReplicaDone key chip gen s
  | .causeEntryClear n v => execCauseEntryClear n v s
  | .vfInterruptInject v => execVfInterruptInject v s
  | .reportRingEnable fn => execReportRingEnable fn s
  | .partitionReset v => execPartitionReset v s
  | .resetDrainEnd p => execResetDrainEnd p s
  | .vfFlr fn => execVfFlr fn s
  | .vfDisable => execVfDisable s
  | .vfEnable n => execVfEnable n s
  | .pfReset conv => execPfReset conv s
  | .guestTimeApply f => execGuestTimeApply f s
  | .linkDown n => execLinkDown n s
  | .linkUp n lanes => execLinkUp n lanes s
  | .timebaseSync t => execTimebaseSync t s
  | .checkpointSave v => execCheckpointSave v s
  | .checkpointRestore v => execCheckpointRestore v s
  | .checkpointDone err => execCheckpointDone err s
  | .expanderDown port => execExpanderDown port s
  | .debugStop ctx => execDebugStop ctx s
  | .debugRun ctx => execDebugRun ctx s
  | .debugStep ctx => execDebugStep ctx s
  | .debugRegRead ctx => execDebugRegRead ctx s
  | .debugRegWrite ctx v => execDebugRegWrite ctx v s
  | .debugDrainTimeout ctx => execDebugDrainTimeout ctx s
  | .debugArm p v => execDebugArm p v s
  | .freeze => execFreeze s
  | .eccCorrected => execEccCorrected s
  | .eccUncorrectable place => execEccUncorrectable place s
  | .unitFence kind unit => execUnitFence kind unit s
  | .patrolScrub => execPatrolScrub s
  | .powerLimitCross above => execPowerLimitCross above s
  | .thermalShutdown => execThermalShutdown s
  | .spdmRequest bytes => execSpdmRequest bytes s
  | .bringUp => execBringUp s
  | .registerWrite fn off v => execRegisterWrite fn off v s
  | .expanderUp port size => execExpanderUp port size s
  | .thermalLimitReached => execThermalLimitReached s
  | .firmwareUpdateStaged img => execFirmwareUpdateStaged img s
  | .ctxCommandDone fn => execCtxCommandDone fn s
  | .loopSaveDone ctx => execLoopSaveDone ctx s
  | .tdiscardDone id => execTdiscardDone id s
  | .landingsAnswered id => execLandingsAnswered id s

end Sys2Proof.Machine
end

