-- ==== Sys2Proof/Machine/Step.lean ====
section
/-! DEFINITION. One step of the machine: a slot of an executing squad, a step of the device, or a tick of the timebase, as State.turn says; then what comes next is chosen. -/
namespace Sys2Proof.Machine

/-- What follows an outcome: a next state goes on, a stop stays. -/
def after (o : Host.Outcome State Fault Refusal) (f : State → State) : Host.Outcome State Fault Refusal :=
  match o with
  | .next t => .next (f t)
  | .fault r => .fault r
  | .refused r => .refused r

/-- One step. -/
def step (s : State) : Host.Outcome State Fault Refusal :=
  if s.awake then
    match s.turn with
    | .tick => .next s.tick.reschedule
    | .event e => after (runEv e s) fun t => (State.observe s t).reschedule
    | .squad n =>
      match s.squadFirst n with
      | none => .next s.reschedule
      | some s0 =>
        match s0.slotInstr with
        | none => .next s0.badSlot.reschedule
        | some (i, len) => after (exec i s0) fun t => (State.afterSlot s0 t len (decide (i.chain = 1))).reschedule
  else .next s.sleep

/-- The instruction of a word as the first slot of a packet that a squad of core 0 executes next (log 5): the words above it are 0, its packet has no guard and waits on nothing. -/
def State.withFetchWord (s : State) (nbits w : Nat) : State :=
  let v := w % 2 ^ nbits
  s.withPacket [BitVec.ofNat 32 v, BitVec.ofNat 32 (v / 2 ^ 32), BitVec.ofNat 32 (v / 2 ^ 64)]

end Sys2Proof.Machine
end

