-- ==== Sys2Proof/Laws/Events.lean ====
section
/-! SUPPORT. A step that waited is the step of its constructor of Instr. -/
namespace Sys2Proof.Machine

/-- The constructor of Instr that a waiting step is. Lean compiles no value of an inductive beyond its 245th constructor, so this definition is for statements alone. -/
noncomputable def evInstr : Ev → Instr
  | .packetIssue g n => .packetIssue g n
  | .countedComplete id => .countedComplete id
  | .packetCacheFill id => .packetCacheFill id
  | .brandFill id => .brandFill id
  | .pcTableEvict g => .pcTableEvict g
  | .reconRelease g slot => .reconRelease g slot
  | .teamForm cl => .teamForm cl
  | .teamFree id => .teamFree id
  | .shapeSpill g slot => .shapeSpill g slot
  | .spillReturn g => .spillReturn g
  | .spillReload g slot => .spillReload g slot
  | .qtailWrite fn q v => .qtailWrite fn q v
  | .queueService dq => .queueService dq
  | .ringWatchTimeout dq => .ringWatchTimeout dq
  | .headWriteback dq => .headWriteback dq
  | .headWritebackRetry fn q => .headWritebackRetry fn q
  | .queueEnable fn q => .queueEnable fn q
  | .queueDisable fn q => .queueDisable fn q
  | .queueRestart fn q => .queueRestart fn q
  | .queueRestartSkip fn q => .queueRestartSkip fn q
  | .launchStart key => .launchStart key
  | .waitwCheck dq => .waitwCheck dq
  | .waitwTimeout dq => .waitwTimeout dq
  | .signalStore dq => .signalStore dq
  | .graphLoop dq => .graphLoop dq
  | .graphEnd dq => .graphEnd dq
  | .replicationReceive r => .replicationReceive r
  | .startReady key chip gen => .startReady key chip gen
  | .startReleaseReceive key gen t => .startReleaseReceive key gen t
  | .startBarrierIssue key => .startBarrierIssue key
  | .startBarrierTimeout key => .startBarrierTimeout key
  | .startAbortReceive key gen => .startAbortReceive key gen
  | .ctxCreate fn ctx => .ctxCreate fn ctx
  | .ctxReload fn ctx => .ctxReload fn ctx
  | .ctxDestroy fn ctx => .ctxDestroy fn ctx
  | .ctxCmdNone fn ctx => .ctxCmdNone fn ctx
  | .standPlace key => .standPlace key
  | .partitionWrite p reg v => .partitionWrite p reg v
  | .epochBoundary => .epochBoundary
  | .chunkRequest id => .chunkRequest id
  | .clusterLend p => .clusterLend p
  | .clusterReclaim gcl => .clusterReclaim gcl
  | .reclaimHandover gcl => .reclaimHandover gcl
  | .intervalBoundary ctx => .intervalBoundary ctx
  | .mergeCountReceive chip ctx k count => .mergeCountReceive chip ctx k count
  | .mergeMinimumSend ctx => .mergeMinimumSend ctx
  | .mergeResultReceive ctx k res => .mergeResultReceive ctx k res
  | .loopStep ctx => .loopStep ctx
  | .umpireRound => .umpireRound
  | .clockStepApply gcl => .clockStepApply gcl
  | .intervalWrite fn ctx v => .intervalWrite fn ctx v
  | .loopSave fn ctx => .loopSave fn ctx
  | .loopClear fn ctx => .loopClear fn ctx
  | .actuatorLimitWrite fn ctx k v => .actuatorLimitWrite fn ctx k v
  | .btFieldWrite fn ctx reg v => .btFieldWrite fn ctx reg v
  | .storeAck id => .storeAck id
  | .landingFaultPark id => .landingFaultPark id
  | .holdQueueRoom stack => .holdQueueRoom stack
  | .invalidatePage fn => .invalidatePage fn
  | .invalidateTag fn => .invalidateTag fn
  | .invalidateFunction fn => .invalidateFunction fn
  | .invalidateDone fn => .invalidateDone fn
  | .copyComplete id => .copyComplete id
  | .ringAppend m => .ringAppend m
  | .sendStatus id status => .sendStatus id status
  | .treeContribution t => .treeContribution t
  | .matrixOpComplete team => .matrixOpComplete team
  | .batchComplete team => .batchComplete team
  | .operandFault team => .operandFault team
  | .splitkPartArrive id => .splitkPartArrive id
  | .watchTrigger g slot lane => .watchTrigger g slot lane
  | .mwaitTimeout g slot lane => .mwaitTimeout g slot lane
  | .hostWrite pa bytes => .hostWrite pa bytes
  | .hostRead pa n => .hostRead pa n
  | .peerAccess r => .peerAccess r
  | .trapDelivery g slot => .trapDelivery g slot
  | .faultNotice id => .faultNotice id
  | .ghostDelivery g slot => .ghostDelivery g slot
  | .kill key cause => .kill key cause
  | .switchOut g => .switchOut g
  | .sliceEnd g => .sliceEnd g
  | .budgetOverrun g => .budgetOverrun g
  | .swapIn g => .swapIn g
  | .saveWriteDone g => .saveWriteDone g
  | .completionPoint key => .completionPoint key
  | .replicaDone key chip gen => .replicaDone key chip gen
  | .causeEntryClear n v => .causeEntryClear n v
  | .vfInterruptInject v => .vfInterruptInject v
  | .reportRingEnable fn => .reportRingEnable fn
  | .partitionReset v => .partitionReset v
  | .resetDrainEnd p => .resetDrainEnd p
  | .vfFlr fn => .vfFlr fn
  | .vfDisable => .vfDisable
  | .vfEnable n => .vfEnable n
  | .pfReset conv => .pfReset conv
  | .guestTimeApply f => .guestTimeApply f
  | .linkDown n => .linkDown n
  | .linkUp n lanes => .linkUp n lanes
  | .timebaseSync t => .timebaseSync t
  | .checkpointSave v => .checkpointSave v
  | .checkpointRestore v => .checkpointRestore v
  | .checkpointDone err => .checkpointDone err
  | .expanderDown port => .expanderDown port
  | .debugStop ctx => .debugStop ctx
  | .debugRun ctx => .debugRun ctx
  | .debugStep ctx => .debugStep ctx
  | .debugRegRead ctx => .debugRegRead ctx
  | .debugRegWrite ctx v => .debugRegWrite ctx v
  | .debugDrainTimeout ctx => .debugDrainTimeout ctx
  | .debugArm p v => .debugArm p v
  | .freeze => .freeze
  | .eccCorrected => .eccCorrected
  | .eccUncorrectable place => .eccUncorrectable place
  | .unitFence kind unit => .unitFence kind unit
  | .patrolScrub => .patrolScrub
  | .powerLimitCross above => .powerLimitCross above
  | .thermalShutdown => .thermalShutdown
  | .spdmRequest bytes => .spdmRequest bytes
  | .bringUp => .bringUp
  | .registerWrite fn off v => .registerWrite fn off v
  | .expanderUp port size => .expanderUp port size
  | .thermalLimitReached => .thermalLimitReached
  | .firmwareUpdateStaged img => .firmwareUpdateStaged img
  | .ctxCommandDone fn => .ctxCommandDone fn
  | .loopSaveDone ctx => .loopSaveDone ctx
  | .tdiscardDone id => .tdiscardDone id
  | .landingsAnswered id => .landingsAnswered id

/-- Taking a step that waited is executing its constructor. -/
theorem runEv_exec (e : Ev) (s : State) : runEv e s = exec (evInstr e) s := by
  cases e <;> rfl

end Sys2Proof.Machine
end

