-- ==== Sys2Proof/Safety.lean ====
section
/-! DEFINITION. What claims say of states and runs: the canonical forms of memory, the fields with limits, a run that never stops, and what a slot of a squad does to the stands that take part. -/
namespace Sys2Proof

/-- Device memory, die-shared scratch and every scratchpad allocation are in their canonical form, and the tables of line copies hold each copy once, in order. -/
def MemOk (s : Machine.State) : Prop :=
  Machine.Memory.wf s.mem = true ∧ Machine.Memory.wf s.dsh = true ∧ (∀ c ∈ s.scr, Machine.Memory.wf c.2 = true) ∧ Store.risesFrom 0 s.l1 = true ∧ Store.risesFrom 0 s.sec = true

/-- A table whose keys were given out in rising order, none of them the next number to give out. -/
def Numbered {α : Type} (seq : Nat) (m : Store α) : Prop := Store.risesFrom 0 m = true ∧ ∀ e ∈ m, e.1 < seq

/-- The tables of the machine hold each key once, in order: launches, teams, requests, operations, copies, walks, misses and fills by the numbers given to them; contexts, queues, stands, lent clusters and cause entries by name. A squad names each of its stands once, by a slot below 32 (R125). -/
def TablesOk (s : Machine.State) : Prop :=
  Numbered s.seq s.launches ∧ Numbered s.seq s.teams ∧ Numbered s.seq s.reqs ∧ Numbered s.seq s.ops ∧ Numbered s.seq s.cpys ∧ Numbered s.seq s.walks ∧ Numbered s.seq s.misses ∧ Numbered s.seq s.fills ∧
  Store.risesFrom 0 s.ctxs = true ∧ Store.risesFrom 0 s.queues = true ∧ Store.risesFrom 0 s.stands = true ∧ Store.risesFrom 0 s.lent = true ∧ Store.risesFrom 0 s.regs.cause = true ∧
  ∀ q ∈ s.issue, (q.mem.map fun m => m.1).Nodup ∧ ∀ m ∈ q.mem, m.1 < 32

/-- RH_CHIPID holds a chip number (R416). -/
def ChipOk (s : Machine.State) : Prop := s.pkg.chip < 128

/-- A run of n steps in which no step stops the machine. -/
def SafeRun (n : Nat) (s : Machine.State) : Prop :=
  match n with
  | 0 => True
  | k + 1 => match Machine.step s with
    | .next t => SafeRun k t
    | .fault _ => False
    | .refused _ => False

namespace Machine

/-- The squad that executes: the head of the issue list, its members named once each by their stand slots (R125). -/
def Executes (s : State) (sq : Squad) : Prop :=
  s.issue.head? = some sq ∧ (sq.mem.map fun m => m.1).Nodup ∧ ∀ m ∈ sq.mem, m.1 < 32

/-- A stand with participants in the executing slot (R144), as the environment that the slot's instruction runs in. -/
def Takes (s : State) (sq : Squad) (e : Env) : Prop := ∃ m ∈ sq.mem, s.env sq m = some e ∧ e.q ≠ 0

/-- Nothing makes a stand that takes part wait or trap before the instruction has its effect: no register it names is spilled (R142), no handler in mode 0 writes a register closed to it (R361), and the pool has n granules for each member of the squad (R140). -/
def Clear (s : State) (sq : Squad) (i : Instr) (n : Nat) : Prop :=
  n * sq.mem.length ≤ s.freePool sq.g ∧ ∀ e, Takes s sq e → e.shut i = false ∧ e.raw.outRegs i.regs = []

/-- Everything but the stands and the performance counters is as before. -/
def SameOutside (s t : State) : Prop := ∃ sts pmc, t = { s with stands := sts, regs := { s.regs with pmc := pmc } }

/-- A slot changes each stand that takes part as P says, as the stand's code sees it; granules kept for the stand are spent where it took more (R143); every other stand, and everything outside the stands but the performance counters, is as before. -/
def Does (s : State) (sq : Squad) (t : State) (P : Env → Stand → Prop) : Prop :=
  SameOutside s t ∧
  (∀ e, Takes s sq e → ∃ w, t.stand e.key = some ((e.raw.back sq.hdl w).spent e.raw e.q) ∧ P e w) ∧
  (∀ key, (∀ e, Takes s sq e → e.key ≠ key) → t.stand key = s.stand key)

/-- The squads that execute, after the lanes of each stand that takes part have left them (R169). -/
def leftBy (s : State) (sq : Squad) (gone : Env → W) : List Squad := s.envs.foldl (fun is e => is.map (Squad.drop e.key sq.hdl (gone e))) s.issue
/-- A slot changes each stand that takes part to w, and the lanes gone leave the squad; every other stand, and everything but the stands, the executing squads and the performance counters, is as before. -/
def Sends (s : State) (sq : Squad) (t : State) (gone : Env → W) (w : Env → Stand) : Prop :=
  (∃ sts pmc, t = { s with stands := sts, issue := leftBy s sq gone, regs := { s.regs with pmc := pmc } }) ∧
  (∀ e, Takes s sq e → t.stand e.key = some (w e)) ∧
  (∀ key, (∀ e, Takes s sq e → e.key ≠ key) → t.stand key = s.stand key)
/-- Change the threads of the participants, each as its lane says. -/
def Env.each (e : Env) (f : Nat → Thread → Thread) : Stand := (lanesOf e.q).foldl (fun st l => st.onT e.sq.hdl l (f l)) e.raw

/-- A lane that takes part, of a thread that is live. -/
def Env.acts (e : Env) (l : Nat) : Prop := inMask e.q l = true ∧ inMask e.st.live l = true
/-- A live lane that does not take part. -/
def Env.rests (e : Env) (l : Nat) : Prop := inMask e.q l = false ∧ inMask e.st.live l = true

/-- The stand's registers after a slot that has raised sticky flags: the flags are added, and counted as the bundle's own (R152, R184). -/
def Raises (e : Env) (w : Stand) (fl : Flags) : Prop := w.fstk = e.st.fstk ||| fl ∧ w.raisedIn e.bundle = e.st.raisedIn e.bundle ||| fl

/-- An instruction that writes one V register: in each stand that takes part, the value f in every lane that acts and the old value in every live lane that rests; the sticky flags fl are added; every other register, and everything else, is as before. ok is what the claim asks of each stand beforehand. -/
def SetsVF (i : Instr) (d : Nat) (ok : Env → Prop) (f : State → Env → Nat → W) (fl : State → Env → Flags) : Prop :=
  ∀ s sq, Executes s sq → Clear s sq i 16 → (∀ e, Takes s sq e → d < e.st.v.length ∧ ok e) →
    ∃ t, exec i s = .next t ∧ Does s sq t fun e w =>
      (∀ l, e.acts l → w.rv d l = f s e l) ∧ (∀ l, e.rests l → w.rv d l = e.st.rv d l) ∧
      (∀ n, n ≠ d → w.v[n]? = e.st.v[n]?) ∧ Raises e w (fl s e) ∧ w = { e.st with v := w.v, fstk := w.fstk, raised := w.raised }
/-- The same without a sticky flag and without a condition. -/
def SetsV (i : Instr) (d : Nat) (f : Env → Nat → W) : Prop := SetsVF i d (fun _ => True) (fun _ e l => f e l) (fun _ _ => 0)
/-- An instruction that writes a pair of V registers. -/
def SetsPair (i : Instr) (d : Nat) (f : State → Env → Nat → DW) (fl : State → Env → Flags) : Prop :=
  ∀ s sq, Executes s sq → Clear s sq i 32 → (∀ e, Takes s sq e → d + 1 < e.st.v.length) →
    ∃ t, exec i s = .next t ∧ Does s sq t fun e w =>
      (∀ l, e.acts l → w.rv64 d l = f s e l) ∧ (∀ l, e.rests l → w.rv64 d l = e.st.rv64 d l) ∧
      (∀ n, n ≠ d → n ≠ d + 1 → w.v[n]? = e.st.v[n]?) ∧ Raises e w (fl s e) ∧ w = { e.st with v := w.v, fstk := w.fstk, raised := w.raised }
/-- An instruction that writes one predicate register: the value f in every participant, the old value in every other lane. -/
def SetsPF (i : Instr) (d : Nat) (f : Env → Nat → Bool) (fl : Env → Flags) : Prop :=
  ∀ s sq, Executes s sq → Clear s sq i 0 → (∀ e, Takes s sq e → d < 127 ∧ d < e.st.p.length) →
    ∃ t, exec i s = .next t ∧ Does s sq t fun e w =>
      (∀ l, l < 32 → w.rp d l = if inMask e.q l then f e l else e.st.rp d l) ∧
      (∀ n, n ≠ d → w.p[n]? = e.st.p[n]?) ∧ Raises e w (fl e) ∧ w = { e.st with p := w.p, fstk := w.fstk, raised := w.raised }
/-- The same without a sticky flag. -/
def SetsP (i : Instr) (d : Nat) (f : Env → Nat → Bool) : Prop := SetsPF i d f fun _ => 0
/-- The word whose bit i is f i. -/
def wordOf (f : Nat → Bool) : W := maskOf (lanes32.filter f)
/-- The sticky flags of the participants, united. -/
def Env.flags (e : Env) (f : Nat → Flags) : Flags := (lanesOf e.q).foldl (fun fl l => fl ||| f l) 0

/-! Squads of one stand -/

/-- t is s but for the performance counters and the order of use of brand entries (R230). -/
def SameButCounters (s t : State) : Prop := ∃ pmc lru, t = { s with lru := lru, regs := { s.regs with pmc := pmc } }
/-- A slot of a squad of one stand with participants, which nothing makes wait or trap before its instruction has its effect (R142, R144, R361). -/
def Solo (s : State) (sq : Squad) (e : Env) (i : Instr) : Prop :=
  s.issue.head? = some sq ∧ (∃ m, sq.mem = [m] ∧ m.1 < 32 ∧ s.env sq m = some e) ∧ e.q ≠ 0 ∧ e.shut i = false ∧ e.raw.outRegs i.regs = []
/-- No participant waits for the ordering a slot asks for, and none has an earlier store whose fault a release delivers (R254, R316, R322). -/
def Env.free (e : Env) (s : State) (o : Order) : Prop :=
  (∀ l, inMask e.q l = true → s.blocked o e l = false ∧ (o.rel = true → e.sq.hdl = false → s.parkedOf e.sq.g e.slot l = none)) ∧
  (o.rel = true → s.pendWait e.sq.g o.scope s.markOf e.sq.hdl = false)
/-- An access of n bytes passes the checks of R250: it is aligned, in range, and its page's entry is in the core's brand table and gives the permissions; region 4 needs no entry. -/
def Env.may (e : Env) (s : State) (a n : Nat) (need : Need) : Prop :=
  a % n = 0 ∧ s.rangeBad (s.partOf e.ctx) a = false ∧ (region (s.normal a) = 4 ∨ ∃ b, s.brandOf e.sq.g e.ctx (s.normal a) = some b ∧ b.gives need = true)
/-- The state once an order's acquire has ended the leases of its scope (R316). -/
def State.acquired (s : State) (e : Env) (o : Order) : State := if o.acq then s.endLeases e.sq.g o.scope else s
/-- One lane of a counted operation that is to read n bytes from an address. -/
def olane (l a n : Nat) (np : Bool) : OLane := { lane := l, addr := a, n := n, bit := 0, scale := none, got := [], fault := none, np := np }
/-- The counted operation that a slot starts in all participants (R103 to R105). -/
def Env.op (e : Env) (s : State) (kind : OpKind) (d nreg scope : Nat) (acq scr : Bool) (tid : Nat) (lane : Nat → OLane) : Op :=
  { g := e.sq.g, slot := e.slot, ctx := e.l.ctx, launch := e.sq.launch, pkt := e.l.pkt e.sq.pc, pslot := e.sq.k, kind := kind, d := d, nreg := nreg, flag := e.flag, q := e.q,
    scope := scope, acq := acq, tid := tid, scr := scr, lanes := (lanesOf e.q).map lane, hdl := e.sq.hdl, since := s.now, sq := e.sq.id, who := e.q }
/-- The requests of a slot: one for each line its lanes name, numbered from n on, each with the lanes of its line (R260). -/
def Env.requests (e : Env) (s : State) (kind : ReqKind) (acc scope : Nat) (rel : Bool) (op : Option Nat) (n : Nat) (lanes : List RLane) : List (Nat × Req) :=
  (linesOf (lanes.map fun a => a.addr)).mapIdx fun i ln =>
    let ls := lanes.filter fun a => decide (lineOf a.addr = ln)
    let x := (ls.headD (rlane 0 0 [] [])).addr
    (n + i, { g := e.sq.g, slot := e.slot, ctx := e.l.ctx, tag := s.tagAt e x, launch := e.sq.launch, pkt := e.l.pkt e.sq.pc, pslot := e.sq.k, kind := kind, acc := acc, scope := scope,
              rel := rel, lanes := ls, op := op, tid := 0, cmd := none, team := none, ord := none, hdl := e.sq.hdl, np := s.npAt e x, sq := e.sq.id,
              inSec := kind.plain rel x && (Store.find (copyKey (sectorOf (clusterOf e.sq.g)) (s.tagAt e x) x) s.sec).isSome })
/-- A thread without its watch and without the word a WAITA has seen. -/
def Thread.bare (t : Thread) : Thread := { t with watch := none, w := { t.w with hit := none } }
/-- A stand without its threads' watches: what the writes of others leave alone. -/
def Stand.bare (st : Stand) : Stand := { st with thr := st.thr.map Thread.bare, h := st.h.map fun h => { h with thr := h.thr.map Thread.bare } }
/-- The stands of t are those of s but for watches. -/
def SameStands (s t : State) : Prop := ∀ key, (t.stand key).map Stand.bare = (s.stand key).map Stand.bare
/-- A slot of a squad of one stand with one participant, lane l. -/
def Lone (s : State) (sq : Squad) (e : Env) (i : Instr) (l : Nat) : Prop := Solo s sq e i ∧ e.q = bit l ∧ l < 32
/-- The state with the participant parked at the slot it executes, out of its squads (R123). -/
def State.waits (s : State) (e : Env) (l : Nat) (w : Wait) (f : Thread → Thread) : State :=
  (s.dropLanes e.key e.sq.hdl (bit l)).onT e.key e.sq.hdl l fun t => { f t with st := .parked w, pc := e.sq.pc, slot := e.sq.k }
/-- Where a waiting thread goes on: the slot after its instruction, or the next packet. -/
def Thread.onward (t : Thread) : BitVec 52 × Nat := if 3 ≤ t.w.next then (t.pc + 1, 0) else (t.pc, t.w.next)
/-- A thread made ready at a packet and a slot. -/
def Thread.goes (cyc : Nat) (p : BitVec 52 × Nat) (t : Thread) : Thread := { t with st := .ready, since := cyc, pc := p.1, slot := p.2 }

/-! The front end -/

/-- A virtual address of a context whose home the front end reaches in device memory, at h. -/
def State.homeAt (s : State) (c x : Nat) (h : Home) : Prop :=
  s.normal x < 2 ^ 56 ∧ region (s.normal x) < 5 ∧ s.land c (s.normal x) false needNone = .ok h ∧ h.sp = .dev
/-- Device memory of u is that of s with bytes written at an address. -/
def Wrote (s u : State) (pa : Nat) (bs : List Byte) : Prop :=
  ∀ a, memGet u.mem a = if pa ≤ a ∧ a < pa + bs.length then bs.getD (a - pa) 0 else memGet s.mem a
/-- A queue stops with a status and a node, and its entry of the cause table is pending with its context; all else but its function's ring and the messages is as before (R50, R400, R404). -/
def QueueStops (s u : State) (dq err node : Nat) : Prop :=
  (∃ fns cause outbox fresh, u = { s with queues := Store.put dq { s.queue dq with stop := true, err := err, node := node, waitw := none, watch := none } s.queues, fns := fns, outbox := outbox, fresh := fresh, regs := { s.regs with cause := cause } }) ∧
  (u.causeEnt (0x200 + dq)).pend = true ∧ (u.causeEnt (0x200 + dq)).ctx = (s.queue dq).ctx

end Machine

end Sys2Proof
end

