-- ==== Sys2Proof/Certificates/Slice0/Obligations.lean ====
section
/-! DEFINITION. The statements for the provers. -/
open Sys2Proof Sys2Proof.Machine

/-! Registers of a stand: moves, integers, logic, bit fields -/

/-- MOV writes operand B to V[D]; MOV.S writes it, as the lowest participant reads it, to S[D] of each stand that takes part (R148). -/
def MovesClaim : Prop :=
  (∀ x, SetsV (.mov x) x.d fun e l => e.st.src x.b l) ∧
  (∀ x s sq, Executes s sq → Clear s sq (.movS x) 0 → ∃ t, exec (.movS x) s = .next t ∧ Does s sq t fun e w =>
    w = { e.st with s := e.st.s.set x.d (e.st.src x.b (lowest e.q)) })

/-- SEL writes V[A] where P[PE] is 1 and operand B where it is 0; PE 127 selects V[A] (R149). -/
def Obligations.Select : Prop :=
  (∀ x, SetsV (.sel x) x.d fun e l => if e.st.rp x.pe l then e.st.rv x.a l else e.st.src x.b l) ∧
  (∀ (x : RSel), x.pe = 127 → SetsV (.sel x) x.d fun e l => e.st.rv x.a l)

/-- The IADD group and the IMUL group in exact integers (R153, R154). -/
def Obligations.IntegerArithmetic : Prop :=
  (∀ x, SetsV (.iadd x) x.d fun e l => BitVec.ofInt 32 ((e.st.rv x.a l).toInt + (e.st.src x.b l).toInt)) ∧
  (∀ x, SetsV (.isub x) x.d fun e l => BitVec.ofInt 32 ((e.st.rv x.a l).toInt - (e.st.src x.b l).toInt)) ∧
  (∀ x, SetsV (.iadds x) x.d fun e l => BitVec.ofInt 32 (max (-2147483648) (min 2147483647 ((e.st.rv x.a l).toInt + (e.st.src x.b l).toInt)))) ∧
  (∀ x, SetsV (.isubs x) x.d fun e l => BitVec.ofInt 32 (max (-2147483648) (min 2147483647 ((e.st.rv x.a l).toInt - (e.st.src x.b l).toInt)))) ∧
  (∀ x, SetsV (.ineg x) x.d fun e l => BitVec.ofInt 32 (-(e.st.rv x.a l).toInt)) ∧
  (∀ x, SetsV (.iabs x) x.d fun e l => if (e.st.rv x.a l).toInt < 0 then BitVec.ofInt 32 (-(e.st.rv x.a l).toInt) else e.st.rv x.a l) ∧
  (∀ x, SetsV (.imin x) x.d fun e l => if (e.st.src x.b l).toInt < (e.st.rv x.a l).toInt then e.st.src x.b l else e.st.rv x.a l) ∧
  (∀ x, SetsV (.imax x) x.d fun e l => if (e.st.rv x.a l).toInt < (e.st.src x.b l).toInt then e.st.src x.b l else e.st.rv x.a l) ∧
  (∀ x, SetsV (.imul x) x.d fun e l => BitVec.ofInt 32 ((e.st.rv x.a l).toInt * (e.st.src x.b l).toInt)) ∧
  (∀ x, SetsV (.imulh x) x.d fun e l => (((e.st.rv x.a l).signExtend 64 * (e.st.src x.b l).signExtend 64) >>> 32).setWidth 32) ∧
  (∀ x, SetsV (.imulhu x) x.d fun e l => (((e.st.rv x.a l).setWidth 64 * (e.st.src x.b l).setWidth 64) >>> 32).setWidth 32) ∧
  (∀ x, SetsV (.imad x) x.d fun e l => BitVec.ofInt 32 ((e.st.rv x.a l).toInt * (e.st.src x.b l).toInt + (e.st.src x.e l).toInt)) ∧
  (∀ x, SetsV (.imadh x) x.d fun e l =>
    (((e.st.rv x.a l).signExtend 64 * (e.st.src x.b l).signExtend 64) >>> 32).setWidth 32 + e.st.src x.e l)

/-- The LOGIC group bit by bit, and the SHIFT group in exact integers, a rotation bit by bit (R155, R156). -/
def LogicAndShiftsClaim : Prop :=
  (∀ x, SetsV (.and x) x.d fun e l => wordOf fun i => inMask (e.st.rv x.a l) i && inMask (e.st.src x.b l) i) ∧
  (∀ x, SetsV (.or x) x.d fun e l => wordOf fun i => inMask (e.st.rv x.a l) i || inMask (e.st.src x.b l) i) ∧
  (∀ x, SetsV (.xor x) x.d fun e l => wordOf fun i => inMask (e.st.rv x.a l) i != inMask (e.st.src x.b l) i) ∧
  (∀ x, SetsV (.andn x) x.d fun e l => wordOf fun i => inMask (e.st.rv x.a l) i && !inMask (e.st.src x.b l) i) ∧
  (∀ x, SetsV (.orn x) x.d fun e l => wordOf fun i => inMask (e.st.rv x.a l) i || !inMask (e.st.src x.b l) i) ∧
  (∀ x, SetsV (.xnor x) x.d fun e l => wordOf fun i => inMask (e.st.rv x.a l) i == inMask (e.st.src x.b l) i) ∧
  (∀ x, SetsV (.shl x) x.d fun e l => BitVec.ofNat 32 ((e.st.rv x.a l).toNat * 2 ^ (e.st.src x.b l).toNat)) ∧
  (∀ x, SetsV (.shr x) x.d fun e l => BitVec.ofNat 32 ((e.st.rv x.a l).toNat / 2 ^ (e.st.src x.b l).toNat)) ∧
  (∀ x, SetsV (.sar x) x.d fun e l => BitVec.ofInt 32 ((e.st.rv x.a l).toInt / 2 ^ min (e.st.src x.b l).toNat 31)) ∧
  (∀ x, SetsV (.rol x) x.d fun e l => wordOf fun i => inMask (e.st.rv x.a l) ((i + 32 - (e.st.src x.b l).toNat % 32) % 32)) ∧
  (∀ x, SetsV (.ror x) x.d fun e l => wordOf fun i => inMask (e.st.rv x.a l) ((i + (e.st.src x.b l).toNat) % 32))

/-- The BITS group: fields of exact integers, and bit by bit (R157, R158). -/
def BitFieldsClaim : Prop :=
  (∀ x, SetsV (.bfe x) x.d fun e l => BitVec.ofInt 32
    (((e.st.rv x.a l).toInt / 2 ^ min (e.st.src x.b l).toNat 32).bmod (2 ^ min (e.st.src x.e l).toNat 32))) ∧
  (∀ x, SetsV (.bfeu x) x.d fun e l => BitVec.ofNat 32
    ((e.st.rv x.a l).toNat / 2 ^ min (e.st.src x.b l).toNat 32 % 2 ^ min (e.st.src x.e l).toNat 32)) ∧
  (∀ x, SetsV (.bfi x) x.d fun e l => wordOf fun i =>
    let pos := (e.st.src x.e l).toNat % 256
    let len := min ((e.st.src x.e l).toNat / 256 % 256) 32
    if pos ≤ i ∧ i < pos + len then inMask (e.st.src x.b l) (i - pos) else inMask (e.st.rv x.a l) i) ∧
  (∀ x, SetsV (.popc x) x.d fun e l => BitVec.ofNat 32 ((List.range 32).countP fun i => inMask (e.st.rv x.a l) i)) ∧
  (∀ x, SetsV (.clz x) x.d fun e l => BitVec.ofNat 32 ((List.range 32).takeWhile fun i => !inMask (e.st.rv x.a l) (31 - i)).length) ∧
  (∀ x, SetsV (.brev x) x.d fun e l => wordOf fun i => inMask (e.st.rv x.a l) (31 - i)) ∧
  (∀ x, SetsV (.prmtB x) x.d fun e l => wordOf fun i =>
    let c := (e.st.src x.e l).toNat / 16 ^ (i / 8) % 16
    let src := (e.st.rv x.a l).toNat + 2 ^ 32 * (e.st.src x.b l).toNat
    src.testBit (8 * (c % 8) + if c < 8 then i % 8 else 7)) ∧
  (∀ x, SetsV (.prmtN x) x.d fun e l => wordOf fun i =>
    let c := (e.st.src x.e l).toNat / 16 ^ (i / 4) % 16
    let src := (e.st.rv x.a l).toNat + 2 ^ 32 * (e.st.src x.b l).toNat
    src.testBit (4 * c + i % 4))

/-- Logic, shifts and bit fields. -/
def Obligations.LogicShiftsAndBits : Prop := LogicAndShiftsClaim ∧ BitFieldsClaim

/-- The ICMP group, signed and unsigned, and the moves between predicates; PT reads as 1 (R159, R160). -/
def ComparisonsAndPredicatesClaim : Prop :=
  (∀ x, SetsP (.icmpEq x) x.d fun e l => decide (e.st.rv x.a l = e.st.src x.b l)) ∧
  (∀ x, SetsP (.icmpNe x) x.d fun e l => decide (e.st.rv x.a l ≠ e.st.src x.b l)) ∧
  (∀ x, SetsP (.icmpLt x) x.d fun e l => decide ((e.st.rv x.a l).toInt < (e.st.src x.b l).toInt)) ∧
  (∀ x, SetsP (.icmpLe x) x.d fun e l => decide ((e.st.rv x.a l).toInt ≤ (e.st.src x.b l).toInt)) ∧
  (∀ x, SetsP (.icmpGt x) x.d fun e l => decide ((e.st.src x.b l).toInt < (e.st.rv x.a l).toInt)) ∧
  (∀ x, SetsP (.icmpGe x) x.d fun e l => decide ((e.st.src x.b l).toInt ≤ (e.st.rv x.a l).toInt)) ∧
  (∀ x, SetsP (.icmpLtu x) x.d fun e l => decide ((e.st.rv x.a l).toNat < (e.st.src x.b l).toNat)) ∧
  (∀ x, SetsP (.icmpGeu x) x.d fun e l => decide ((e.st.src x.b l).toNat ≤ (e.st.rv x.a l).toNat)) ∧
  (∀ c d a b, SetsP (.pand { c := c, d := d, a := a, b := .v b }) d fun e l => e.st.rp a l && e.st.rp b l) ∧
  (∀ c d a b, SetsP (.por { c := c, d := d, a := a, b := .v b }) d fun e l => e.st.rp a l || e.st.rp b l) ∧
  (∀ c d a b, SetsP (.pxor { c := c, d := d, a := a, b := .v b }) d fun e l => e.st.rp a l != e.st.rp b l) ∧
  (∀ x, SetsP (.pnot x) x.d fun e l => !e.st.rp x.a l) ∧
  (∀ x, SetsP (.pmov x) x.d fun e l => e.st.rp x.a l) ∧
  (∀ (st : Stand) (l : Nat), st.rp 127 l = true)

/-- P2V gathers n predicates of a thread into a word and V2P spreads a word over n predicates, for a count n from 1 to 32 that stays within the declared predicates (R160). -/
def PredicatesAndWordsClaim : Prop :=
  (∀ x, SetsVF (.p2v x) x.d
    (fun e => ∀ l, inMask e.q l = true → 1 ≤ (e.st.src x.b l).toInt ∧ (e.st.src x.b l).toInt ≤ 32 ∧ x.a + (e.st.src x.b l).toInt ≤ e.l.hdr.pregs)
    (fun _ e l => wordOf fun i => decide (i < (e.st.src x.b l).toNat) && e.st.rp (x.a + i) l) fun _ _ => 0) ∧
  (∀ x s sq, Executes s sq → Clear s sq (.v2p x) 0 →
    (∀ e, Takes s sq e → e.l.hdr.pregs ≤ e.st.p.length ∧ e.l.hdr.pregs ≤ 96 ∧
      ∀ l, inMask e.q l = true → (e.raw.mode0 sq.hdl = true → x.d + (e.st.src x.b l).toNat ≤ 4) ∧ 1 ≤ (e.st.src x.b l).toInt ∧ (e.st.src x.b l).toInt ≤ 32 ∧ x.d + (e.st.src x.b l).toInt ≤ e.l.hdr.pregs) →
    ∃ t, exec (.v2p x) s = .next t ∧ Does s sq t fun e w =>
      (∀ l, l < 32 → ∀ n, n < 96 → w.rp n l =
        if inMask e.q l && decide (x.d ≤ n ∧ n < x.d + (e.st.src x.b l).toNat) then inMask (e.st.rv x.a l) (n - x.d) else e.st.rp n l) ∧
      w = { e.st with p := w.p })

/-- Integer comparisons and predicates. -/
def Obligations.ComparisonsAndPredicateMoves : Prop := ComparisonsAndPredicatesClaim ∧ PredicatesAndWordsClaim

/-! Special values -/

/-- GET writes a special value to V registers or, as the lowest participant reads it, to S registers; PUT sets the sticky flags, to which those that a floating-point slot of its own bundle has raised are added, or TMASKA inside a handler and nothing outside one (R151, R152). How the names hang together: TLIN is 32 × STAND + LANE and splits into the coordinates, GCORE into die, cluster and core. -/
def SpecialValuesClaim : Prop :=
  (∀ (x : RU), getWide x.a = false → SetsVF (.getV x) x.d (fun _ => True) (fun s e l => BitVec.ofNat 32 (getVal s e x.a l)) fun _ _ => 0) ∧
  (∀ (x : RU), getWide x.a = true → SetsPair (.getV x) x.d (fun s e l => BitVec.ofNat 64 (getVal s e x.a l)) fun _ _ => 0) ∧
  (∀ (x : RU) s sq, Executes s sq → Clear s sq (.getS x) 0 → ∃ t, exec (.getS x) s = .next t ∧ Does s sq t fun e w =>
    let v := getVal s e x.a (lowest e.q)
    w = { e.st with s := if getWide x.a then (e.st.s.set x.d (BitVec.ofNat 32 v)).set (x.d + 1) (BitVec.ofNat 32 (v / 2 ^ 32)) else e.st.s.set x.d (BitVec.ofNat 32 v) }) ∧
  (∀ (x : RDB) s sq, Executes s sq → Clear s sq (.put x) 0 → (x.d = 21 ∨ x.d = 29) → ∃ t, exec (.put x) s = .next t ∧ Does s sq t fun e w =>
    let v := e.st.src x.b (lowest e.q)
    w = if x.d = 21 then { e.st with fstk := v.setWidth 3 ||| e.st.raisedIn e.bundle } else if sq.hdl then { e.st with tmaska := v } else e.st) ∧
  (∀ (s : State) (e : Env) (l : Nat), getVal s e 4 l = l ∧ getVal s e 5 l = e.raw.num ∧ getVal s e 3 l = 32 * getVal s e 5 l + l ∧
    (0 < e.l.x → 0 < e.l.y → getVal s e 3 l = getVal s e 0 l + e.l.x * (getVal s e 1 l + e.l.y * getVal s e 2 l) ∧ getVal s e 0 l < e.l.x ∧ getVal s e 1 l < e.l.y) ∧
    (e.sq.g < 384 → getVal s e 11 l = e.sq.g ∧ e.sq.g = 96 * getVal s e 9 l + 4 * getVal s e 8 l + getVal s e 7 l ∧ getVal s e 7 l < 4 ∧ getVal s e 8 l < 24 ∧ getVal s e 9 l < 4))

/-- VIDXR and VIDXW reach the register that each thread chooses, checked against the declared count (R150). -/
def IndexedRegistersClaim : Prop :=
  (∀ (x : RB) s sq, Executes s sq → Clear s sq (.vidxr x) 16 →
    (∀ e, Takes s sq e → x.d < e.st.v.length ∧ e.raw.spilledV = [] ∧
      ∀ l, inMask e.q l = true → 0 ≤ (e.st.rv x.a l).toNat + (e.st.src x.b l).toInt ∧ (e.st.rv x.a l).toNat + (e.st.src x.b l).toInt < e.l.hdr.vregs) →
    ∃ t, exec (.vidxr x) s = .next t ∧ Does s sq t fun e w =>
      (∀ l, e.acts l → w.rv x.d l = e.st.rv ((e.st.rv x.a l).toNat + (e.st.src x.b l).toInt).toNat l) ∧
      (∀ l, e.rests l → w.rv x.d l = e.st.rv x.d l) ∧ (∀ n, n ≠ x.d → w.v[n]? = e.st.v[n]?) ∧ w = { e.st with v := w.v }) ∧
  (∀ (x : RB) s sq, Executes s sq → Clear s sq (.vidxw x) 512 →
    (∀ e, Takes s sq e → e.l.hdr.vregs ≤ e.st.v.length ∧ e.raw.spilledV = [] ∧ e.raw.mode0 sq.hdl = false ∧
      ∀ l, inMask e.q l = true → x.d + (e.st.rv x.a l).toNat < e.l.hdr.vregs) →
    ∃ t, exec (.vidxw x) s = .next t ∧ Does s sq t fun e w =>
      (∀ l, inMask e.st.live l = true → ∀ n, w.rv n l = if inMask e.q l ∧ n = x.d + (e.st.rv x.a l).toNat then e.st.src x.b l else e.st.rv n l) ∧
      w = { e.st with v := w.v })

/-- Moves, special values and indexed registers. -/
def Obligations.MovesAndSpecialValues : Prop := MovesClaim ∧ SpecialValuesClaim ∧ IndexedRegistersClaim

/-! Shapes -/

/-- Recompression takes the first shape in the order U, A, G8, G16, GR that holds the values of every live lane, of those that the write may use: all five, all but A, or the last three; no shape it takes changes a live lane's value, and A never comes where lane 0 or lane 1 has exited (R139). -/
def Obligations.RecompressionIsNarrowest : Prop :=
  ∀ (aU aA : Bool) (live : W) (vals : List W), live ≠ 0 → (aA = true → aU = true) →
    let v (l : Nat) : W := vals.getD l 0
    let r := recompress aU aA live vals
    let isU := aU = true ∧ ∀ l, inMask live l = true → v l = v (lowest live)
    let isA := aA = true ∧ inMask live 0 = true ∧ inMask live 1 = true ∧ ∀ l, inMask live l = true → v l = v 0 + BitVec.ofNat 32 l * (v 1 - v 0)
    let within (lo hi : Int) := ∀ l, inMask live l = true → lo ≤ (v l - v (lowest live)).toInt ∧ (v l - v (lowest live)).toInt ≤ hi
    (∀ l, inMask live l = true → r.lane l = v l) ∧
    (isU → r = .u (v (lowest live))) ∧ (¬isU → isA → r = .a (v 0) (v 1 - v 0)) ∧
    (¬isU → ¬isA → within (-128) 127 → ∃ d, r = .g8 (v (lowest live)) d) ∧
    (¬isU → ¬isA → ¬within (-128) 127 → within (-32768) 32767 → ∃ d, r = .g16 (v (lowest live)) d) ∧
    (¬isU → ¬isA → ¬within (-32768) 32767 → ∃ d, r = .gr d) ∧
    (inMask live 0 = false ∨ inMask live 1 = false → r.code ≠ 1)

/-- A write keeps the shape A where R138 says so: IADD and ISUB of operands U or A, IMUL with one of them U, SHL by a U amount from 0 to 31, and AFF of a U or A register by a U stride (R162), when every live lane takes part; a stride of 0 is stored as U. -/
def AffineShapesClaim : Prop :=
  ∀ s sq, Executes s sq → ∀ (x : RB),
    let keeps (i : Instr) (ok : W → W → W → Prop) (r : W → W → W → W → VReg) : Prop :=
      Clear s sq i 16 → (∀ e, Takes s sq e → x.d < e.st.v.length) → ∃ t, exec i s = .next t ∧ Does s sq t fun e w =>
        ∀ b1 s1 b2 s2, e.st.live &&& ~~~e.q = 0 → (e.st.v.getD x.a (.u 0)).aff = some (b1, s1) → e.st.affOf x.b = some (b2, s2) → ok s1 b2 s2 →
          w.v[x.d]? = some (r b1 s1 b2 s2)
    keeps (.iadd x) (fun _ _ _ => True) (fun b1 s1 b2 s2 => mkAff (b1 + b2) (s1 + s2)) ∧
    keeps (.isub x) (fun _ _ _ => True) (fun b1 s1 b2 s2 => mkAff (b1 - b2) (s1 - s2)) ∧
    keeps (.imul x) (fun _ _ s2 => s2 = 0) (fun b1 s1 b2 _ => mkAff (b1 * b2) (s1 * b2)) ∧
    keeps (.imul x) (fun s1 _ _ => s1 = 0) (fun b1 _ b2 s2 => mkAff (b1 * b2) (b1 * s2)) ∧
    keeps (.shl x) (fun _ b2 s2 => s2 = 0 ∧ b2.toNat < 32) (fun b1 s1 b2 _ => mkAff (b1 <<< b2.toNat) (s1 <<< b2.toNat)) ∧
    keeps (.aff x) (fun _ _ s2 => s2 = 0) (fun b1 s1 b2 _ => mkAff b1 (s1 + b2))

/-- AFF and SHAPE write what R162 and R163 say; EXPAND makes registers D to D + A raw and SQUEEZE recompresses them, and neither changes the value of a live lane, participant or not (R164). -/
def ShapeInstructionsClaim : Prop :=
  (∀ x, SetsV (.aff x) x.d fun e l => BitVec.ofInt 32 ((e.st.rv x.a l).toInt + l * (e.st.src x.b l).toInt)) ∧
  (∀ x, SetsV (.shape x) x.d fun e _ => BitVec.ofNat 32 ((e.st.v.getD x.a (.u 0)).code + 256 * (e.st.v.getD x.a (.u 0)).gran + 65536 * e.raw.hold)) ∧
  (∀ (x : RU) s sq, Executes s sq → (∀ e, Takes s sq e → x.d + x.a < e.st.v.length) →
    (Clear s sq (.expand x) (16 * (x.a + 1)) → ∃ t, exec (.expand x) s = .next t ∧ Does s sq t fun e w =>
      (∀ n l, inMask e.st.live l = true → w.rv n l = e.st.rv n l) ∧
      (∀ n, x.d ≤ n → n ≤ x.d + x.a → ∃ v, w.v[n]? = some (.gr v)) ∧
      (∀ n, n < x.d ∨ x.d + x.a < n → w.v[n]? = e.st.v[n]?) ∧ w = { e.st with v := w.v }) ∧
    (Clear s sq (.squeeze x) (16 * (x.a + 1)) → ∃ t, exec (.squeeze x) s = .next t ∧ Does s sq t fun e w =>
      (∀ n l, inMask e.st.live l = true → w.rv n l = e.st.rv n l) ∧
      (∀ n, x.d ≤ n → n ≤ x.d + x.a → w.v[n]? = some (recompress true true e.st.live (lanes32.map (e.st.rv n)))) ∧
      (∀ n, n < x.d ∨ x.d + x.a < n → w.v[n]? = e.st.v[n]?) ∧ w = { e.st with v := w.v }))

/-- Shapes: the affine rules and the instructions of the SHAPE group. -/
def Obligations.Shapes : Prop := AffineShapesClaim ∧ ShapeInstructionsClaim

/-! Cross-lane exchange and reduction -/

/-- SHFL reads the lane it names, or its own where no lane has that number; VOTE and ELECT judge the participants (R166, R167). -/
def CrossLaneClaim : Prop :=
  let shuffle (x : RB) (j : Nat → Nat → Int) (e : Env) (l : Nat) : W :=
    let k := j l (e.st.src x.b l).toNat
    if 0 ≤ k ∧ k ≤ 31 then e.st.rv x.a k.toNat else e.st.rv x.a l
  (∀ x, SetsV (.shflIdx x) x.d (shuffle x fun _ b => (b : Int) % 32)) ∧
  (∀ x, SetsV (.shflUp x) x.d (shuffle x fun l b => (l : Int) - b)) ∧
  (∀ x, SetsV (.shflDn x) x.d (shuffle x fun l b => (l : Int) + b)) ∧
  (∀ x, SetsV (.shflXor x) x.d (shuffle x fun l b => ((l ^^^ b % 32 : Nat) : Int))) ∧
  (∀ x, SetsP (.voteAny x) x.d fun e _ => lanes32.any fun m => inMask e.q m && e.st.rp x.a m) ∧
  (∀ x, SetsP (.voteAll x) x.d fun e _ => lanes32.all fun m => !inMask e.q m || e.st.rp x.a m) ∧
  (∀ x, SetsV (.voteBal x) x.d fun e _ => wordOf fun m => inMask e.q m && e.st.rp x.a m) ∧
  (∀ x, SetsP (.elect x) x.d fun e l => decide (∀ m < l, inMask e.q m = false))

/-- REDX gives every participant the same result: the sum, a value that no participant's is below or above, the conjunction, the disjunction; and the FP32 sum in lane order with its flags (R168). -/
def ReductionsClaim : Prop :=
  let all (i : RU → Instr) (P : RU → Env → W → Prop) : Prop := ∀ x, ∃ f : Env → W, (∀ e, e.q ≠ 0 → P x e (f e)) ∧
    ∀ s sq, Executes s sq → Clear s sq (i x) 16 → (∀ e, Takes s sq e → x.d < e.st.v.length) →
      ∃ t, exec (i x) s = .next t ∧ Does s sq t fun e w =>
        (∀ l, e.acts l → w.rv x.d l = f e) ∧ (∀ l, e.rests l → w.rv x.d l = e.st.rv x.d l) ∧
        (∀ n, n ≠ x.d → w.v[n]? = e.st.v[n]?) ∧ w = { e.st with v := w.v }
  let extreme (ord : W → W → Prop) (x : RU) (e : Env) (r : W) : Prop :=
    (∃ l, inMask e.q l = true ∧ r = e.st.rv x.a l) ∧ ∀ l, inMask e.q l = true → ord r (e.st.rv x.a l)
  all .redxAdd (fun x e r => r = BitVec.ofNat 32 (((lanesOf e.q).map fun l => (e.st.rv x.a l).toNat).sum)) ∧
  all .redxMin (extreme fun a b => a.toInt ≤ b.toInt) ∧ all .redxMax (extreme fun a b => b.toInt ≤ a.toInt) ∧
  all .redxMinu (extreme fun a b => a.toNat ≤ b.toNat) ∧ all .redxMaxu (extreme fun a b => b.toNat ≤ a.toNat) ∧
  all .redxAnd (fun x e r => r = wordOf fun i => lanes32.all fun l => !inMask e.q l || inMask (e.st.rv x.a l) i) ∧
  all .redxOr (fun x e r => r = wordOf fun i => lanes32.any fun l => inMask e.q l && inMask (e.st.rv x.a l) i) ∧
  (∀ x s sq, Executes s sq → Clear s sq (.redxFadd x) 16 → (∀ e, Takes s sq e → x.d < e.st.v.length) →
    ∃ t, exec (.redxFadd x) s = .next t ∧ Does s sq t fun e w =>
      let xs := (lanesOf e.q).map (e.st.rv x.a)
      let sum := xs.tail.foldl (fun (r : W × Flags) v => let y := fadd fp32 r.1.toNat v.toNat; (BitVec.ofNat 32 y.1, r.2 ||| y.2)) (xs.headD 0, 0)
      (∀ l, e.acts l → w.rv x.d l = sum.1) ∧ (∀ l, e.rests l → w.rv x.d l = e.st.rv x.d l) ∧
      (∀ n, n ≠ x.d → w.v[n]? = e.st.v[n]?) ∧ Raises e w sum.2 ∧ w = { e.st with v := w.v, fstk := w.fstk, raised := w.raised })

/-- The XLANE group. -/
def Obligations.CrossLaneAndReductions : Prop := CrossLaneClaim ∧ ReductionsClaim

/-! Floating point -/

/-- The FADD and FFMA groups: each participant's result and the flags of all of them (R184, R203, R204). What the arithmetic means is FusedSumsRoundOnce; what the order of numbers means is FloatComparisons. -/
def FloatArithmeticClaim : Prop :=
  let two (i : RB → Instr) (f : Nat → Nat → Nat × Flags) : Prop := ∀ x, SetsVF (i x) x.d (fun _ => True)
    (fun _ e l => BitVec.ofNat 32 (f (e.st.rv x.a l).toNat (e.st.src x.b l).toNat).1) fun _ e => e.flags fun l => (f (e.st.rv x.a l).toNat (e.st.src x.b l).toNat).2
  let three (i : RX → Instr) (f : Nat → Nat → Nat → Nat × Flags) : Prop := ∀ x, SetsVF (i x) x.d (fun _ => True)
    (fun _ e l => BitVec.ofNat 32 (f (e.st.rv x.a l).toNat (e.st.src x.b l).toNat (e.st.src x.e l).toNat).1)
    fun _ e => e.flags fun l => (f (e.st.rv x.a l).toNat (e.st.src x.b l).toNat (e.st.src x.e l).toNat).2
  two .fadd (fadd fp32) ∧ two .fsub (fsub fp32) ∧ two .fmul (fmul fp32) ∧ two .fmin (fminmax fp32 false) ∧ two .fmax (fminmax fp32 true) ∧
  three .ffma (ffma fp32 false false) ∧ three .ffms (ffma fp32 false true) ∧ three .fnma (ffma fp32 true false)

/-- The DFP group on pairs, an immediate or literal as the high word; the packed forms element by element; BDOT2, which reads its destination (R209 to R211). -/
def DoubleAndPackedClaim : Prop :=
  let dbl (i : RB → Instr) (f : Nat → Nat → Nat × Flags) : Prop := ∀ x, SetsPair (i x) x.d
    (fun _ e l => BitVec.ofNat 64 (f (e.st.rv64 x.a l).toNat (e.st.srcD x.b l).toNat).1) fun _ e => e.flags fun l => (f (e.st.rv64 x.a l).toNat (e.st.srcD x.b l).toNat).2
  let pk (n : Nat) (w : W) : Nat := w.toNat / 65536 ^ n % 65536
  let two (i : RB → Instr) (f : Nat → Nat → Nat × Flags) : Prop := ∀ x, SetsVF (i x) x.d (fun _ => True)
    (fun _ e l => BitVec.ofNat 32 ((f (pk 0 (e.st.rv x.a l)) (pk 0 (e.st.src x.b l))).1 + 65536 * (f (pk 1 (e.st.rv x.a l)) (pk 1 (e.st.src x.b l))).1))
    fun _ e => e.flags fun l => (f (pk 0 (e.st.rv x.a l)) (pk 0 (e.st.src x.b l))).2 ||| (f (pk 1 (e.st.rv x.a l)) (pk 1 (e.st.src x.b l))).2
  let three (i : RX → Instr) (f : Bin) : Prop := ∀ x, SetsVF (i x) x.d (fun _ => True)
    (fun _ e l => BitVec.ofNat 32 ((ffma f false false (pk 0 (e.st.rv x.a l)) (pk 0 (e.st.src x.b l)) (pk 0 (e.st.src x.e l))).1 +
      65536 * (ffma f false false (pk 1 (e.st.rv x.a l)) (pk 1 (e.st.src x.b l)) (pk 1 (e.st.src x.e l))).1))
    fun _ e => e.flags fun l => (ffma f false false (pk 0 (e.st.rv x.a l)) (pk 0 (e.st.src x.b l)) (pk 0 (e.st.src x.e l))).2 |||
      (ffma f false false (pk 1 (e.st.rv x.a l)) (pk 1 (e.st.src x.b l)) (pk 1 (e.st.src x.e l))).2
  dbl .dadd (fadd fp64) ∧ dbl .dmul (fmul fp64) ∧ dbl .dmin (fminmax fp64 false) ∧ dbl .dmax (fminmax fp64 true) ∧
  (∀ x, SetsPair (.dfma x) x.d (fun _ e l => BitVec.ofNat 64 (ffma fp64 false false (e.st.rv64 x.a l).toNat (e.st.srcD x.b l).toNat (e.st.srcD x.e l).toNat).1)
    fun _ e => e.flags fun l => (ffma fp64 false false (e.st.rv64 x.a l).toNat (e.st.srcD x.b l).toNat (e.st.srcD x.e l).toNat).2) ∧
  (∀ (st : Stand) (l : Nat) (i : Int) (w : W), (st.srcD (.lit w) l).toNat = 2 ^ 32 * w.toNat ∧ (st.srcD (.imm i) l).toNat = 2 ^ 32 * (BitVec.ofInt 32 i).toNat) ∧
  two .hadd2 (fadd fp16) ∧ two .hmul2 (fmul fp16) ∧ two .hmin2 (fminmax fp16 false) ∧ two .hmax2 (fminmax fp16 true) ∧ three .hfma2 fp16 ∧
  two .badd2 (fadd bf16) ∧ two .bmul2 (fmul bf16) ∧ three .bfma2 bf16 ∧
  (∀ x, let f (e : Env) (l : Nat) : Nat × Flags := fusedSum fp32 .rne [(bf16.val (pk 0 (e.st.rv x.a l)), bf16.val (pk 0 (e.st.src x.b l))), (bf16.val (pk 1 (e.st.rv x.a l)), bf16.val (pk 1 (e.st.src x.b l)))] [fp32.val (e.st.rv x.d l).toNat]
    SetsVF (.bdot2 x) x.d (fun _ => True) (fun _ e l => BitVec.ofNat 32 (f e l).1) fun _ e => e.flags fun l => (f e l).2)

/-- FP32, FP64 and packed arithmetic. -/
def Obligations.FloatingArithmetic : Prop := FloatArithmeticClaim ∧ DoubleAndPackedClaim

/-- The exact value of a number that is no NaN and no infinity. -/
def exactOf : Machine.Num → ℚ
  | .fin neg m e => (if neg then -1 else 1) * m * (2 : ℚ) ^ e
  | .inf _ => 0
  | .nan _ => 0
/-- Is a number finite? -/
def isFinite (x : Machine.Num) : Bool := !x.isNan && !x.isInf

/-- The eight conditions of FCMP on the values of A and operand B, with their order: that of the exact values, −0 equal to +0, the infinities at its ends; a NaN on either side is unordered. A signalling NaN raises invalid, and nothing else raises a flag (R205). -/
def Obligations.FloatComparisons : Prop :=
  let is (i : RB → Instr) (cond : Machine.Num → Machine.Num → Bool) : Prop := ∀ x, SetsPF (i x) x.d
    (fun e l => cond (fp32.val (e.st.rv x.a l).toNat) (fp32.val (e.st.src x.b l).toNat))
    fun e => e.flags fun l => if (fp32.val (e.st.rv x.a l).toNat).isSig || (fp32.val (e.st.src x.b l).toNat).isSig then 1 else 0
  let un (a b : Machine.Num) : Bool := a.isNan || b.isNan
  is .fcmpEq (fun a b => a.eqv b) ∧ is .fcmpNe (fun a b => !a.eqv b) ∧ is .fcmpLt (fun a b => a.lt b) ∧ is .fcmpLe (fun a b => a.lt b || a.eqv b) ∧
  is .fcmpGt (fun a b => b.lt a) ∧ is .fcmpGe (fun a b => b.lt a || a.eqv b) ∧ is .fcmpUn un ∧ is .fcmpOr (fun a b => !un a b) ∧
  (∀ a b : Machine.Num, isFinite a = true → isFinite b = true → (a.lt b = true ↔ exactOf a < exactOf b) ∧ (a.eqv b = true ↔ exactOf a = exactOf b)) ∧
  (∀ a : Machine.Num, isFinite a = true → ∀ neg, (Machine.Num.inf neg).lt a = neg ∧ a.lt (.inf neg) = !neg ∧ (Machine.Num.inf neg).eqv a = false ∧ a.eqv (.inf neg) = false) ∧
  (∀ i j, (Machine.Num.inf i).lt (.inf j) = (i && !j) ∧ (Machine.Num.inf i).eqv (.inf j) = decide (i = j)) ∧
  (∀ a b : Machine.Num, un a b = true → a.lt b = false ∧ b.lt a = false ∧ a.eqv b = false) ∧
  fp32.val 0x7F800000 = .inf false ∧ fp32.val 0xFF800000 = .inf true ∧ (∀ p : W, (fp32.val p.toNat).isNan = decide (0x7F800000 < p.toNat % 2 ^ 31)) ∧
  (∀ p : W, (fp32.val p.toNat).isSig = decide (0x7F800000 < p.toNat % 2 ^ 31 ∧ p.toNat % 2 ^ 23 < 2 ^ 22))

/-- Each special function is a function of its 32-bit argument, with its flags (R206); and its results for the special arguments (R208). The model's choice in it: log entry 6. -/
def Obligations.SpecialFunctions : Prop :=
  let is (i : RU → Instr) (op : Nat) : Prop := ∀ x, SetsVF (i x) x.d (fun _ => True) (fun _ e l => (fspec op (e.st.rv x.a l)).1) fun _ e => e.flags fun l => (fspec op (e.st.rv x.a l)).2
  is .frcp 0 ∧ is .frsq 1 ∧ is .fsqrt 2 ∧ is .fexp2 3 ∧ is .flog2 4 ∧ is .fsin 5 ∧ is .fcos 6 ∧ is .ftanh 7 ∧
  (∀ op, op < 8 → ∀ x : W, (fp32.val x.toNat).isNan = true → fspec op x = (0x7FC00000, if (fp32.val x.toNat).isSig then 1 else 0)) ∧
  ((List.range 8).map fun op => fspec op 0x7F800000) = [(0, 0), (0, 0), (0x7F800000, 0), (0x7F800000, 0), (0x7F800000, 0), (0x7FC00000, 0), (0x7FC00000, 0), (0x3F800000, 0)] ∧
  ((List.range 8).map fun op => fspec op 0xFF800000) = [(0x80000000, 0), (0x7FC00000, 1), (0x7FC00000, 1), (0, 0), (0x7FC00000, 0), (0x7FC00000, 0), (0x7FC00000, 0), (0xBF800000, 0)] ∧
  ((List.range 8).map fun op => fspec op 0) = [(0x7F800000, 0), (0x7F800000, 0), (0, 0), (0x3F800000, 0), (0xFF800000, 0), (0, 0), (0x3F800000, 0), (0, 0)] ∧
  ((List.range 8).map fun op => fspec op 0x80000000) = [(0xFF800000, 0), (0xFF800000, 0), (0x80000000, 0), (0x3F800000, 0), (0xFF800000, 0), (0x80000000, 0), (0x3F800000, 0), (0x80000000, 0)] ∧
  (∀ x : W, 0x80000000 < x.toNat → x.toNat < 0xFF800000 → fspec 1 x = (0x7FC00000, 1) ∧ fspec 2 x = (0x7FC00000, 1) ∧ fspec 4 x = (0x7FC00000, 0))

/-- CVT reads and writes the fields that R213 gives each format; the unpack forms and NPK take element positions from their selector, within the limits of R214 to R216. -/
def Obligations.Conversions : Prop :=
  let r (x : RCvt) (e : Env) (l : Nat) : Nat × Flags := convert x.sf x.df (rndOf x.rnd) (if x.sf = 3 then (e.st.rv64 x.a l).toNat else (e.st.rv x.a l).toNat % 2 ^ fmtBits x.sf)
  (∀ x, x.df = 3 → SetsPair (.cvt x) x.d (fun _ e l => BitVec.ofNat 64 (r x e l).1) fun _ e => e.flags fun l => (r x e l).2) ∧
  (∀ x, x.df ≠ 3 → SetsVF (.cvt x) x.d (fun _ => True)
    (fun _ e l => if x.df = 6 ∨ x.df = 7 then BitVec.ofInt 32 (((r x e l).1 : Int).bmod (2 ^ fmtBits x.df)) else BitVec.ofNat 32 (r x e l).1) fun _ e => e.flags fun l => (r x e l).2) ∧
  (let good (b : Src) (n : Nat) (e : Env) : Prop := ∀ l, inMask e.q l = true → (e.st.src b l).toNat < n
   let code (fmt n : Nat) (a : W) (j : Nat) : W := BitVec.ofNat 32 (roundF 0 .rne (valF fmt (a.toNat / 2 ^ (n * j) % 2 ^ n))).1
   (∀ x, SetsVF (.t8unpk x) x.d (good x.b 4) (fun _ e l => code 4 8 (e.st.rv x.a l) (e.st.src x.b l).toNat) fun _ _ => 0) ∧
   (∀ x, SetsVF (.t6unpk x) x.d (good x.b 4) (fun _ e l => code 5 6 (e.st.rv x.a l) (e.st.src x.b l).toNat) fun _ _ => 0) ∧
   (∀ x, SetsVF (.i4unpk x) x.d (good x.b 32) (fun _ e l =>
      let n := (e.st.src x.b l).toNat
      let nib := (e.st.rv x.a l).toNat / 16 ^ (n % 8) % 16
      if n / 16 = 1 then (if n / 8 % 2 = 1 then BitVec.ofNat 32 nib else BitVec.ofInt 32 ((nib : Int).bmod 16))
      else code (if n / 8 % 2 = 1 then 10 else 7) 4 (e.st.rv x.a l) (n % 8)) fun _ _ => 0)) ∧
  (∀ x, let r (e : Env) (l : Nat) : Nat × Flags := convert 0 ((e.st.src x.b l).toNat % 16) (rndOf ((e.st.src x.b l).toNat / 16 % 8)) (e.st.rv x.a l).toNat
    SetsVF (.npk x) x.d (fun e => ∀ l, inMask e.q l = true → npkOk (e.st.src x.b l).toNat = true)
    (fun _ e l =>
      let n := (e.st.src x.b l).toNat
      let w := fmtBits (n % 16)
      wordOf fun i => if w * (n / 256 % 16) ≤ i ∧ i < w * (n / 256 % 16) + w then (r e l).1.testBit (i - w * (n / 256 % 16)) else inMask (e.st.rv x.d l) i)
    fun _ e => e.flags fun l => (r e l).2)

/-- Each rounding mode takes one of the two neighbours of a magnitude that does not lie on the grid: the nearer, with a tie to the even significand or away from zero; the one towards zero; the one towards +∞; the one towards −∞. A magnitude on the grid stays, and nothing is inexact (R185). -/
def Obligations.RoundingModes : Prop :=
  rndOf 0 = .rne ∧ rndOf 1 = .rz ∧ rndOf 2 = .rp ∧ rndOf 3 = .rm ∧ rndOf 4 = .rna ∧
  ∀ (neg : Bool) (m k : Nat) (e : Int),
    let lo := m / 2 ^ k
    let r := m % 2 ^ k
    let y (mode : Rnd) := toGrid mode neg m e (e + k)
    (r = 0 → ∀ mode, y mode = (lo, false)) ∧
    (r ≠ 0 →
      (2 * r < 2 ^ k → y .rne = (lo, true) ∧ y .rna = (lo, true)) ∧ (2 ^ k < 2 * r → y .rne = (lo + 1, true) ∧ y .rna = (lo + 1, true)) ∧
      (2 * r = 2 ^ k → y .rne = (if lo % 2 = 0 then lo else lo + 1, true) ∧ y .rna = (lo + 1, true)) ∧
      y .rz = (lo, true) ∧ y .rp = (if neg then lo else lo + 1, true) ∧ y .rm = (if neg then lo + 1 else lo, true))

/-- A sum, a product or a fused product and sum of finite operands is formed exactly and rounded once to nearest; an exact zero takes the sign that R183 gives it (R201, R203, R204, R209). -/
def Obligations.FusedSumsRoundOnce : Prop :=
  ∀ f ∈ [fp32, fp16, bf16, fp64], ∀ a b c : Nat, isFinite (f.val a) = true → isFinite (f.val b) = true → isFinite (f.val c) = true →
    let once (r : Nat × Flags) (x : ℚ) (minus : Bool) : Prop := ∃ neg m e, exactOf (.fin neg m e) = x ∧ (m = 0 → neg = minus) ∧ r = f.round .rne (.fin neg m e)
    let A := exactOf (f.val a)
    let B := exactOf (f.val b)
    let C := exactOf (f.val c)
    let n (x : Nat) : Bool := (f.val x).isNeg
    once (fadd f a b) (A + B) (n a && n b && decide (A = 0)) ∧ once (fsub f a b) (A - B) (n a && !n b && decide (A = 0)) ∧ once (fmul f a b) (A * B) (n a != n b) ∧
    once (ffma f false false a b c) (A * B + C) ((n a != n b) && n c && decide (C = 0)) ∧
    once (ffma f false true a b c) (A * B - C) ((n a != n b) && !n c && decide (C = 0)) ∧
    once (ffma f true false a b c) (C - A * B) ((n a == n b) && n c && decide (C = 0))

/-- Rounding a value that a binary format holds gives back its pattern and raises no flag, in every mode: subnormal values are read and delivered at their exact value (R181, R186). -/
def RoundingKeepsRepresentableClaim : Prop :=
  ∀ f ∈ [fp32, fp16, bf16, fp64], ∀ b, b < 2 ^ f.width → (f.val b).isNan = false → ∀ mode, f.round mode (f.val b) = (b, 0)

/-- Rounding to nearest gives no finite result that another finite value of the format lies nearer to (R185, R186). -/
def RoundingIsNearestClaim : Prop :=
  ∀ f ∈ [fp32, fp16, bf16, fp64], ∀ neg m e, isFinite (f.val (f.roundFin .rne neg m e).1) = true →
    ∀ b, b < 2 ^ f.width → isFinite (f.val b) = true →
      |exactOf (f.val (f.roundFin .rne neg m e).1) - exactOf (.fin neg m e)| ≤ |exactOf (f.val b) - exactOf (.fin neg m e)|

/-- Rounding keeps what a format holds, and rounding to nearest is nearest. -/
def Obligations.RoundingToNearest : Prop := RoundingKeepsRepresentableClaim ∧ RoundingIsNearestClaim

/-! Control transfer -/

/-- A transfer whose target lies in the code takes each participant there and out of the squad: BRA and CALL by a displacement, BRX and CALLX to the index a register holds, RET to the index on top of the return stack. CALL and CALLX push the index of the packet after their own, below depth 16; RET pops (R169 to R171). -/
def Obligations.Transfers : Prop :=
  let goes (i : Instr) (ok : List Nat → Prop) (target : Env → Nat → Int) (stack : Env → List Nat → List Nat) : Prop :=
    ∀ s sq, Executes s sq → Clear s sq i 0 →
      (∀ e, Takes s sq e → ∀ l, inMask e.q l = true → ok (e.raw.t sq.hdl l).rs ∧ 0 ≤ target e l ∧ target e l < (e.l.hdr.codeSize / 16 : Nat)) →
      ∃ t, exec i s = .next t ∧ Sends s sq t (fun e => e.q) fun e => e.each fun l th =>
        { th with st := .ready, since := s.cyc sq.g, rs := stack e th.rs, pc := e.l.codePc + BitVec.ofNat 52 (target e l).toNat, slot := 0 }
  let push (e : Env) (rs : List Nat) : List Nat := (e.l.pkt e.sq.pc + 1) :: rs
  let top (rs : List Nat) : Int := (rs.headD 0 : Nat)
  (∀ x, goes (.bra x) (fun _ => True) (fun e _ => e.l.pkt e.sq.pc + x.disp) fun _ rs => rs) ∧
  (∀ x, goes (.brxV x) (fun _ => True) (fun e l => ((e.st.rv x.a l).toNat : Int)) fun _ rs => rs) ∧
  (∀ x, goes (.brxS x) (fun _ => True) (fun e _ => ((e.st.rs x.a).toNat : Int)) fun _ rs => rs) ∧
  (∀ x, goes (.call x) (fun rs => rs.length < 16) (fun e _ => e.l.pkt e.sq.pc + x.disp) push) ∧
  (∀ x, goes (.callxV x) (fun rs => rs.length < 16) (fun e l => ((e.st.rv x.a l).toNat : Int)) push) ∧
  (∀ x, goes (.callxS x) (fun rs => rs.length < 16) (fun e _ => ((e.st.rs x.a).toNat : Int)) push) ∧
  (∀ x, goes (.ret x) (fun rs => rs ≠ []) (fun e l => top (e.raw.t e.sq.hdl l).rs) fun _ rs => rs.tail)

/-- RECON holds its participants at the packet; YIELD moves them to the next packet and restarts their ready time; NOP does nothing (R114, R172). -/
def HeldClaim : Prop :=
  (∀ x s sq, Executes s sq → ∃ t, exec (.recon x) s = .next t ∧
    Sends s sq t (fun e => e.q) fun e => e.each fun _ th => { th with st := .held, pc := sq.pc, slot := sq.k }) ∧
  (∀ x s sq, Executes s sq → (∀ e, Takes s sq e → e.raw.launch = sq.launch ∧ e.l.inCode (sq.pc + 1) = true) → ∃ t, exec (.yield x) s = .next t ∧
    Sends s sq t (fun e => e.q) fun e => e.each fun _ th => { th with st := .ready, since := s.cyc sq.g, pc := sq.pc + 1, slot := 0 }) ∧
  (∀ x s, exec (.nop x) s = .next s)

/-- An EXPAND whose granules the pool, with what is kept for its stand, cannot give parks its participants at the slot before it has any effect: the stand asks for what is missing, and no register changes (R140, R142, R164). -/
def GranulesClaim : Prop :=
  ∀ (x : RU) s sq e, Solo s sq e (.expand x) → sq.hdl = false → e.raw.place = .resident → x.d + x.a < e.raw.v.length →
    let need := ((List.range (x.a + 1)).map fun i => 16 - (e.raw.v.getD (x.d + i) (.u 0)).gran).sum
    s.freePool sq.g + e.raw.grant.1 < need → ∃ t, exec (.expand x) s = .next t ∧
      SameButCounters ((s.dropLanes e.key false e.q).setStand e.key { e.each (fun _ th => { th with st := .parked .gran, pc := sq.pc, slot := sq.k }) with need := need, reload := [], grant := (0, 0) }) t

/-- Threads that are held, that yield, and that wait for granules. The model's choices in it: log entries 14, 28. -/
def Obligations.HeldAndYielded : Prop := HeldClaim ∧ GranulesClaim

/-! Memory -/

/-- A load whose participants pass the checks of R250 starts one counted operation for the stand: it raises the slot's flag in each participant and changes nothing else; an acquire ends the leases of its scope first (R251 to R254, R103, R104). -/
def Obligations.Loads : Prop :=
  let loads (i : MMem → Instr) (n : Nat) (sign : Bool) : Prop := ∀ x s sq e, Solo s sq e (i x) → e.free s (orderOf x.ord x.scp) →
    let addr (l : Nat) : Nat := (e.st.gaddr x.addr l).toNat
    (∀ l, inMask e.q l = true → e.may s (addr l) n needRd ∧ (n = 4 ∨ s.bellOf e.l.ctx (addr l) = none)) →
    ∃ t, exec (i x) s = .next t ∧
      let u := s.acquired e (orderOf x.ord x.scp)
      let op := e.op s (.load n sign) x.d (max 1 (n / 4)) x.scp (decide (x.ord % 2 = 1)) false 0 fun l => olane l (s.normal (addr l)) n (s.npAt e (addr l))
      SameButCounters { u.onTs e.key sq.hdl e.q (fun th => th.flagUp e.flag) with ops := s.ops ++ [(s.seq, op)], seq := s.seq + 1 } t
  loads .ldB8 1 false ∧ loads .ldB16 2 false ∧ loads .ldB32 4 false ∧ loads .ldB64 8 false ∧ loads .ldB128 16 false ∧ loads .ldS8 1 true ∧ loads .ldS16 2 true

/-- Byte j of what a store of a lane sends: the registers' bytes from V[D] on, or for a signed form V[D] saturated to n bytes (R251). -/
def storedByte (sign : Bool) (n : Nat) (st : Stand) (d l j : Nat) : Byte :=
  if sign then BitVec.ofInt 8 (max (-2 ^ (8 * n - 1)) (min (2 ^ (8 * n - 1) - 1) (st.rv d l).toInt) / 256 ^ j)
  else BitVec.ofNat 8 ((st.rv (d + j / 4) l).toNat / 256 ^ (j % 4))

/-- A store whose participants pass the checks, with room in the skid, sends one request for each line with its lanes' bytes; nothing of memory, and no register, changes yet, and the L1 gains no copy (R251, R255, R257, R260). -/
def Obligations.Stores : Prop :=
  let stores (i : MMem → Instr) (n : Nat) (sign : Bool) : Prop := ∀ x s sq e, Solo s sq e (i x) → e.free s (orderOf x.ord x.scp) →
    let addr (l : Nat) : Nat := (e.st.gaddr x.addr l).toNat
    (∀ l, inMask e.q l = true → e.may s (addr l) n needWr ∧ (n = 4 ∨ s.bellOf e.l.ctx (addr l) = none)) → s.skidUsed sq.g + (lanesOf e.q).length ≤ 256 →
    ∃ t, exec (i x) s = .next t ∧
      let u := s.acquired e (orderOf x.ord x.scp)
      let lanes := (lanesOf e.q).map fun l => rlane l (s.normal (addr l)) ((List.range n).map (storedByte sign n e.st x.d l)) []
      let rs := e.requests u .store 2 x.scp (decide (x.ord / 2 % 2 = 1)) none s.seq lanes
      ∃ sts l1, SameStands s { s with stands := sts } ∧ (∀ c ∈ l1, c ∈ s.l1) ∧ SameButCounters { u with stands := sts, l1 := l1, reqs := s.reqs ++ rs, seq := s.seq + rs.length } t
  stores .stB8 1 false ∧ stores .stB16 2 false ∧ stores .stB32 4 false ∧ stores .stB64 8 false ∧ stores .stB128 16 false ∧ stores .stS8 1 true ∧ stores .stS16 2 true

/-- Scratchpad: a load starts a counted operation in scratchpad; a store writes its bytes as the slot executes, in ascending lanes, so that the highest lane of a byte is the one that stays (R258). -/
def ScratchpadAccessClaim : Prop :=
  let fits (s : State) (e : Env) (a n : Nat) : Prop := a % n = 0 ∧ a + n ≤ s.scrSize e.sq.launch e.sq.g
  let loads (i : MMem → Instr) (n : Nat) (sign : Bool) : Prop := ∀ x s sq e, Solo s sq e (i x) → e.free s { orderOf x.ord x.scp with rel := false } →
    let addr (l : Nat) : Nat := (e.st.saddr x.addr l).toNat
    (∀ l, inMask e.q l = true → fits s e (addr l) n) → ∃ t, exec (i x) s = .next t ∧
      let u := s.acquired e (orderOf x.ord x.scp)
      let op := e.op s (.lds n sign) x.d (max 1 (n / 4)) x.scp (decide (x.ord % 2 = 1)) true 0 fun l => olane l (addr l) n false
      SameButCounters { u.onTs e.key sq.hdl e.q (fun th => th.flagUp e.flag) with ops := s.ops ++ [(s.seq, op)], seq := s.seq + 1 } t
  let stores (i : MMem → Instr) (n : Nat) (sign : Bool) : Prop := ∀ x s sq e, MemOk s → Solo s sq e (i x) → e.free s (orderOf x.ord x.scp) → s.scrBusy e = false →
    let addr (l : Nat) : Nat := (e.st.saddr x.addr l).toNat
    (∀ l, inMask e.q l = true → fits s e (addr l) n ∧ s.locked sq.launch sq.g (addr l) (addr l + n) = false) → ∃ t, exec (i x) s = .next t ∧
      ∃ sts scr, SameStands s { s with stands := sts } ∧ SameButCounters { s.acquired e (orderOf x.ord x.scp) with stands := sts, scr := scr } t ∧
        (∀ k, k ≠ scrKey sq.launch sq.g → Store.find k scr = Store.find k s.scr) ∧
        ∀ a, t.scrGet sq.launch sq.g a 1 = match (lanesOf e.q).reverse.find? fun l => decide (addr l ≤ a ∧ a < addr l + n) with
          | some l => [storedByte sign n e.st x.d l (a - addr l)]
          | none => s.scrGet sq.launch sq.g a 1
  loads .ldsB8 1 false ∧ loads .ldsB16 2 false ∧ loads .ldsB32 4 false ∧ loads .ldsB64 8 false ∧ loads .ldsB128 16 false ∧ loads .ldsS8 1 true ∧ loads .ldsS16 2 true ∧
  stores .stsB8 1 false ∧ stores .stsB16 2 false ∧ stores .stsB32 4 false ∧ stores .stsB64 8 false ∧ stores .stsB128 16 false ∧ stores .stsS8 1 true ∧ stores .stsS16 2 true

/-- Global atomics whose participants pass the checks, with room in the skid: ATOM, ATOMF and CHUNK start a counted operation and send one request for each line, which names it; RED sends the requests alone (R331 to R336). -/
def Obligations.GlobalAtomics : Prop :=
  let bytes (n : Nat) (v : Nat) : List Byte := (List.range n).map fun j => BitVec.ofNat 8 (v / 256 ^ j)
  let okAll (x : MMem) (s : State) (e : Env) (n : Nat) (rg : Nat → Prop) : Prop := e.free s (orderOf x.ord x.scp) ∧ s.skidUsed e.sq.g + (lanesOf e.q).length ≤ 256 ∧
    ∀ l, inMask e.q l = true → e.may s (e.st.gaddr x.addr l).toNat n needAt ∧ rg (region (s.normal (e.st.gaddr x.addr l).toNat)) ∧ s.bellOf e.l.ctx (e.st.gaddr x.addr l).toNat = none
  let counted (i : Instr) (x : MMem) (kind : ReqKind) (acc n nreg : Nat) (rg : Nat → Prop) (data new : Env → Nat → List Byte) : Prop :=
    ∀ s sq e, Solo s sq e i → okAll x s e n rg → ∃ t, exec i s = .next t ∧
      let u := s.acquired e (orderOf x.ord x.scp)
      let addr (l : Nat) : Nat := s.normal (e.st.gaddr x.addr l).toNat
      let op := e.op s .atom x.d nreg x.scp (decide (x.ord % 2 = 1)) false 0 fun l => olane l (addr l) (4 * nreg) false
      let rs := e.requests s kind acc x.scp (decide (x.ord / 2 % 2 = 1)) (some s.seq) (s.seq + 1) ((lanesOf e.q).map fun l => rlane l (addr l) (data e l) (new e l))
      SameButCounters { u.onTs e.key sq.hdl e.q (fun th => th.flagUp e.flag) with ops := s.ops ++ [(s.seq, op)], reqs := s.reqs ++ rs, seq := s.seq + 1 + rs.length } t
  let red (i : MMem → Instr) (op : Nat) : Prop := ∀ x s sq e, Solo s sq e (i x) → okAll x s e 4 (· ≠ 2) → ∃ t, exec (i x) s = .next t ∧
      let u := s.acquired e (orderOf x.ord x.scp)
      let rs := e.requests s (.red op) 4 x.scp (decide (x.ord / 2 % 2 = 1)) none s.seq ((lanesOf e.q).map fun l => rlane l (s.normal (e.st.gaddr x.addr l).toNat) (bytes 4 (e.st.rv x.d l).toNat) [])
      SameButCounters { u with reqs := s.reqs ++ rs, seq := s.seq + rs.length } t
  let mem (x : MAtom) : MMem := { c := x.c, ord := x.ord, scp := x.scp, d := x.d, addr := x.addr }
  let memC (x : MCas) : MMem := { c := x.c, ord := x.ord, scp := x.scp, d := x.d, addr := x.addr }
  let a32 (i : MAtom → Instr) (k : ReqKind) : Prop := ∀ x, counted (i x) (mem x) k 3 4 1 (· ≠ 2) (fun e l => bytes 4 (e.st.src x.b l).toNat) fun _ _ => []
  let a64 (i : MAtom → Instr) (k : ReqKind) : Prop := ∀ x, counted (i x) (mem x) k 3 8 2 (· ≠ 2) (fun e l => bytes 8 (e.st.src64 x.b l).toNat) fun _ _ => []
  a32 .atomAdd (.atom 0 32) ∧ a32 .atomMin (.atom 1 32) ∧ a32 .atomMax (.atom 2 32) ∧ a32 .atomAnd (.atom 3 32) ∧ a32 .atomOr (.atom 4 32) ∧ a32 .atomXor (.atom 5 32) ∧ a32 .atomExch (.atom 6 32) ∧
  a64 .atom64Add (.atom 0 64) ∧ a64 .atom64Min (.atom 1 64) ∧ a64 .atom64Max (.atom 2 64) ∧ a64 .atom64And (.atom 3 64) ∧ a64 .atom64Or (.atom 4 64) ∧ a64 .atom64Xor (.atom 5 64) ∧ a64 .atom64Exch (.atom 6 64) ∧
  (∀ x, counted (.atomCas x) (memC x) (.cas 32) 3 4 1 (· ≠ 2) (fun e l => bytes 4 (e.st.src x.b l).toNat) fun e l => bytes 4 (e.st.src x.n l).toNat) ∧
  (∀ x, counted (.atom64Cas x) (memC x) (.cas 64) 3 8 2 (· ≠ 2) (fun e l => bytes 8 (e.st.src64 x.b l).toNat) fun e l => bytes 8 (e.st.src64 x.n l).toNat) ∧
  a32 .atomfFadd32 (.atomF 0) ∧ a32 .atomfFaddBf2 (.atomF 1) ∧ a32 .atomfFaddH2 (.atomF 2) ∧ a32 .atomfFmin32 (.atomF 3) ∧ a32 .atomfFmax32 (.atomF 4) ∧ a64 .atomfFadd64 (.atomF 5) ∧
  (∀ x, counted (.chunk x) x .chunk 5 16 2 (fun r => r = 0 ∨ r = 4) (fun _ _ => []) fun _ _ => []) ∧
  red .redAdd 0 ∧ red .redMin 1 ∧ red .redMax 2 ∧ red .redAnd 3 ∧ red .redOr 4 ∧ red .redXor 5

/-- Scratchpad atomics start a counted operation in scratchpad, with both operands read at once (R331, R335). -/
def ScratchpadAtomicsClaim : Prop :=
  let one (i : Instr) (op d scp ord : Nat) (a : Addr) (b c : Env → Nat → W) : Prop := ∀ s sq e, Solo s sq e i → e.free s (orderOf ord scp) →
    let addr (l : Nat) : Nat := (e.st.saddr a l).toNat
    (∀ l, inMask e.q l = true → addr l % 4 = 0 ∧ addr l + 4 ≤ s.scrSize sq.launch sq.g ∧ s.locked sq.launch sq.g (addr l) (addr l + 4) = false) → ∃ t, exec i s = .next t ∧
      let u := s.acquired e (orderOf ord scp)
      let rec_ := e.op s (.atoms op) d 1 scp (decide (ord % 2 = 1)) true 0 fun l => { olane l (addr l) 4 false with bit := (b e l).toNat + 2 ^ 32 * (c e l).toNat }
      SameButCounters { u.onTs e.key sq.hdl e.q (fun th => th.flagUp e.flag) with ops := s.ops ++ [(s.seq, rec_)], seq := s.seq + 1 } t
  let two (i : MAtom → Instr) (op : Nat) : Prop := ∀ x, one (i x) op x.d x.scp x.ord x.addr (fun e l => e.st.src x.b l) fun _ _ => 0
  two .atomsAdd 0 ∧ two .atomsMin 1 ∧ two .atomsMax 2 ∧ two .atomsAnd 3 ∧ two .atomsOr 4 ∧ two .atomsXor 5 ∧ two .atomsExch 6 ∧
  ∀ x, one (.atomsCas x) 7 x.d x.scp x.ord x.addr (fun e l => e.st.src x.b l) fun e l => e.st.src x.n l

/-- Scratchpad loads, stores and atomics. The model's choice in it: log entry 24. -/
def Obligations.ScratchpadInstructions : Prop := ScratchpadAccessClaim ∧ ScratchpadAtomicsClaim

/-- PREF sends nothing and changes no byte and no register; at level 0 a lone lane's line is in the cluster's L1 afterwards, unless pending bytes fill its set. CLEAN sends a request for each line. INVAL takes each line's copies out of the cluster's L1 and the sector, and no other (R261 to R264). The model's choices in it: log entries 20, 21, 102. -/
def Obligations.CacheControl : Prop :=
  let ready (s : State) (e : Env) (a : Addr) : Prop := ∀ l, inMask e.q l = true → s.acqWait e.sq.g e.slot l e.sq.hdl = false ∧ e.may s (e.st.gaddr a l).toNat 1 needRd
  (∀ x s sq e, Solo s sq e (.pref x) → ready s e x.addr → ∃ t, exec (.pref x) s = .next t ∧
    (∃ l1 sec l2 tlb owners brand lru hm fresh pmc, t = { s with l1 := l1, sec := sec, l2 := l2, tlb := tlb, owners := owners, brand := brand, lru := lru, hostMem := hm, fresh := fresh, regs := { s.regs with pmc := pmc } }) ∧
    ∀ l, e.q = bit l → l < 32 →
      let a := s.normal (e.st.gaddr x.addr l).toNat
      x.level = 0 → region a ≠ 4 → s.bellOf e.l.ctx (a / 128 * 128) = none → (∃ h, s.landUse e.l.ctx (a / 128 * 128) (s.npAt e a) needRd = .ok h) →
        (s.l1Room (clusterOf sq.g) (s.tagAt e a) a).isSome = true → (Store.find (copyKey (clusterOf sq.g) (s.tagAt e a) a) t.l1).isSome = true) ∧
  (∀ x s sq e, Solo s sq e (.clean x) → ready s e x.addr → (∀ l, inMask e.q l = true → region (s.normal (e.st.gaddr x.addr l).toNat) ≠ 4) → s.skidUsed sq.g + (lanesOf e.q).length ≤ 256 →
    ∃ t, exec (.clean x) s = .next t ∧
      let rs := e.requests s .clean 10 0 false none s.seq ((lanesOf e.q).map fun l => rlane l (s.normal (e.st.gaddr x.addr l).toNat) [] [])
      SameButCounters { s with reqs := s.reqs ++ rs, seq := s.seq + rs.length } t) ∧
  (∀ x s sq e, MemOk s → Solo s sq e (.inval x) → ready s e x.addr → ∃ t, exec (.inval x) s = .next t ∧ ∃ l1 sec, SameButCounters { s with l1 := l1, sec := sec } t ∧
    let gone (unit : Nat) (k : Nat) : Bool := (lanesOf e.q).any fun l =>
      let a := s.normal (e.st.gaddr x.addr l).toNat
      decide (region a ≠ 4) && decide (k = copyKey unit (s.tagAt e a) a)
    (∀ k, Store.find k l1 = if gone (clusterOf sq.g) k then none else Store.find k s.l1) ∧ (∀ k, Store.find k sec = if gone (sectorOf (clusterOf sq.g)) k then none else Store.find k s.sec))

/-- TREAD starts a counted read of one element for each participant, at the byte address and bit of its coordinates, with its group scale; a lane outside the extents takes zero under the zero-fill form. TQUERY starts a counted operation that holds an extent, the control bytes or the size, or waits for a count of lines (R266, R268, R269). -/
def TensorReadsClaim : Prop :=
  (∀ x s sq e t sc, Solo s sq e (.tread x) → e.free s plainOrder →
    let id := (e.st.xsrc x.id).toNat
    let idx (l : Nat) : List Nat := (List.range 4).map fun k => if k < t.rank then (e.st.rv (x.d + k) l).toNat else 0
    s.entry sq.g e.l.ctx id = .ok (t, sc) → x.d + t.rank ≤ e.l.hdr.vregs →
    (if x.idx = 0 then t.fmt ≠ 3 ∧ t.fmt ≠ 8 else if x.idx = 1 then t.fmt ≠ 3 else t.fmt = 3) →
    let scScr : Bool := (sc.map (·.scr)).getD false
    let ok (a n : Nat) (pages : List Nat) (scr : Bool) : Prop := if scr then a + n ≤ s.scrSize sq.launch sq.g else ∀ y ∈ pages, e.may s y 1 needRd ∧ s.bellOf e.l.ctx y = none
    (∀ l, inMask e.q l = true →
      if t.inside (idx l) then ok (t.elem (idx l)).1 (t.elem (idx l)).2.2 (elemPages (t.elem (idx l)).1 (t.elem (idx l)).2.2) t.scr ∧ ∀ y ∈ scaleAddr t sc (idx l), ok y 2 [y] scScr else x.q = 1) →
    ∃ t', exec (.tread x) s = .next t' ∧
      let u := s.entryUse sq.g e.l.ctx id
      let home (scr : Bool) (a : Nat) : Nat := if scr then a else s.normal a
      let lane (l : Nat) : OLane :=
        if t.inside (idx l) then
          let p := t.elem (idx l)
          let y := (scaleAddr t sc (idx l)).map (home scScr)
          { lane := l, addr := home t.scr p.1, n := p.2.2, bit := p.2.1, scale := y, got := [], fault := none, np := !t.scr && s.npAt e (home t.scr p.1), sscr := scScr, snp := y.elim false fun z => !scScr && s.npAt e z }
        else olane l 0 0 false
      let op := e.op s (.tread t.fmt x.idx t.sb ((sc.map (·.sb)).getD 0)) x.d (if x.idx = 2 then 2 else 1) 0 false t.scr id lane
      SameButCounters { u.onTs e.key sq.hdl e.q (fun th => th.flagUp e.flag) with ops := s.ops ++ [(s.seq, op)], seq := s.seq + 1 } t') ∧
  (∀ x s sq e t sc, Solo s sq e (.tquery x) → e.free s plainOrder →
    let id := (e.st.xsrc x.id).toNat
    s.entry sq.g e.l.ctx id = .ok (t, sc) →
    ∃ t', exec (.tquery x) s = .next t' ∧
      let u := s.entryUse sq.g e.l.ctx id
      let got : List Byte :=
        if x.idx = 5 ∨ x.idx = 6 then []
        else if x.idx = 4 then (match s.entryBytes sq.g e.l.ctx id with | .ok b => toBytes 4 (ofBytes ((b.drop 8).take 4)) | .error _ => toBytes 4 0)
        else if x.idx = 7 then toBytes 4 (min (t.dims.foldl (· * ·) 1) 0xFFFFFFFF)
        else toBytes 4 (t.dims.getD x.idx 1)
      let op := e.op s (.tquery x.idx id) x.d 1 0 false true id fun l => { olane l 0 4 false with got := got }
      SameButCounters { u.onTs e.key sq.hdl e.q (fun th => th.flagUp e.flag) with ops := s.ops ++ [(s.seq, op)], seq := s.seq + 1 } t')

/-- TDESC reads its source as a load does, sends one store of 64 bytes to the context's table and drops the cached copies of the entry; TDISCARD asks every slice. Both stall at their slot until they are answered, and then go on; a discard that is done leaves no line with its identifier and tag in the slices, home line or local copy (R265, R267, R29). -/
def TensorChangesClaim : Prop :=
  (∀ x s sq e r b, Solo s sq e (.tdesc x) → s.walksOf e = [] → s.skidUsed sq.g < 256 → s.tdescWait e x = false →
    let tbl := ((s.ctx e.l.ctx).map (·.tidbase)).getD 0 + 64 * (e.st.xsrc x.id).toNat
    let from_ := if x.q = 1 then [(e.st.rs64 x.b).toNat] else []
    (∀ a ∈ from_ ++ [tbl], s.noBrand e a = false) → (s.use sq.g e.l.ctx (from_ ++ [tbl])).tdescRead e x = .ok (r, b) →
    ∃ t, exec (.tdesc x) s = .next t ∧ ∃ sts l1 pmc, SameStands s { s with stands := sts } ∧ (∀ c ∈ l1, c ∈ r.l1) ∧
      t = { r with fresh := r.fresh + 1, seq := s.seq + 2, stands := sts, l1 := l1, issue := s.again.issue, regs := { s.regs with pmc := pmc }
                   walks := s.walks ++ [(s.seq + 1, { g := sq.g, slot := e.slot, lane := lowest e.q, hdl := sq.hdl, kind := .tdesc s.seq, status := none, sq := sq.id })]
                   tcache := s.tcache.filter fun c => decide (c.1 % (256 * 4096) ≠ e.l.ctx * 4096 + (e.st.xsrc x.id).toNat)
                   reqs := s.reqs ++ e.requests r .tdesc 11 0 false none s.seq [rlane (lowest e.q) (s.normal tbl) b []] }) ∧
  (∀ x s sq e tid sc, Solo s sq e (.tdiscard x) → s.walksOf e = [] → (∀ l, inMask e.q l = true → s.acqWait sq.g e.slot l sq.hdl = false) →
    let id := match x.addr with | .s n => (e.st.rs n).toNat | .sl _ w => w.toNat | .v _ => 0 | .vl _ _ => 0
    s.entry sq.g e.l.ctx id = .ok (tid, sc) → tid.scr = false → tid.disc = true →
    let u := s.entryUse sq.g e.l.ctx id
    let w : WalkRec := { g := sq.g, slot := e.slot, lane := lowest e.q, hdl := sq.hdl, kind := .tdiscard id (((s.ctx e.l.ctx).map (·.ctag)).getD 0), status := none, sq := sq.id }
    ∃ t, exec (.tdiscard x) s = .next t ∧ SameButCounters { u with walks := s.walks ++ [(s.seq, w)], seq := s.seq + 1, issue := s.again.issue } t) ∧
  (let waits (i : Instr) (gate : State → Env → Prop) : Prop := ∀ s sq e, Solo s sq e i → gate s e → s.walksOf e ≠ [] →
     ((∃ w ∈ s.walksOf e, s.walkDone w.2 = false) → ∃ t, exec i s = .next t ∧ SameButCounters s.again t) ∧
     ((∀ w ∈ s.walksOf e, s.walkDone w.2 = true) → ∃ t, exec i s = .next t ∧ SameButCounters { s with walks := s.walks.filter fun w => !(w.2.of e) } t)
   (∀ x, waits (.tdesc x) fun s e => s.skidUsed e.sq.g ≤ 256 ∧ ∀ a, a = ((s.ctx e.l.ctx).map (·.tidbase)).getD 0 + 64 * (e.st.xsrc x.id).toNat ∨ (x.q = 1 ∧ a = (e.st.rs64 x.b).toNat) → s.noBrand e a = false) ∧
   (∀ x, waits (.tdiscard x) fun _ _ => True)) ∧
  (∀ n s w tid tag, Store.find n s.walks = some w → w.kind = .tdiscard tid tag → Store.risesFrom 0 s.l2 = true →
    ∃ t, exec (.tdiscardDone n) s = .next t ∧ Store.find n t.walks = some { w with status := some 0 } ∧ (∀ c ∈ t.l2, ¬ (c.2.tid = tid ∧ c.2.tag = tag)) ∧
      (∀ c ∈ s.l2, ¬ (c.2.tid = tid ∧ c.2.tag = tag) → c ∈ t.l2) ∧ (∀ c ∈ t.l1, keyTag c.1 ≠ tag) ∧ (∀ c ∈ t.sec, ¬ (c.2.tid = tid ∧ keyTag c.1 = tag)) ∧ ∃ l1 sec l2 walks mem tier hm fresh,
        t = { s with l1 := l1, sec := sec, l2 := l2, walks := walks, mem := mem, tier := tier, hostMem := hm, fresh := fresh })

/-- Tensor reads and changes of tensor entries. The model's choices in it: log entries 17, 25, 26. -/
def Obligations.TensorInstructions : Prop := TensorReadsClaim ∧ TensorChangesClaim

/-- A copy command that passes its checks, with room in the skid and among the cluster's 16 commands, is recorded with its pieces and its completion word, in the order its operands give them; nothing moves yet (R270 to R274). The model's choices in it: log entries 10, 19. -/
def Obligations.Copies : Prop :=
  let room (s : State) (e : Env) : Prop := s.skidUsed e.sq.g < 256 ∧ s.copies e.sq.g < 16 ∧ s.walksOf e = []
  let global (s : State) (e : Env) (a n : Nat) (need : Need) : Prop := ∀ y ∈ pagesOf a n, e.may s y (if y = a then 16 else 1) need ∧ s.bellOf e.l.ctx y = none
  let pad (s : State) (e : Env) (a n w : Nat) : Prop := a % w = 0 ∧ a + n ≤ s.scrSize e.sq.launch e.sq.g
  let issued (s : State) (e : Env) (tid : Nat) (word : Option (Nat × W)) (moves : List Move) : State := { s with
    cpys := s.cpys ++ [(s.seq, { g := e.sq.g, slot := e.slot, lane := lowest e.q, ctx := e.l.ctx, launch := e.sq.launch, pkt := e.l.pkt e.sq.pc, pslot := e.sq.k, moves := moves, word := word, bad := false, tid := tid, hdl := e.sq.hdl })], seq := s.seq + 1 }
  (∀ x s sq e, Solo s sq e (.cpy x) → room s e →
    let ss := decide (x.dir = 1 ∨ x.dir = 3)
    let ds := decide (x.dir = 2 ∨ x.dir = 3)
    let src := if ss then (e.st.rs x.a).toNat else (e.st.rs64 x.a).toNat
    let dst := if ds then (e.st.rs (x.a + 2)).toNat else (e.st.rs64 (x.a + 2)).toNat
    let n := (e.st.rs (x.a + 4)).toNat
    let word := x.w.map fun v => ((e.st.rs (x.a + 5)).toNat, e.st.xsrc v)
    16 ≤ n → n ≤ 4194304 → n % 16 = 0 → (if ss then pad s e src n 16 else global s e src n needRd) → (if ds then pad s e dst n 16 else global s e dst n needWr) →
    (ss = ds → src + n ≤ dst ∨ dst + n ≤ src) → (∀ y ∈ word, pad s e y.1 4 4) →
    ∃ t, exec (.cpy x) s = .next t ∧
      SameButCounters (issued s e 0 word [{ src := some src, srcBit := 0, srcScr := ss, dst := dst, dstBit := 0, dstScr := ds, nbits := 8 * n, lane := lowest e.q }]) t) ∧
  (∀ x s sq e m word, Solo s sq e (.cpyt x) → room s e →
    let b := e.tileBlock x
    let u := (s.entryUse sq.g e.l.ctx b.sid).entryUse sq.g e.l.ctx b.did
    s.tileCause e x b = .ok (m, word) → (∀ y ∈ m, ∀ a ∈ y.srcs ++ y.dsts, s.noBrand e a = false) →
    ∃ t, exec (.cpyt x) s = .next t ∧ SameButCounters (issued u e b.sid word m) t) ∧
  (∀ x s sq e, Solo s sq e (.cpyv x) → room s e →
    let n := (e.st.rs x.b).toNat
    16 ≤ n → n ≤ 4096 → n % 16 = 0 → (∀ l, inMask e.q l = true → global s e (e.st.rv64 x.a l).toNat n needRd ∧ pad s e (e.st.rv (x.a + 2) l).toNat n 16) → (x.q = 1 → pad s e (e.st.rs (x.b + 1)).toNat 4 4) →
    ∃ t, exec (.cpyv x) s = .next t ∧ SameButCounters (issued s e 0 (if x.q = 1 then some ((e.st.rs (x.b + 1)).toNat, e.st.rs (x.b + 2)) else none)
      ((lanesOf e.q).map fun l => { src := some (e.st.rv64 x.a l).toNat, srcBit := 0, srcScr := false, dst := (e.st.rv (x.a + 2) l).toNat, dstBit := 0, dstScr := true, nbits := 8 * n, lane := l })) t)

/-! Requests at their home -/

/-- STORE_ACK of a store to device memory that alone is its squad's request for the line, of a stand with a live thread: every byte that a lane covers takes the bytes of the highest such lane, every other byte of memory is as before, the request is gone, and no register of any stand changes (R235, R255). -/
def Obligations.StoresReachTheirHome : Prop :=
  ∀ (id : Nat) (s : State) (r : Req) (h : Home) (st : Stand), MemOk s → Store.find id s.reqs = some r → r.kind = .store → r.op = none → r.ord = none → (∀ a ∈ r.lanes, a.parked = none) →
    s.siblings id r = [(id, r)] → s.reqReady id r = true → s.fate r = .perform h → h.sp = .dev → s.stand (standKey r.g r.slot) = some st → st.live ≠ 0 →
    ∃ t, exec (.storeAck id) s = .next t ∧
      (∀ a, memGet t.mem a = match r.open_.reverse.find? fun k => decide (h.pa + k.addr % 128 ≤ a ∧ a < h.pa + k.addr % 128 + k.data.length) with
        | some k => k.data.getD (a - (h.pa + k.addr % 128)) 0
        | none => memGet s.mem a) ∧ SameStands s t ∧
      ∃ mem l2 tlb owners brand lru l1 sec poison stands queues launches fresh, t = { s with reqs := s.reqs.del id, mem := mem, l2 := l2, tlb := tlb, owners := owners, brand := brand, lru := lru, l1 := l1, sec := sec, poison := poison, stands := stands, queues := queues, launches := launches, fresh := fresh }

/-- A request that its landing faults, and that alone is its squad's for the line, is parked with its cause in the hold queue of its page, its lanes ascending behind those there, as many as the landing has room for; HOLD_QUEUE_ROOM takes the oldest that waits; nothing is written. An access under an NP entry brings the real one; a copy command whose write parks writes no completion word (R230, R236, R244, R267). -/
def FaultsParkClaim : Prop :=
  let fits (s : State) (id : Nat) (r : Req) : List (Nat × Nat) := (lanes32.flatMap fun l => (r.open_.filter fun a => decide (a.lane = l)).map fun _ => (id, l)).take (1024 - s.parkedAt r.stack)
  let parked (s : State) (id : Nat) (r : Req) (c : Nat) (holds : List Hold) : State :=
    let u := if (s.holdOf r.stack r.tag r.x).isNone then s.learn r.g r.ctx r.x r.np else s
    { u with holds := holds, fresh := s.fresh + 1, reqs := Store.put id { r with lanes := r.lanes.map fun a => if (fits s id r).contains (id, a.lane) && !a.done then { a with parked := some c } else a } s.reqs
             cpys := match r.cmd with | some k => if r.kind = .copy then Store.adjust k (fun c => { c with bad := true }) s.cpys else s.cpys | none => s.cpys
             tcache := if r.kind = .tdesc then (s.dropEntry r.ctx r.x).tcache else s.tcache }
  let queued (s : State) (id : Nat) (r : Req) : List Hold := match s.holdOf r.stack r.tag r.x with
    | some h => s.holds.map fun k => if k = h then { h with items := h.items ++ fits s id r } else k
    | none => s.holds ++ [{ stack := r.stack, tag := r.tag, page := r.x / 65536, items := fits s id r }]
  let due (s : State) (id : Nat) (r : Req) (c : Nat) : Prop := region r.x ≠ 4 ∧ r.waits = true ∧ s.reqReady id r = true ∧ s.fate r = .park c
  let alone (s : State) (id : Nat) (r : Req) : Prop := r.slot ≠ 33 ∧ (∀ a ∈ r.open_, a.parked = none) ∧ s.siblings id r = [(id, r)]
  (∀ id s r c, Store.find id s.reqs = some r → due s id r c → alone s id r → exec (.landingFaultPark id) s = .next (parked s id r c (queued s id r))) ∧
  (∀ stack s id r c, s.landFull stack = false → r.stack = stack → due s id r c → alone s id r → (∃ l1 l2, s.reqs = l1 ++ (id, r) :: l2 ∧ ∀ q ∈ l1, q.2.stack ≠ stack ∨ ∀ c, ¬ due s q.1 q.2 c) →
    exec (.holdQueueRoom stack) s = .next (parked s id r c (queued s id r)))

/-- FAULT_NOTICE of a parked entry: a running thread of the program holds the notice; a ghost's becomes a ghost delivery of its stand; the entry is marked (R366, R368). -/
def NoticesClaim : Prop :=
  ∀ (id : Nat) (s : State) (r : Req) (a : RLane) (st : Stand), Store.find id s.reqs = some r → r.team = none → r.acc ≠ 6 → r.open_.find? (fun a => a.parked.isSome && !a.note) = some a →
    s.stand (standKey r.g r.slot) = some st → st.launch = r.launch →
    let n : Notice := { req := id, lane := a.lane, cause := a.parked.getD 0 }
    let told : Store Req := Store.put id { r with lanes := r.lanes.map fun b => if b.lane = a.lane then { b with note := true } else b } s.reqs
    let key := standKey r.g r.slot
    (a.ghost = false → s.noticed r (st.t false a.lane) = false → ((st.t false a.lane).st = .ready ∨ (st.t false a.lane).st = .stalled ∨ (st.t false a.lane).st = .issuing) →
      exec (.faultNotice id) s = .next { s.onT key false a.lane (fun t => { t with notices := t.notices ++ [n] }) with reqs := told }) ∧
    (a.ghost = true → exec (.faultNotice id) s = .next { s.onStand key (fun st => { st with dl := st.dl ++ [{ cause := n.cause, kind := 2, acc := r.acc, ghost := true, lanes := [{ req := some id, lane := a.lane, pkt := r.pkt, slot := r.pslot, addr := BitVec.ofNat 64 (((r.lanes.find? fun b => decide (b.lane = a.lane)).map (·.addr)).getD 0), retPc := 0, retSlot := 0 }] }] }) with reqs := told })

/-- The checks of R250 in their order: a lone participant whose address is misaligned, out of range, or in a page whose entry does not give the permission takes cause 0x10, 0x11 or 0x13 at its slot, with the address, and sends nothing; in a handler it is a double trap, which kills the launch (R250, R356, R363). -/
def AccessTrapsClaim : Prop :=
  let traps (i : MMem → Instr) (n acc : Nat) (need : Need) : Prop := ∀ x s sq e l cause, Lone s sq e (i x) l → e.free s (orderOf x.ord x.scp) → s.skidUsed sq.g < 256 →
    let a := (e.st.gaddr x.addr l).toNat
    let out := s.rangeBad (s.partOf e.l.ctx) a
    (cause = 0x10 ∧ a % n ≠ 0) ∨ (cause = 0x11 ∧ a % n = 0 ∧ out = true) ∨
      (cause = 0x13 ∧ a % n = 0 ∧ out = false ∧ s.bellOf e.l.ctx a = none ∧ region (s.normal a) ≠ 4 ∧ ∃ b, s.brandOf sq.g e.l.ctx (s.normal a) = some b ∧ b.gives need = false) →
    let u := s.acquired e (orderOf x.ord x.scp)
    (sq.hdl = false → ∃ t, exec (i x) s = .next t ∧ SameButCounters (u.take e.key false sq.launch
      { cause := cause, kind := 0, acc := acc, ghost := false, lanes := [{ lane := l, pkt := e.l.pkt sq.pc, slot := sq.k, addr := BitVec.ofNat 64 a, retPc := sq.pc, retSlot := sq.k }] }) t) ∧
    (sq.hdl = true → ∃ t launches, exec (i x) s = .next t ∧ SameButCounters { u.dropLanes e.key true (bit l) with launches := launches, inbox := .kill sq.launch 0x06 :: s.inbox } t)
  traps .ldB8 1 1 needRd ∧ traps .ldB16 2 1 needRd ∧ traps .ldB32 4 1 needRd ∧ traps .ldB64 8 1 needRd ∧ traps .ldB128 16 1 needRd ∧ traps .ldS8 1 1 needRd ∧ traps .ldS16 2 1 needRd ∧
  traps .stB8 1 2 needWr ∧ traps .stB16 2 2 needWr ∧ traps .stB32 4 2 needWr ∧ traps .stB64 8 2 needWr ∧ traps .stB128 16 2 needWr ∧ traps .stS8 1 2 needWr ∧ traps .stS16 2 2 needWr

/-- Early faults of an access, and late ones: hold queues and notices. The model's choices in it: log entries 38, 53, 119. -/
def Obligations.FaultsParkAndNotify : Prop := AccessTrapsClaim ∧ FaultsParkClaim ∧ NoticesClaim

/-- The bank's integer operations in exact integers, compare-and-swap, and the draw of a chunk: the count that is taken and the new NEXT (R73, R331, R335). -/
def Obligations.AtomicFunctions : Prop :=
  (∀ w ∈ [32, 64], ∀ old d c, old < 2 ^ w → d < 2 ^ w → c < 2 ^ w →
    let a : BitVec w := BitVec.ofNat w old
    let b : BitVec w := BitVec.ofNat w d
    atomNew 0 w old d c = some (a + b).toNat ∧ atomNew 1 w old d c = some (if b.toInt < a.toInt then d else old) ∧ atomNew 2 w old d c = some (if a.toInt < b.toInt then d else old) ∧
    atomNew 3 w old d c = some (a &&& b).toNat ∧ atomNew 4 w old d c = some (a ||| b).toNat ∧ atomNew 5 w old d c = some (a ^^^ b).toNat ∧ atomNew 6 w old d c = some d ∧
    atomNew 7 w old d c = if old = d then some c else none) ∧
  (∀ next end_ div minc, next < 2 ^ 32 → end_ < 2 ^ 32 →
    (end_ ≤ next → chunkDraw next end_ div minc = (next, 0, none)) ∧
    (next < end_ → ∃ n, chunkDraw next end_ div minc = (next, n, some (next + n)) ∧ 1 ≤ n ∧ next + n ≤ end_ ∧ (n = end_ - next ∨ (max minc 1 ≤ n ∧ end_ - next ≤ n * max div 1)) ∧
      (∀ k, max minc 1 ≤ k → end_ - next ≤ k * max div 1 → n ≤ k)))

/-- An atomic of one lane in device memory: its request reads the old bytes, writes what its operation gives, and the bytes it returns reach the counted operation; CHUNK by CHUNK_REQUEST, the others by COUNTED_COMPLETE (R331 to R335). -/
def AtomicsAtHomeClaim : Prop :=
  let lands (rid : Nat) (s : State) (r : Req) (a : RLane) (h : Home) (id : Nat) (o : Op) : Prop := MemOk s ∧ Store.find rid s.reqs = some r ∧ r.op = some id ∧ Store.find id s.ops = some o ∧ o.q ≠ 0 ∧ r.lanes = [a] ∧ s.siblings rid r = [(rid, r)] ∧
    a.done = false ∧ s.reqReady rid r = true ∧ s.fate r = .perform h ∧ h.sp = .dev
  let done (s t : State) (rid : Nat) (r : Req) (a : RLane) (h : Home) (id : Nat) (o : Op) : Prop :=
    let pa := h.pa + a.addr % 128
    let old := memRead s.mem pa (r.kind.width a.data.length)
    let new := (laneOp r.kind old a).1.getD []
    (∀ x, memGet t.mem x = if pa ≤ x ∧ x < pa + new.length then new.getD (x - pa) 0 else memGet s.mem x) ∧ SameStands s t ∧ t.reqs = s.reqs.del rid ∧
    t.ops = Store.adjust id (fun o => { o with lanes := o.lanes.map fun b => if b.lane = a.lane then { b with got := (laneOp r.kind old a).2 } else b }) s.ops
  (∀ rid s r a h id o, lands rid s r a h id o → r.kind = .chunk → ∃ t, exec (.chunkRequest rid) s = .next t ∧ done s t rid r a h id o) ∧
  (∀ rid s r a h id o, lands rid s r a h id o → o.kind = .atom → o.ready = false → r.kind ≠ .chunk → r.kind.bank = true →
    s.reqs.filter (fun q => decide (q.2.op = some id)) = [(rid, r)] → ∃ t, exec (.countedComplete id) s = .next t ∧ done s t rid r a h id o)

/-- COUNTED_COMPLETE of an operation whose bytes are there: first some lanes of its registers may take their words, which ones is free; then each participant's registers have taken the words, but for what a lane that had its word early has written since, every other live lane's stay, and each flag falls. A scratchpad load takes its bytes; a load of one line that no copy holds takes the bytes of device memory (R104, R105, R138, R258, R259). -/
def CountedResultsClaim : Prop :=
  let there (id : Nat) (s : State) (o : Op) (st : Stand) : Prop := Store.find id s.ops = some o ∧ o.q ≠ 0 ∧ o.ready = true ∧ o.hdl = false ∧ (∀ a ∈ o.lanes, a.fault = none ∧ a.lane < 32) ∧ (o.lanes.map fun a => a.lane).Nodup ∧
    o.q = maskOf (o.lanes.map fun a => a.lane) ∧ o.d + o.nreg ≤ st.v.length ∧
    s.stand (standKey o.g o.slot) = some st ∧ st.launch = o.launch ∧ st.h = none ∧ st.place = .resident ∧ (∀ n, o.d ≤ n → n < o.d + o.nreg → n ∉ st.spilledV) ∧ 16 * o.nreg ≤ s.freePool o.g
  let keeps (o : Op) (st w : Stand) : Prop := (∀ l i, inMask o.q l = false → inMask st.live l = true → w.rv (o.d + i) l = st.rv (o.d + i) l) ∧ (∀ n, ¬ (o.d ≤ n ∧ n < o.d + o.nreg) → w.v[n]? = st.v[n]?) ∧
    (w.grant = st.grant ∨ w.grant = (0, 0)) ∧ w = { st with v := w.v, thr := w.thr, grant := w.grant }
  (∀ id s o st k, there id s o st → o.early = some k →
    ∃ t, exec (.countedComplete id) s = .next t ∧ t.ops = s.ops.del id ∧ (∃ stands ctxs, t = { s with stands := stands, ops := t.ops, ctxs := ctxs }) ∧
      (∀ key, key ≠ standKey o.g o.slot → t.stand key = s.stand key) ∧ ∃ w, t.stand (standKey o.g o.slot) = some w ∧ keeps o st w ∧
        (∀ a ∈ o.lanes, inMask st.live a.lane = true → ∀ i, i < o.nreg → w.rv (o.d + i) a.lane = if inMask (k.getD i 0) a.lane then st.rv (o.d + i) a.lane else o.word a i) ∧
        (∀ l, l < 32 → w.t false l = if inMask o.q l && decide (l < st.thr.length) then (st.t false l).flagDown (s.cyc o.g) o.flag else st.t false l)) ∧
  (∀ id s o st, there id s o st → o.early = none →
    ∃ t k n, exec (.countedComplete id) s = .next t ∧ Store.find id t.ops = some { o with early := some k, counted := n } ∧ (∃ stands ops ctxs fresh, t = { s with stands := stands, ops := ops, ctxs := ctxs, fresh := fresh }) ∧
      (∀ key, key ≠ standKey o.g o.slot → t.stand key = s.stand key) ∧ ∃ w, t.stand (standKey o.g o.slot) = some w ∧ keeps o st w ∧ w.thr = st.thr ∧
        (∀ a ∈ o.lanes, inMask st.live a.lane = true → ∀ i, i < o.nreg → w.rv (o.d + i) a.lane = if inMask (k.getD i 0) a.lane then o.word a i else st.rv (o.d + i) a.lane)) ∧
  (∀ id s o n sign, Store.find id s.ops = some o → o.kind = .lds n sign → o.ready = false → s.scrReady id o = true → ∃ t, exec (.countedComplete id) s = .next t ∧
    t = { s with ops := Store.adjust id (fun o => { o with lanes := o.lanes.map fun a => { a with got := s.scrGet o.launch o.g a.addr a.n } }) s.ops }) ∧
  (∀ id s o n sign a h, Store.find id s.ops = some o → s.opGroup o = [(id, o)] → o.kind = .load n sign → o.lanes = [a] → a.fault = none → a.got = [] → a.scale = none → 0 < a.n → a.addr % 128 + a.n ≤ 128 → a.np = false →
    let tag := s.opTag o (128 * lineOf a.addr)
    let x := 128 * lineOf a.addr
    s.lineReady o tag (lineOf a.addr) = true → s.barred tag x = none → s.bellOf o.ctx x = none → region x ≠ 4 →
    Store.find (copyKey (clusterOf o.g) tag x) s.l1 = none → Store.find (copyKey (sectorOf (clusterOf o.g)) tag x) s.sec = none → (∀ r ∈ s.reqs, r.2.kind ≠ .store ∧ r.2.kind ≠ .tdesc) →
    s.landUse o.ctx x false needRd = .ok h → h.sp = .dev →
    ∃ t, exec (.countedComplete id) s = .next t ∧ t.ops = Store.adjust id (fun o => { o with lanes := [{ a with got := memRead s.mem (h.pa + a.addr % 128) a.n }], counted := true }) s.ops ∧
      t.mem = s.mem ∧ t.stands = s.stands ∧ t.reqs = s.reqs)

/-- Counted operations at work. The model's choices in it: log entries 15, 21, 24, 102. -/
def Obligations.CountedOperations : Prop := AtomicsAtHomeClaim ∧ CountedResultsClaim

/-- COPY_COMPLETE: with nothing left to move or to write, a command without a word, or with a fault, ends; one with a word writes it to the scratchpad and ends. A lone unit from scratchpad to scratchpad arrives; one to global memory leaves as a request of the command (R243, R244, R271). The model's choice in it: log entry 18. -/
def Obligations.CopiesComplete : Prop :=
  (∀ id s c, Store.find id s.cpys = some c → c.moves = [] → (∀ r ∈ s.reqs, r.2.cmd ≠ some id) →
    ((c.word = none ∨ c.bad = true) → exec (.copyComplete id) s = .next { s with cpys := s.cpys.del id }) ∧
    (∀ a v, c.word = some (a, v) → c.bad = false → s.locked c.launch c.g a (a + 4) = false →
      exec (.copyComplete id) s = .next { s.scrPut c.launch c.g a (toBytes 4 v.toNat) with cpys := s.cpys.del id })) ∧
  (∀ id s c m a, Store.find id s.cpys = some c → (∀ k ∈ s.cpys, k.1 < id → k.2.g = c.g → k.2.begun = true ∨ k.2.moves = []) → c.moves = [m] → m.nbits = 128 → m.srcBit = 0 → m.dstBit = 0 → m.src = some a → m.srcScr = true →
    (m.dstScr = true → s.locked c.launch c.g m.dst (m.dst + 16) = false → ∃ t, exec (.copyComplete id) s = .next t ∧ Store.find id t.cpys = some { c with moves := [], begun := true } ∧
      t.scr = (s.scrPut c.launch c.g m.dst (s.scrGet c.launch c.g a 16)).scr ∧ t.reqs = s.reqs ∧ t.mem = s.mem) ∧
    (m.dstScr = false → m.dst % 16 = 0 → ∃ t r, exec (.copyComplete id) s = .next t ∧ Store.find id t.cpys = some { c with moves := [], begun := true } ∧ t.reqs = s.reqs ++ [(s.seq, r)] ∧
      r.kind = .copy ∧ r.cmd = some id ∧ r.lanes = [rlane m.lane (s.normal m.dst) (s.scrGet c.launch c.g a 16) []] ∧ t.scr = s.scr ∧ t.mem = s.mem))

/-- A brand miss is answered with the landing's entry, the page's own or, for an absent page, one with NP, at the head of the core's table of at most 512 (R229, R230); INVALIDATE takes the TLB and brand entries, the owner records and the copies that it names, and no others, and sets BUSY, or is refused when it names a tag that is not the function's; BUSY stays while a request under the tag is neither performed nor parked, and falls when none is and no operation, copy or team is there (R234). The model's choices in it: log entries 27, 120. -/
def Obligations.BrandsAndInvalidation : Prop :=
  (∀ id s m, Store.find id s.misses = some m → ∃ t, exec (.brandFill id) s = .next t ∧ t = { s with brand := t.brand, lru := t.lru, misses := s.misses.del id } ∧
    (∀ g, g ≠ m.g → Store.find g t.brand = Store.find g s.brand) ∧
    let b := s.brandFor m.ctx m.va
    let old := ((Store.find m.g s.brand).getD []).filter fun e => !decide (e.ctx = b.ctx ∧ e.vpn * 2 ^ pszBits e.psz / 2 ^ pszBits b.psz = b.vpn)
    ∃ l, Store.find m.g t.brand = some (b :: l) ∧ l.length < 512 ∧ (∀ e ∈ l, e ∈ old) ∧ (old.length < 512 → l = old)) ∧
  (∀ (s : State) c x, region (s.normal x) ≠ 3 → let y := s.normal x
    let b := s.brandFor c x
    (s.translate c y = none → b.np = true ∧ b.vpn = y / 65536 ∧ b.psz = 0 ∧ b.rd = true ∧ b.wr = true ∧ b.at_ = true ∧ b.mx = true ∧ b.ex = false) ∧
    ∀ l, s.translate c y = some l → b = { ctx := c, vpn := y / 2 ^ l.size, psz := l.psz, tag := s.tagOf c l, rd := l.rd, wr := l.wr, ex := l.ex, at_ := l.at_, mx := l.mx, np := false }) ∧
  (let stays (s t : State) (hit : Nat → Nat → Nat → Bool) : Prop := (∀ x, x ∈ t.tlb ↔ x ∈ s.tlb ∧ hit x.tag (x.vpage * 2 ^ x.leaf.size) x.leaf.size = false) ∧
     (∀ g, Store.find g t.brand = (Store.find g s.brand).map fun es => es.filter fun x => !(hit x.tag (x.vpn * 2 ^ pszBits x.psz) (pszBits x.psz))) ∧ (∀ x, x ∈ t.owners ↔ x ∈ s.owners ∧ hit x.tag (x.vpage * 2 ^ x.size) x.size = false) ∧
     (∀ x, x ∈ t.l1 ↔ x ∈ s.l1 ∧ hit (x.1 / 2 ^ 52 % 2 ^ 28) (x.1 % 2 ^ 52 * 128) 7 = false) ∧ ∀ x, x ∈ t.sec ↔ x ∈ s.sec ∧ hit (x.1 / 2 ^ 52 % 2 ^ 28) (x.1 % 2 ^ 52 * 128) 7 = false
   let may (s : State) (fn tag : Nat) : Prop := fn = 0 ∨ (tag < 0x8000 ∧ ∃ c ∈ s.ctxs, (s.part c.2.part).fn = fn ∧ c.2.ctag = tag)
   let runs (i : Nat → Instr) (ok : State → Nat → Prop) (hit : State → Nat → Nat → Nat → Nat → Bool) : Prop := ∀ s fn, (s.fn fn).invBusy = false →
     (ok s fn → ∃ t, exec (i fn) s = .next t ∧ stays s t (hit s fn) ∧ t.fns = Store.put fn { s.fn fn with invBusy := true } s.fns ∧
       t = { s with tlb := t.tlb, brand := t.brand, owners := t.owners, l1 := t.l1, sec := t.sec, fns := t.fns }) ∧
     (¬ ok s fn → exec (i fn) s = .next { s with fns := Store.put fn { s.fn fn with invRefused := true } s.fns })
   let tagOf (s : State) (fn : Nat) : Nat := (s.fn fn).invCmd.toNat % 65536
   runs .invalidateTag (fun s fn => may s fn (tagOf s fn)) (fun s fn tag _ _ => decide (tag = tagOf s fn)) ∧
   runs .invalidatePage (fun s fn => may s fn (tagOf s fn)) (fun s fn tag base k => decide (tag = tagOf s fn ∧ base / 2 ^ max k 16 = (s.fn fn).invAddr / 65536 * 65536 / 2 ^ max k 16)) ∧
   runs .invalidateFunction (fun _ _ => True) (fun s fn tag _ _ => decide ((∃ c ∈ s.ctxs, (s.part c.2.part).fn = fn ∧ c.2.ctag = tag) ∨ (fn = 0 ∧ 0x8000 ≤ tag))) ∧
   (∀ s fn, (s.fn fn).invBusy = true → (∃ r ∈ s.reqs, (∃ a ∈ r.2.open_, a.parked = none) ∧
     if (s.fn fn).invCmd.toNat / 65536 % 4 = 3 then ∃ c ∈ s.ctxs, (s.part c.2.part).fn = fn ∧ c.2.ctag = r.2.tag else r.2.tag = tagOf s fn) → exec (.invalidateDone fn) s = .next s)) ∧
  (∀ s fn, (s.fn fn).invBusy = true → (∀ r ∈ s.reqs, ∀ a ∈ r.2.open_, a.parked ≠ none) → s.ops = [] → s.cpys = [] → s.teams = [] → exec (.invalidateDone fn) s = .next { s with fns := Store.put fn { s.fn fn with invBusy := false } s.fns })

/-! Teams -/

/-- TINFO reads the number, size, count, home core or barrier count of a thread's team, and without a team all ones or 0. A lone JOIN enters a team of its size that has room, forms one where none is, or waits: behind an earlier JOIN for the same team, or for a record and a core with room. A lone LEAVE leaves a team to the others; the last leaver frees it, or waits for its operations (R131 to R133, R176 to R178). -/
def Obligations.TeamMembership : Prop :=
  (∀ x, SetsVF (.tinfo x) x.d (fun e => ∀ l, inMask e.q l = true → (e.st.src x.b l).toNat ≤ 4)
    (fun s e l => match (e.raw.t false l).team.bind s.team with
      | some t => BitVec.ofNat 32 ([t.num, t.size, t.count, t.home, t.barN].getD (e.st.src x.b l).toNat 0)
      | none => if e.st.src x.b l = 0 then 0xFFFFFFFF else 0) fun _ _ => 0) ∧
  (∀ x s sq e l, Lone s sq e (.join x) l → (e.raw.t false l).team = none →
    let n := (e.st.rv x.a l).toNat
    let size := (e.st.src x.b l).toNat
    let cl := clusterOf sq.g
    n ≤ 127 → 1 ≤ size → size ≤ 4096 →
    (∀ tid t, s.teamOf cl e.l.ctx n = some (tid, t) → t.size = size → t.count < size → ∃ u, exec (.join x) s = .next u ∧
      SameButCounters ((s.onTeam tid fun t => { t with count := t.count + 1 }).onT e.key false l fun th => { th with team := some tid }) u) ∧
    (∀ home, s.teamOf cl e.l.ctx n = none → (∀ j ∈ s.joins, j.cl = cl → j.ctx = e.l.ctx → j.num = n → s.joinLive j = false) → s.homeFor e.l.hdr sq.g = some home → ∃ u, exec (.join x) s = .next u ∧
      SameButCounters ({ s with teams := s.teams ++ [(s.seq, Team.start cl e.l.ctx n size sq.launch home (s.seq + 1) e.l.hdr)], seq := s.seq + 2 }.onT e.key false l fun th => { th with team := some s.seq }) u) ∧
    (s.teamOf cl e.l.ctx n = none → ((∃ j ∈ s.joins, j.cl = cl ∧ j.ctx = e.l.ctx ∧ j.num = n ∧ s.joinLive j = true) ∨ s.homeFor e.l.hdr sq.g = none) → ∃ u, exec (.join x) s = .next u ∧
      SameButCounters { s.waits e l .join (fun t => { t with w := { t.w with next := e.next } }) with
        joins := s.joins ++ [{ cl := cl, ctx := e.l.ctx, num := n, size := size, g := sq.g, slot := e.slot, lane := if sq.hdl then l + 32 else l }] } u)) ∧
  (∀ x s sq e l tid t, Lone s sq e (.leave x) l → (e.raw.t false l).team = some tid → s.team tid = some t → (∀ c, c < 8 → (t.cv.getD c Cv.idle).signers = []) →
    let th := e.raw.t false l
    let barN := if th.barP && decide (th.barPh = t.barPh) then t.barN - 1 else t.barN
    let out (s : State) : State := s.onT e.key false l fun th => { th with team := none, barP := false, syncW := false }
    (2 ≤ t.size → (barN = 0 ∨ barN < t.size - 1) → ∃ u, exec (.leave x) s = .next u ∧
      SameButCounters (out (s.onTeam tid fun t => { t with barN := barN, size := t.size - 1, count := t.count - 1 })) u) ∧
    (t.size = 1 → t.queue = [] → ∃ u, exec (.leave x) s = .next u ∧ SameButCounters (out { s with teams := (s.teams.adjust tid fun t => { t with barN := barN, size := 0, count := t.count - 1 }).del tid }) u) ∧
    (t.size = 1 → t.queue ≠ [] → ∃ u, exec (.leave x) s = .next u ∧
      SameButCounters ((s.onTeam tid fun t => { t with barN := barN, size := 0, count := t.count - 1 }).waits e l .leave fun t => { t with w := { t.w with next := e.next } }) u))

/-- A lone EXIT of the program, with no team, no request outstanding and other live threads in its stand: the thread is gone from its squads, with its flags, return stack and watch; a counted operation no longer writes for it (R173). -/
def Obligations.ExitEndsAThread : Prop :=
  ∀ x s sq e l, Lone s sq e (.exit x) l → sq.hdl = false → (e.raw.t false l).team = none → (∀ r ∈ s.reqs, r.2.ofThread sq.g e.slot l = false) → (∀ c ∈ s.cpys, c.2.g ≠ sq.g) → (s.ghosts sq.g).length ≤ 64 →
    e.raw.live &&& ~~~(bit l) ≠ 0 → (∀ t ∈ s.teams, ∀ o ∈ t.2.queue, ∀ w ∈ o.signers, w.1 ≠ sq.g) → (∀ t ∈ s.teams, ∀ o ∈ t.2.queue, ∀ w ∈ o.fl, w.1 ≠ sq.g) → l < e.raw.thr.length →
    ∃ t, exec (.exit x) s = .next t ∧ (∃ w, t.stand e.key = some w ∧ inMask w.live l = false ∧ (w.t false l).st = .exited ∧ (w.t false l).rs = [] ∧ (w.t false l).watch = none ∧ (w.t false l).flags = List.replicate 12 0 ∧
        (∀ k, k ≠ l → w.t false k = e.raw.t false k) ∧ w = { e.raw with thr := w.thr }) ∧ (∀ key, key ≠ e.key → t.stand key = s.stand key) ∧
      t.issue = s.issue.map (Squad.drop e.key false (bit l)) ∧ (∀ id o, Store.find id t.ops = some o → o.g = sq.g → o.slot = e.slot → o.hdl = false → inMask o.q l = false) ∧
      t.mem = s.mem ∧ t.scr = s.scr ∧ t.teams = s.teams

/-- A lone participant at the team barrier: ARRIVE counts once; WAIT goes on with its acquire when the phase has passed, and parks otherwise; SYNC that completes the phase goes on at once (R338). -/
def Obligations.Barriers : Prop :=
  let at_ (s : State) (e : Env) (l tid : Nat) (t : Team) : Prop := (e.raw.t false l).team = some tid ∧ s.team tid = some t ∧ l < e.raw.thr.length
  let out (s : State) (e : Env) (l scope : Nat) : State := (s.onT e.key false l fun t => { t with barP := false, syncW := false }).endLeases e.sq.g scope
  (∀ x s sq e l tid t, Lone s sq e (.barArrive x) l → e.free s { acq := false, rel := true, scope := x.s } → at_ s e l tid t → (e.raw.t false l).barP = false → t.barN + 1 < t.size →
    ∃ u, exec (.barArrive x) s = .next u ∧
      SameButCounters ((s.onT e.key false l fun th => { th with barP := true, barPh := t.barPh }).onTeam tid fun t => { t with barN := t.barN + 1 }) u) ∧
  (∀ x s sq e l tid t, Lone s sq e (.barWait x) l → e.free s { acq := true, rel := false, scope := x.s } → at_ s e l tid t → (e.raw.t false l).barP = true →
    (t.barPh ≠ (e.raw.t false l).barPh → ∃ u, exec (.barWait x) s = .next u ∧ SameButCounters (out (s.endLeases sq.g x.s) e l x.s) u) ∧
    (t.barPh = (e.raw.t false l).barPh → ∃ u, exec (.barWait x) s = .next u ∧
      SameButCounters (((s.endLeases sq.g x.s).onT e.key false l fun th => { th with syncW := false }).waits e l .bar fun th => { th with w := { th.w with acq := true, scp := x.s, next := e.next } }) u)) ∧
  (∀ x s sq e l tid t, Lone s sq e (.barSync x) l → e.free s { acq := true, rel := true, scope := x.s } → at_ s e l tid t → (e.raw.t false l).barP = false → (e.raw.t false l).syncW = false → t.size = t.barN + 1 → t.barPh < 2 ^ 32 →
    (∀ n, n % 32 = l → (e.raw.tw n).st ≠ .parked .bar) →
    (∀ y ∈ s.stands, y.2.barWaiters tid ((t.barPh + 1) % 2 ^ 32) = []) →
    ∃ u, exec (.barSync x) s = .next u ∧ u.team tid = some { t with barN := 0, barPh := (t.barPh + 1) % 2 ^ 32 } ∧
      (∃ w, u.stand e.key = some w ∧ (w.t false l).barP = false ∧ (w.t false l).st = (e.raw.t false l).st ∧ w = { e.raw with thr := w.thr }) ∧ u.issue = s.issue)

/-! The matrix engine -/

/-- A lone participant of a matrix form signs its convergence register and parks, as long as others of its team are still to sign; a counted form raises its flag (R278, R279). -/
def SigningClaim : Prop :=
  let signs (i : Instr) (cv : Nat) (commit counted : Bool) : Prop := ∀ s sq e l tid t, Lone s sq e i l → s.scrBusy e = false → (e.raw.t false l).team = some tid → s.team tid = some t →
    let y := if (t.cv.getD cv Cv.idle).sig = [] then { Cv.idle with sig := e.sig } else t.cv.getD cv Cv.idle
    cv < t.cv.length → y.sig = e.sig → y.count + 1 < t.size → (commit = true → t.batches.length < 4) →
    ∃ u, exec i s = .next u ∧
      SameButCounters ((s.onTeam tid fun t => { t with cv := t.cv.set cv { sig := e.sig, count := y.count + 1, signers := y.signers ++ [e.who l] } }).waits e l .sign fun th =>
        let th := if counted then th.flagUp e.flag else th
        { th with w := { th.w with d := if counted then e.flag else 15, next := e.next } }) u
  (∀ x, signs (.mma x) x.cv false false) ∧ (∀ x, signs (.mmag x) x.cv false false) ∧ (∀ x, signs (.mzero x) x.cv false false) ∧ (∀ x, signs (.gath x) x.cv false true) ∧
  (∀ x, signs (.tld x) x.cv false true) ∧ (∀ x, signs (.mcommit x) x.cv true false) ∧ (∀ x, signs (.mdrain x) x.cv false false) ∧ (∀ x, signs (.mdraina x) x.cv false false)

/-- The only member of a team signs and its operation is accepted: the operation waits in the engine's queue with its operands, its batch counts it, its scratchpad reads are locked, and the register is idle again; MCOMMIT closes the open batch and opens another (R280, R281, R287). What the words of each form must satisfy is the judgement's; MZERO's is stated whole (R297). -/
def AcceptanceClaim : Prop :=
  let signed (s : State) (e : Env) (l tid cv : Nat) (t : Team) (counted : Bool) : State :=
    (s.onTeam tid fun t => { t with cv := t.cv.set cv { sig := e.sig, count := 1, signers := [e.who l] } }).waits e l .sign fun th =>
      let th := if counted then th.flagUp e.flag else th
      { th with w := { th.w with d := if counted then e.flag else 15, next := e.next } }
  let ready (s : State) (sq : Squad) (e : Env) (i : Instr) (l tid cv : Nat) (t : Team) : Prop := Lone s sq e i l ∧ s.scrBusy e = false ∧ (e.raw.t false l).team = some tid ∧ s.team tid = some t ∧ t.size = 1 ∧
    e.raw.launch = sq.launch ∧ cv < t.cv.length ∧ (t.cv.getD cv Cv.idle).sig = [] ∧ t.queue.length < 16
  let accepts (form : Nat) (i plain : Instr) (cv : Nat) (counted : Bool) (judge : State → Team → Signer → (XSrc → Nat) → Judged) : Prop :=
    ∀ s sq e l tid t w n, ready s sq e i l tid cv t → decode e.sig = some (plain, n) →
      let s1 := signed s e l tid cv t counted
      let t1 := { t with cv := t.cv.set cv { sig := e.sig, count := 1, signers := [e.who l] } }
      s1.stand e.key = some w → ∀ s2 t2 op locks, judge s1 t1 { w := e.who l, st := w.seen sq.hdl, t := w.t sq.hdl l, l := e.l, pkt := e.l.pkt (w.t sq.hdl l).pc } (fun b => ((w.seen sq.hdl).xsrc b).toNat) = .ok s2 t2 (some op) locks →
      ∃ u op', exec i s = .next u ∧ op.form = form ∧ op' = { op with fl := op'.fl, signers := [e.who l] } ∧
        u.team tid = some { t2 with cv := t2.cv.set cv Cv.idle, locks := t2.locks ++ locks, queue := t2.queue ++ [op'], openB := { t2.openB with left := t2.openB.left + 1 } }
  (∀ x, accepts 0 (.mma x) (.mma { x with c := 0 }) x.cv false fun s t y v => s.judgeMma t y x.i (v x.a) (v x.b) false) ∧
  (∀ x, accepts 1 (.mmag x) (.mmag { x with c := 0 }) x.cv false fun s t y v => s.judgeMma t y x.i (v x.a) (v x.b) true) ∧
  (∀ x, accepts 2 (.mzero x) (.mzero { x with c := 0 }) x.cv false fun s t y v => s.judgeMzero t y x.i (v x.a)) ∧
  (∀ x, accepts 3 (.gath x) (.gath { x with c := 0 }) x.cv true fun s t y v => s.judgeGath t y x.i x.a (v x.b)) ∧
  (∀ x, accepts 4 (.tld x) (.tld { x with c := 0 }) x.cv true fun s t y v => s.judgeTld t y x.i (v x.a) (v x.b)) ∧
  (∀ x, accepts 5 (.mdrain x) (.mdrain { x with c := 0 }) x.cv false fun s t y v => s.judgeDrain t y false 0 x.i (v x.a) (v x.b)) ∧
  (∀ x, accepts 6 (.mdraina x) (.mdraina { x with c := 0 }) x.cv false fun s t y v => s.judgeDrain t y true x.q x.i (v x.a) (v x.b)) ∧
  (∀ x s sq e l tid t n, ready s sq e (.mcommit x) l tid x.cv t → decode e.sig = some (.mcommit { x with c := 0 }, n) → t.batches.length < 4 →
    ∃ u, exec (.mcommit x) s = .next u ∧
      u.team tid = some { t with cv := t.cv.set x.cv Cv.idle, batches := t.batches ++ [t.openB], openB := { id := s.seq, left := 0, targets := [], faults := [] } }) ∧
  (∀ (s : State) (t : Team) (y : Signer) (i w : Nat), let m := 16 * (w % 8 + 1)
    let n := 16 * (w / 8 % 8 + 1)
    let ty := w / 64 % 4
    w < 256 → ty ≠ 3 → m * n * (if ty = 2 then 8 else 4) ≤ (if t.accs ≤ 4 then 32768 else 16384) →
    ∃ op, s.judgeMzero t y i w = .ok s { t with openB := { t.openB with targets := t.openB.targets ++ [i] }, acc := t.acc.modify i fun a => { a with m := m, n := n, ty := ty } } (some op) [] ∧
      op.form = 2 ∧ op.i = i ∧ op.m = m ∧ op.n = n ∧ op.ty = ty ∧ op.batch = t.openB.id)

/-- Matrix forms are signed and accepted. The model's choices in it: log entries 29, 30, 31, 35, 105, 122. -/
def Obligations.MatrixSigningAndAcceptance : Prop := SigningClaim ∧ AcceptanceClaim

/-! Watches, messages, trees, time -/

/-- MONA arms a lone thread's watch on the line, keeping the time a line of the table was first armed. MWAIT takes its watch and answers written or lost at once, or parks with its deadline; WAITA takes a word that differs at once, or parks (R339 to R342). The model's choice in it: log entry 40. -/
def Obligations.Watches : Prop :=
  (∀ x s sq e l, Lone s sq e (.mona x) l →
    let a := (e.st.gaddr x.addr l).toNat
    let y := s.normal a
    let key (w : Watch) : Prop := w.inTable = true ∧ w.tag = s.tagAt e y ∧ w.line = lineOf y
    e.may s a 1 needRd → region y ≠ 2 → s.acqWait sq.g e.slot l sq.hdl = false → (e.raw.t false l).watch = none → l < e.raw.thr.length →
    let armed (first : Nat) : State := (s.onT e.key false l fun t => { t with watch := none }).onT e.key false l fun t => { t with watch := some { tag := s.tagAt e y, line := lineOf y, scope := x.scp, st := .armed, first := first } }
    ((∀ w ∈ s.watches sq.g, ¬ key w.1) → (s.lines sq.g).length < 256 → ∃ u, exec (.mona x) s = .next u ∧ SameButCounters (armed (s.cyc sq.g)) u) ∧
    (∀ first, (∃ w ∈ s.watches sq.g, key w.1 ∧ w.1.first = first) → (∀ w ∈ s.watches sq.g, key w.1 → first ≤ w.1.first) → ∃ u, exec (.mona x) s = .next u ∧ SameButCounters (armed first) u)) ∧
  (∀ x s sq e l, Lone s sq e (.mwait x) l → e.free s { acq := decide (x.ord = 1), rel := false, scope := x.scp } →
    let s1 := s.acquired e { acq := decide (x.ord = 1), rel := false, scope := x.scp }
    let ends (hit lost : Bool) : Prop := ∃ u, exec (.mwait x) s = .next u ∧
      SameButCounters (((s1.setStand e.key ((e.raw.back sq.hdl ((e.st.wp (bit l) x.d fun _ => hit).wp (bit l) (x.d + 1) fun _ => lost)).spent e.raw e.q)).onT e.key false l fun t => { t with watch := none }).dropLanes e.key sq.hdl 0) u
    ((e.raw.t false l).watch = none → ends false true) ∧
    (∀ w, (e.raw.t false l).watch = some w → (w.st = .triggered → ends true false) ∧ (w.st = .lost → ends false true) ∧
      (w.st = .armed → ∃ u, exec (.mwait x) s = .next u ∧ SameButCounters ((s1.setStand e.key ((e.raw.back sq.hdl e.st).spent e.raw e.q)).waits e l .mwait fun t =>
        { t with mwdl := if e.st.ticks x.addr l = 0 then 0 else s.now + e.st.ticks x.addr l, w := { t.w with d := x.d, acq := decide (x.ord = 1), scp := x.scp, next := e.next } }) u))) ∧
  (∀ x s sq e l, Lone s sq e (.waita x) l → e.free s { acq := decide (x.ord = 1), rel := false, scope := x.scp } → s.scrBusy e = false →
    let s1 := s.acquired e { acq := decide (x.ord = 1), rel := false, scope := x.scp }
    let a := (e.st.saddr x.addr l).toNat
    let word : W := BitVec.ofNat 32 (ofBytes (s.scrGet sq.launch sq.g a 4))
    a % 4 = 0 → a + 4 ≤ s.scrSize sq.launch sq.g → 16 ≤ s.freePool sq.g →
    (word ≠ e.st.rv x.d l → ∃ u, exec (.waita x) s = .next u ∧ SameButCounters ((s1.setStand e.key ((e.raw.back sq.hdl (e.st.wv (bit l) x.d .auto fun _ => word)).spent e.raw e.q)).dropLanes e.key sq.hdl 0) u) ∧
    (word = e.st.rv x.d l → ∃ u, exec (.waita x) s = .next u ∧ SameButCounters ((s1.setStand e.key ((e.raw.back sq.hdl e.st).spent e.raw e.q)).waits e l .waita fun t =>
      { t with w := { d := x.d, a := a, v := e.st.rv x.d l, hit := none, acq := decide (x.ord = 1), scp := x.scp, next := e.next } }) u))

/-- SEND stalls a lone thread with its message on the way; once every status is known it writes them to V[A+3] and P[B]. A ring without a header refuses with 2, a full one with 1; else the message is appended behind its header and TAIL moves, and the status is 0. An answer from another chip fills the status in (R245 to R248, R344). -/
def MessagesClaim : Prop :=
  (∀ x s sq e l, Lone s sq e (.send x) l → s.scrBusy e = false → s.walksOf e = [] →
    let a := (e.st.rv x.a l).toNat
    let b := (e.st.rv (x.a + 1) l).toNat
    let c := (e.st.rv (x.a + 2) l).toNat
    let len := b % 512
    16 ≤ len → len ≤ 256 → b / 512 % 128 = 0 → c % 512 < 384 → c / 2 ^ 20 = 0 → a % 16 = 0 → a + len ≤ s.scrSize sq.launch sq.g → c / 512 % 128 = s.pkg.chip →
    let m : RingMsg := { launch := sq.launch, core := c % 512, chip := s.pkg.chip, ring := c / 2 ^ 16 % 16, mtag := b / 2 ^ 16, srcCore := sq.g, srcChip := s.pkg.chip, payload := s.scrGet sq.launch sq.g a len, answer := some s.seq }
    ∃ u, exec (.send x) s = .next u ∧
      SameButCounters { s with walks := s.walks ++ [(s.seq, { g := sq.g, slot := e.slot, lane := l, hdl := sq.hdl, kind := .send m x.a x.b, status := none, sq := sq.id })], seq := s.seq + 1, issue := s.again.issue } u) ∧
  (∀ x s sq e, Solo s sq e (.send x) → s.scrBusy e = false → (∀ l, inMask e.q l = true → s.sent e l = true) → (∀ w ∈ s.walksOf e, s.walkDone w.2 = true) → 16 ≤ s.freePool sq.g →
    let st (l : Nat) : Nat := ((((s.walksOf e).map fun w => w.2).find? fun w => decide (w.lane = l)).bind fun w => w.status).getD 0
    ∃ u, exec (.send x) s = .next u ∧ SameButCounters { s.setStand e.key ((e.raw.back sq.hdl ((e.st.wv e.q (x.a + 3) .auto fun l => BitVec.ofNat 32 (st l)).wp e.q x.b fun l => decide (st l = 0))).spent e.raw e.q) with
      walks := s.walks.filter fun w => !(w.2.of e && inMask e.q w.2.lane) } u) ∧
  (∀ (m : RingMsg) (id : Nat) (s : State), m.answer = some id → m.srcChip = s.pkg.chip → m.payload.length % 16 = 0 → 16 ≤ m.payload.length → s.ringBehind m = false → MemOk s →
    let answered (u : State) (n : Nat) : Store WalkRec := Store.adjust id (fun w => { w with status := some n }) u.walks
    (s.ring m.launch m.core m.ring = none → exec (.ringAppend m) s = .next { s with walks := answered s 2 }) ∧
    (∀ r, s.ring m.launch m.core m.ring = some r → r.head < 2 ^ 32 → r.tail < 2 ^ 32 →
      let off := r.tail % r.z
      let used := (r.tail + 2 ^ 32 - r.head) % 2 ^ 32
      let need := 16 + m.payload.length
      let pad := if r.z - off < need then r.z - off else 0
      (r.z < used + pad + need → exec (.ringAppend m) s = .next { s with walks := answered s 1 }) ∧
      (used + pad + need ≤ r.z → (∀ lo hi, s.locked m.launch m.core lo hi = false) → ∃ u, exec (.ringAppend m) s = .next u ∧ u.walks = answered s 0 ∧
        u.scrGet m.launch m.core (r.base + (off + pad) % r.z + 16) m.payload.length = m.payload ∧
        u.scrGet m.launch m.core (r.base + (off + pad) % r.z) 7 = toBytes 2 m.payload.length ++ toBytes 2 m.mtag ++ toBytes 2 m.srcCore ++ toBytes 1 m.srcChip ∧
        u.scrGet m.launch m.core (r.hdr + 12) 4 = toBytes 4 (r.tail + pad + need) ∧ u.mem = s.mem))) ∧
  (∀ id n s w m a b, Store.find id s.walks = some w → w.kind = .send m a b → w.status = none → exec (.sendStatus id n) s = .next { s with walks := Store.put id { w with status := some n } s.walks })

/-- TREE and TREEW contribute a stand's buffer once to the round of its count, with its flag up or its threads parked; the contribution that completes a round gives its one member here the result of the canonical tree and its predicate (R198, R345). -/
def TreesClaim : Prop :=
  let blank (c grp round n len op fmt : Nat) : TreeRound := { ctx := c, grp := grp, round := round, n := n, len := len, op := op, fmt := fmt, vals := [], came := 0, failed := false, ins := [] }
  let gives (i : XTree → Instr) (counted : Bool) : Prop := ∀ x s sq e, Solo s sq e (i x) → e.free s { acq := false, rel := !counted, scope := 7 } → s.scrBusy e = false → s.treeCause e x.a = none → s.pkg.routes = [] →
    let buf := (e.st.rs x.a).toNat
    let b := (e.st.rs (x.a + 1)).toNat
    let c := (e.st.rs (x.a + 2)).toNat
    let round := e.raw.tcnt.getD x.i 0
    let n := c / 2 ^ 16 % 4096 + 1
    2 ≤ n → (∀ r ∈ s.rounds, ¬ (r.ctx = e.l.ctx ∧ r.grp = x.i ∧ r.round = round)) →
    let m : TreeIn := { g := sq.g, slot := e.slot, launch := sq.launch, hdl := sq.hdl, buf := buf, p := x.b, q := e.q, flag := if counted then some e.flag else none, res := none }
    let s1 := s.onStand e.key fun st => { st with tcnt := st.tcnt.set x.i ((round + 1) % 2 ^ 32) }
    let s2 := if counted then s1.onTs e.key sq.hdl e.q fun t => t.flagUp e.flag else s1.parkAt e e.q .treew fun _ t => { t with w := { t.w with next := e.next } }
    ∃ u, exec (i x) s = .next u ∧ SameButCounters { s2 with rounds :=
      { blank e.l.ctx x.i round n (b % 128) (b / 256 % 8) (b / 4096 % 16) with vals := [(c % 4096, s.scrGet sq.launch sq.g buf (b % 128))], came := 1, ins := [m] } :: s.rounds } u
  gives .tree true ∧ gives .treew false ∧
  (∀ (tm : TreeMsg) (s : State) (r : TreeRound) (m : TreeIn) (st : Stand) (f : Nat), MemOk s → (s.part (s.partOf tm.ctx)).resetAt = none → s.pkg.routes = [] → s.rounds = [r] → r.ctx = tm.ctx → r.grp = tm.grp → r.round = tm.round →
    r.n = tm.n → r.len = tm.len → r.op = tm.op → r.fmt = tm.fmt → r.failed = false → Store.find tm.rank r.vals = none → r.vals.length + 1 = r.n → r.came + 1 = r.n → r.ins = [m] → m.res = none → m.flag = some f → m.hdl = false →
    r.len % 4 = 0 → m.buf + r.len ≤ s.scrSize m.launch m.g → (∀ lo hi, s.locked m.launch m.g lo hi = false) → s.stand (standKey m.g m.slot) = some st → st.launch = m.launch → st.h = none → st.place = .resident → m.p < st.p.length → m.p < 127 →
    ∃ u, exec (.treeContribution tm) s = .next u ∧ u.rounds = [] ∧
      u.scrGet m.launch m.g m.buf r.len = ({ r with vals := Store.put tm.rank tm.data r.vals }).result ∧
      ∃ w, u.stand (standKey m.g m.slot) = some w ∧ ∀ l, inMask m.q l = true → (st.t false l).st ≠ .exited → w.rp m.p l = true ∧ (w.t false l).flags = ((st.t false l).flagDown (s.cyc m.g) f).flags)

/-- Messages between cores and trees over stands. The model's choices in it: log entries 39, 99. -/
def Obligations.MessagesAndTrees : Prop := MessagesClaim ∧ TreesClaim

/-- One round of Philox as R348 writes it: the key is raised before every round but the first. -/
def philoxStep (v : (W × W × W × W) × W × W) (r : Nat) : (W × W × W × W) × W × W :=
  let k0 := if r = 0 then v.2.1 else v.2.1 + 0x9E3779B9
  let k1 := if r = 0 then v.2.2 else v.2.2 + 0xBB67AE85
  let p0 := 0xD2511F53 * v.1.1.toNat
  let p1 := 0xCD9E8D57 * v.1.2.2.1.toNat
  ((BitVec.ofNat 32 (p1 / 2 ^ 32) ^^^ v.1.2.1 ^^^ k0, BitVec.ofNat 32 p1, BitVec.ofNat 32 (p0 / 2 ^ 32) ^^^ v.1.2.2.2 ^^^ k1, BitVec.ofNat 32 p0), k0, k1)

/-- BEAT and BEATD add each participant's amount to the context's beats, saturating; a late beat counts as late, and under ONTIME not as a beat. RNG writes ten rounds of Philox. TIME writes a time or loop value. FENCE and FENCE.X end the leases of their scope once nothing is outstanding (R76, R77, R337, R346 to R349). The model's choices in it: log entries 22, 23, 103, 118. -/
def Obligations.BeatsDrawsAndTime : Prop :=
  let sat (a b : Nat) : Nat := min (a + b) 0xFFFFFFFF
  (∀ x s sq e, Solo s sq e (.beat x) → (∀ l, inMask e.q l = true → 1 ≤ (e.st.src x.b l).toNat ∧ (e.st.src x.b l).toNat ≤ 65535) → ∃ u, exec (.beat x) s = .next u ∧
    SameButCounters (s.onCtx e.l.ctx fun c => { c with loop := { c.loop with bcnt := (lanesOf e.q).foldl (fun b l => sat b (e.st.src x.b l).toNat) c.loop.bcnt } }) u) ∧
  (∀ x s sq e, Solo s sq e (.beatd x) → (∀ l, inMask e.q l = true → 1 ≤ (e.st.src x.b l).toNat ∧ (e.st.src x.b l).toNat ≤ 65535) →
    let late (l : Nat) : Bool := decide ((e.st.rv64 x.a l).toNat < s.guestNow e.l.ctx)
    ∃ u, exec (.beatd x) s = .next u ∧ SameButCounters (s.onCtx e.l.ctx fun c => { c with loop := { c.loop with
      bcnt := ((lanesOf e.q).filter fun l => !(late l && c.loop.ontimeNow)).foldl (fun b l => sat b (e.st.src x.b l).toNat) c.loop.bcnt, laten := ((lanesOf e.q).filter late).foldl (fun b l => sat b (e.st.src x.b l).toNat) c.loop.laten } }) u) ∧
  (∀ x s sq, Executes s sq → Clear s sq (.rng x) 64 → (∀ e, Takes s sq e → x.d + 3 < e.st.v.length) → ∃ u, exec (.rng x) s = .next u ∧ Does s sq u fun e w =>
    let out (l : Nat) : W × W × W × W := ((List.range 10).foldl philoxStep ((e.st.rv x.a l, e.st.rv (x.a + 1) l, e.st.rv (x.a + 2) l, e.st.rv (x.a + 3) l), BitVec.ofNat 32 (e.st.src64 x.b l).toNat, BitVec.ofNat 32 ((e.st.src64 x.b l).toNat / 2 ^ 32))).1
    (∀ l, e.acts l → (w.rv x.d l, w.rv (x.d + 1) l, w.rv (x.d + 2) l, w.rv (x.d + 3) l) = out l) ∧ (∀ l, e.rests l → ∀ n, w.rv n l = e.st.rv n l) ∧
    (∀ n, n < x.d ∨ x.d + 3 < n → w.v[n]? = e.st.v[n]?) ∧ w = { e.st with v := w.v }) ∧
  ((List.range 10).foldl philoxStep ((0, 0, 0, 0), 0, 0)).1 = (0x6627E8D5, 0xE169C58D, 0xBC57AC4C, 0x9B00DBD8) ∧
  (∀ x s sq, Executes s sq → Clear s sq (.time x) 32 → (∀ e, Takes s sq e → x.d + 1 < e.st.v.length ∧ ∀ l, inMask e.q l = true → (e.st.src x.b l).toNat ≤ 5) → ∃ u, exec (.time x) s = .next u ∧ Does s sq u fun e w =>
    (∀ c, s.ctx e.l.ctx = some c → ∀ l, e.acts l → w.rv64 x.d l =
      BitVec.ofNat 64 ([s.guestNow e.l.ctx, c.loop.k, c.loop.boundary s.now - s.now, c.loop.bcnt, c.loop.mlast, c.loop.target].getD (e.st.src x.b l).toNat 0)) ∧
    (∀ l, e.rests l → ∀ n, w.rv n l = e.st.rv n l) ∧ (∀ n, n ≠ x.d → n ≠ x.d + 1 → w.v[n]? = e.st.v[n]?) ∧ w = { e.st with v := w.v }) ∧
  (∀ x s sq e, Solo s sq e (.fence x) → e.free s { acq := true, rel := true, scope := x.scp } → exec (.fence x) s = .next (s.endLeases sq.g x.scp)) ∧
  (∀ x s sq e, Solo s sq e (.fenceX x) → let ls := decide (x.mask % 2 = 1)
    e.free s { acq := ls, rel := ls, scope := x.scp } → (∀ l, inMask e.q l = true → s.pathWait x.mask e l = false) →
    (ls = false → sq.hdl = false → ∀ l, inMask e.q l = true → s.parkedCopy sq.g e.slot l (e.raw.t false l) = none) → exec (.fenceX x) s = .next (if ls then s.endLeases sq.g x.scp else s))

/-! Exceptions -/

/-- TRAP and BRK take their exception at once in a stand without a handler: each participant parks with its trap state, the return point is the next packet, TMASKA holds the live lanes and TMASKF the participants, and the handler starts at HPC, in the lowest of them or in mode 1 in all 32 lanes, with S0 to S3 set aside and its flags at 0 (R33, R356, R358 to R362, R384). The model's choice in it: log entry 12. -/
def Obligations.TrapEntry : Prop :=
  let enters (i : Instr) (cause : Env → Nat) (addr : Env → Nat → DW) (same : Env → Prop) : Prop :=
    ∀ s sq e cx ord delta hpc, Solo s sq e i → sq.hdl = false → e.raw.h = none → e.raw.dl = [] → e.raw.place = .resident → e.raw.launch = sq.launch → e.raw.thr.length = 32 → same e → s.ctx e.l.ctx = some cx → (cause e = 0x30 ∨ (8 ≤ cause e ∧ cause e ≤ 15) ∨ (0x34 ≤ cause e ∧ cause e ≤ 0x37)) →
      s.position e.l (e.l.pkt sq.pc) = .ok ord delta → s.vector e.l.ctx cx (cause e) = .at_ hpc → (∀ l, inMask e.q l = false → (e.raw.t false l).st ≠ .issuing) →
      ∃ t w h, exec i s = .next t ∧ t.stand e.key = some w ∧ w.h = some h ∧ h.whole = cx.hmode ∧ h.lane = lowest e.q ∧ w.tmaska = e.raw.live ∧ w.tmaskf = e.q ∧
        (∀ l, inMask e.q l = true → (w.t false l).st = .parked .delivery ∧ (w.t false l).trap =
          { tcause := BitVec.ofNat 32 (cause e + if cx.hmode then 512 else 0), tpkt := BitVec.ofNat 32 (e.l.pkt sq.pc), tslot := BitVec.ofNat 32 (sq.k % 4 + 65536 * delta), tord := BitVec.ofNat 32 (ord % 2 ^ 24), taddr := addr e l }) ∧
        (∀ d ∈ h.dv.lanes, d.retPc = sq.pc + 1 ∧ d.retSlot = 0) ∧ h.dv.kind = 0 ∧ h.dv.cause = cause e ∧ (h.dv.lanes.map fun d => d.lane) = lanesOf e.q ∧
        (∀ l, l < 32 → (w.t true l).st = (if cx.hmode = true ∨ l = lowest e.q then .ready else .exited) ∧ (((w.t true l).st = .ready) → (w.t true l).pc = hpc ∧ (w.t true l).slot = 0 ∧ (w.t true l).rs = [] ∧ ∀ f ∈ (w.t true l).flags, f = 0)) ∧
        h.saveS = (lanes32.take 4).map e.raw.rs ∧ (cx.hmode = true → h.saveV = e.raw.v.take 4 ∧ h.saveP = e.raw.p.take 4) ∧ w.s = e.raw.s ∧ w.p = e.raw.p ∧ (∀ n, n < e.raw.v.length → w.v[n]? = e.raw.v[n]?) ∧
        t.issue = s.issue.map (Squad.drop e.key false e.q) ∧ t.reqs = s.reqs ∧ t.ops = s.ops ∧ t.teams = s.teams ∧ ∀ key, key ≠ e.key → t.stand key = s.stand key
  (∀ x, enters (.trap x) (fun e => (e.st.src x.b (lowest e.q)).toNat) (fun _ _ => 0) fun e => ∀ l, inMask e.q l = true → e.st.src x.b l = e.st.src x.b (lowest e.q)) ∧
  (∀ x, enters (.brk x) (fun _ => 0x30) (fun e l => BitVec.ofNat 64 (e.st.src x.b l).toNat) fun _ => True)

/-- RTT in a handler of one lane, with its flags at 0, ends it: the delivered lanes go on at their return points, or with SKIP after the slot that a precise cause names; a ghost delivery resumes nothing; no register of the program changes (R385). The model's choices in it: log entries 50, 52. -/
def Obligations.HandlerReturn : Prop :=
  let returns (i : Instr) (skip : Bool) : Prop := ∀ s sq e h, Solo s sq e i → sq.hdl = true → e.raw.h = some h → h.whole = false → e.raw.dl = [] → e.raw.launch = sq.launch → e.raw.live ≠ 0 →
    (∀ l, (h.thr.getD l Thread.gone).st = .exited ∨ (inMask e.q l = true ∧ ∀ f ∈ (h.thr.getD l Thread.gone).flags, f = 0)) → h.rtt = [] → e.raw.leaving h = 0 → (s.ghosts sq.g).length ≤ 64 → (h.dv.lanes.map fun d => d.lane).Nodup →
    ∃ t w, exec i s = .next t ∧ t.stand e.key = some w ∧ w.h = none ∧ w = { e.raw with h := none, thr := w.thr } ∧ (∀ key, key ≠ e.key → t.stand key = s.stand key) ∧ t.mem = s.mem ∧ t.reqs = s.reqs ∧
      (∀ l, (h.dv.ghost = true ∨ ∀ d ∈ h.dv.lanes, d.lane ≠ l) → w.t false l = e.raw.t false l) ∧
      (h.dv.ghost = false → ∀ d ∈ h.dv.lanes, inMask e.raw.live d.lane = true →
        let len := s.lenAt e.l d.pkt d.slot
        let to_ : BitVec 52 × Nat := if skip ∧ h.dv.kind = 0 then (if 3 ≤ d.slot + len then (e.l.codePc + BitVec.ofNat 52 d.pkt + 1, 0) else (e.l.codePc + BitVec.ofNat 52 d.pkt, d.slot + len)) else (d.retPc, d.retSlot)
        (w.t false d.lane).st = .ready ∧ (w.t false d.lane).pc = to_.1 ∧ (w.t false d.lane).slot = to_.2 ∧ (w.t false d.lane).flags = (e.raw.t false d.lane).flags ∧ (w.t false d.lane).rs = (e.raw.t false d.lane).rs)
  (∀ x, returns (.rtt x) false) ∧ (∀ x, returns (.rttSkip x) true)

/-- In a handler, LMOV.R reads the program's register in the lane its operand names, and a lone LMOV.W writes it there and nowhere else; outside a handler both, and RTT, RESUME and DROP, raise handler-state in every participant (R383, R385 to R387). -/
def ProgramRegistersClaim : Prop :=
  (∀ x, SetsVF (.lmovR x) x.d (fun e => e.sq.hdl = true ∧ x.a ∉ e.raw.spilledV) (fun _ e l => e.raw.program.rv x.a ((e.st.src x.b l).toNat % 32)) fun _ _ => 0) ∧
  (∀ x s sq e l h, Lone s sq e (.lmovW x) l → sq.hdl = true → e.raw.h = some h → x.d ∉ e.raw.spilledV → 16 ≤ s.freePool sq.g → x.d < e.raw.program.v.length → (h.whole = true → h.saveV.length = 4 ∧ 4 ≤ e.raw.v.length) →
    let k := (e.st.src x.b l).toNat % 32
    ∃ t w, exec (.lmovW x) s = .next t ∧ t.stand e.key = some w ∧ (∃ sts pmc, t = { s with stands := sts, regs := { s.regs with pmc := pmc } }) ∧ (∀ key, key ≠ e.key → t.stand key = s.stand key) ∧
      (e.raw.lmOpen k = true → w.program.rv x.d k = e.st.rv x.a l) ∧ (∀ j, inMask e.raw.live j = true → (e.raw.lmOpen k = false ∨ j ≠ k) → w.program.rv x.d j = e.raw.program.rv x.d j) ∧
      (∀ n, n ≠ x.d → w.program.v[n]? = e.raw.program.v[n]?) ∧ w.s = e.raw.s ∧ w.p = e.raw.p ∧ w.thr = e.raw.thr) ∧
  (let raises (i : Instr) : Prop := ∀ s sq e, Solo s sq e i → sq.hdl = false → ∃ t, exec i s = .next t ∧
     SameButCounters (s.take e.key false sq.launch { cause := 5, kind := 0, acc := 0, ghost := false, lanes := (lanesOf e.q).map fun l => { lane := l, pkt := e.l.pkt sq.pc, slot := sq.k, addr := 0, retPc := sq.pc, retSlot := sq.k } }) t
   (∀ x, raises (.lmovR x)) ∧ (∀ x, raises (.lmovW x)) ∧ (∀ x, raises (.rtt x)) ∧ (∀ x, raises (.rttSkip x)) ∧ (∀ x, raises (.resume x)) ∧ (∀ x, raises (.drop x)))

/-- RESUME and DROP in a handler ask every landing about a lone thread's page and stall; the answer goes to P[D]. Of an address in region 4 both answer 1 and touch no queue. DROP of a queue with one store discards it: nothing is written; RESUME of one whose page is there performs it (R236, R323, R387). -/
def HoldQueuesClaim : Prop :=
  let asks (i : RU → Instr) (drop : Bool) : Prop := ∀ x s sq e l, Lone s sq e (i x) l → sq.hdl = true → e.free s { acq := true, rel := true, scope := 9 } → s.walksOf e = [] →
    let a := (e.st.rv64 x.a l).toNat
    let y := s.normal a
    s.rangeBad (s.partOf e.l.ctx) a = false → s.noBrand e a = false → region y ≠ 4 →
    ∃ t, exec (i x) s = .next t ∧ let u := s.endLeases sq.g 9
      SameButCounters { u with walks := s.walks ++ [(s.seq, { g := sq.g, slot := e.slot, lane := l, hdl := true, kind := .hold drop e.l.ctx (s.tagAt e y) (y / 65536) x.d, status := none, sq := sq.id })], seq := s.seq + 1, issue := s.again.issue } t
  let ends (i : RU → Instr) : Prop := ∀ x s sq e l w, Lone s sq e (i x) l → sq.hdl = true → e.free s { acq := true, rel := true, scope := 9 } → s.rangeBad (s.partOf e.l.ctx) (e.st.rv64 x.a l).toNat = false → s.noBrand e (e.st.rv64 x.a l).toNat = false →
    s.walksOf e = [w] → w.2.lane = l → ∀ n, w.2.status = some n → s.walkDone w.2 = true →
    ∃ t, exec (i x) s = .next t ∧ let u := s.endLeases sq.g 9
      SameButCounters { u.setStand e.key ((e.raw.back true (e.st.wp (bit l) x.d fun _ => decide (n = 1))).spent e.raw e.q) with walks := s.walks.filter fun w => !(w.2.of e) } t
  let none_ (i : RU → Instr) : Prop := ∀ x s sq e l, Lone s sq e (i x) l → sq.hdl = true → e.free s { acq := true, rel := true, scope := 9 } → s.walksOf e = [] → s.rangeBad (s.partOf e.l.ctx) (e.st.rv64 x.a l).toNat = false → region (s.normal (e.st.rv64 x.a l).toNat) = 4 →
    ∃ t, exec (i x) s = .next t ∧ SameButCounters ((s.endLeases sq.g 9).setStand e.key ((e.raw.back true (e.st.wp (bit l) x.d fun _ => true)).spent e.raw e.q)) t
  asks .resume false ∧ asks .drop true ∧ ends .resume ∧ ends .drop ∧ none_ .resume ∧ none_ .drop ∧
  (∀ id s w drop c tag page d h rid r a, Store.find id s.walks = some w → w.kind = .hold drop c tag page d → w.status = none → s.holds = [h] → h.tag = tag → h.page = page →
    h.items = [(rid, a.lane)] → Store.find rid s.reqs = some r → r.kind = .store → r.op = none → r.ord = none → r.team = none → r.lanes = [a] → a.done = false → MemOk s →
    (drop = true → ∃ t, exec (.landingsAnswered id) s = .next t ∧ Store.find id t.walks = some { w with status := some 1 } ∧ t.holds = [] ∧ t.reqs = s.reqs.del rid ∧ t.mem = s.mem) ∧
    (∀ lf home, drop = false → region (page * 65536) ≠ 3 → s.walk c (page * 65536) = some lf → lf.wr = true → ({ s with tlb := s.tlb.filter fun t => !decide (t.stack = h.stack ∧ t.tag = tag ∧ t.vpage = page * 65536 / 2 ^ t.leaf.size) } : State).landReq r true = .ok home → home.sp = .dev →
      ∃ t, exec (.landingsAnswered id) s = .next t ∧ Store.find id t.walks = some { w with status := some 1 } ∧ t.holds = [] ∧ t.reqs = s.reqs.del rid ∧
        ∀ b, memGet t.mem b = if home.pa + a.addr % 128 ≤ b ∧ b < home.pa + a.addr % 128 + a.data.length then a.data.getD (b - (home.pa + a.addr % 128)) 0 else memGet s.mem b))

/-- In a mode-0 handler a write to V4 or above by MOV, IADD, IMAD, FADD or DADD, or to P4 or above by ICMP.EQ or PMOV, is a double trap: the launch is killed with 0x06 before anything else comes, and no register changes (R361, R363). -/
def ClosedRegistersClaim : Prop :=
  let kills (i : Instr) : Prop := ∀ s sq e m h, s.issue.head? = some sq → sq.mem = [m] → m.1 < 32 → s.env sq m = some e → e.q ≠ 0 → sq.hdl = true → e.raw.h = some h → h.whole = false →
    ∃ t launches, exec i s = .next t ∧ SameButCounters { s.dropLanes e.key true e.q with launches := launches, inbox := .kill sq.launch 0x06 :: s.inbox } t
  (∀ x, 4 ≤ x.d → kills (.mov x)) ∧ (∀ x, 4 ≤ x.d → kills (.iadd x)) ∧ (∀ x, 4 ≤ x.d → kills (.imad x)) ∧ (∀ x, 4 ≤ x.d → kills (.fadd x)) ∧ (∀ x, 3 ≤ x.d → kills (.dadd x)) ∧
  (∀ x, 4 ≤ x.d → kills (.icmpEq x)) ∧ (∀ x, 4 ≤ x.d → kills (.pmov x))

/-- What a handler may do to the program and to hold queues, and what it may not. The model's choice in it: log entry 41. -/
def Obligations.HandlerPrivileges : Prop := ProgramRegistersClaim ∧ HoldQueuesClaim ∧ ClosedRegistersClaim

/-! The engine at work -/

/-- MACCR starts a counted read of each participant's accumulator element, of one word or of two; MACCW writes the element in ascending lanes (R301). -/
def AccumulatorAccessClaim : Prop :=
  (∀ x s sq e two (acc : Nat → Machine.Acc × Nat), Solo s sq e (.maccr x) → (∀ l, inMask e.q l = true → ∃ tid, s.accAt e x l = .ok (tid, acc l) ∧ decide ((acc l).1.ty = 2) = two) →
    ∃ t, exec (.maccr x) s = .next t ∧
      let n := if two then 8 else 4
      let op := e.op s .value x.a (n / 4) 0 false true 0 fun l => { olane l 0 n false with got := toBytes n ((acc l).1.el.getD (acc l).2 0) }
      SameButCounters { s.onTs e.key sq.hdl e.q (fun th => th.flagUp e.flag) with ops := s.ops ++ [(s.seq, op)], seq := s.seq + 1 } t) ∧
  (∀ x s sq e (tid : Nat → Nat) (acc : Nat → Machine.Acc × Nat), Solo s sq e (.maccw x) → (∀ l, inMask e.q l = true → s.accAt e x l = .ok (tid l, acc l)) →
    ∃ t, exec (.maccw x) s = .next t ∧ SameButCounters ((lanesOf e.q).foldl (fun u l => u.onTeam (tid l) fun t =>
      t.setEl x.i ((t.elOf x.i).set (acc l).2 (if (acc l).1.ty = 2 then (e.st.rv64 x.a l).toNat else (e.st.rv x.a l).toNat))) s) t)

/-- MWAITB of a lone member without a fault: with at most N batches it does nothing; else it waits for the oldest ones down to N, and once they are done takes them and their locks away (R288, R290). -/
def BatchWaitClaim : Prop :=
  ∀ x s sq e l tid t, Lone s sq e (.mwaitb x) l → (e.raw.t false l).team = some tid → s.team tid = some t → (∀ y ∈ t.cv, y.signers = []) → (∀ o ∈ t.queue, o.bad = none) →
    (∀ b ∈ t.openB :: t.batches, b.faults = []) → (∀ r ∈ s.reqs, r.2.team ≠ some tid) →
    (t.batches.length ≤ x.n → ∃ u, exec (.mwaitb x) s = .next u ∧ SameButCounters s u) ∧
    (x.n < t.batches.length → let bs := (t.batches.take (t.batches.length - x.n)).map Machine.Batch.id
      ((∀ b ∈ t.batches, b.id ∈ bs → b.left = 0) → ∃ u, exec (.mwaitb x) s = .next u ∧
        SameButCounters { s with teams := Store.put tid { t with batches := t.batches.filter (fun b : Machine.Batch => !(bs.contains b.id)), locks := t.locks.filter fun k => !(bs.contains k.batch) } s.teams } u) ∧
      ((∃ b ∈ t.batches, b.id ∈ bs ∧ b.left ≠ 0) → ∃ u, exec (.mwaitb x) s = .next u ∧
        SameButCounters ({ s with teams := Store.put tid t s.teams }.waits e l .mwaitb fun th => { th with w := { th.w with a := bs.foldl max 0, next := e.next } }) u))

/-- MATRIX_OP_COMPLETE works on the head of a team's queue: MZERO clears the accumulator; an integer k-slice adds eight exact products to every element, modulo 2^32; TLD of a scratchpad tensor takes each element's bits, 0 outside the extents, and its signer's flag falls; a drain sends its next line to the home slice (R193, R194, R281, R283, R286, R292, R293). -/
def EngineStepClaim : Prop :=
  let working (s : State) (tid : Nat) (t : Team) (o : MOp) : Prop := s.team tid = some t ∧ s.engineHead tid = some (t, o) ∧ ∀ y ∈ t.cv, y.signers = []
  let ends (t : Team) (o : MOp) : Team := { t with queue := t.queue.tail, openB := if t.openB.id = o.batch then t.openB.less o else t.openB, batches := t.batches.map fun b => if b.id = o.batch then b.less o else b }
  (∀ tid s t o, working s tid t o → o.form = 2 → o.fl = [] → ∃ u, exec (.matrixOpComplete tid) s = .next u ∧
    SameButCounters ((s.onTeam tid fun t => ends { t with acc := t.acc.modify o.i fun a => { a with el := List.replicate (o.m * o.n) 0 } } o).turnOver tid) u) ∧
  (∀ tid s t o i k f sb i' k' f' sb', working s tid t o → o.form = 0 → o.ty = 1 → o.a = .tile i k k f sb → o.b = .tile i' k' k' f' sb' → 8 * o.next < k' → 6 ≤ f → 6 ≤ f' → o.i < t.acc.length →
    let tile (i k r c : Nat) : Nat := ((t.tile[i]?.map fun y => y.el).getD []).getD (r * k + c) 0
    ∃ u el, exec (.matrixOpComplete tid) s = .next u ∧ SameButCounters ((s.onTeam tid fun t => { t with acc := t.acc.modify o.i (fun a => { a with el := el }), queue := { o with next := o.next + 1 } :: t.queue.tail }).turnOver tid) u ∧
      el.length = o.m * o.n ∧ ∀ r c, r < o.m → c < o.n → (((el.getD (r * o.n + c) 0 : Nat) : Int) =
        (((t.elOf o.i).getD (r * o.n + c) 0 : Nat) + ((List.range 8).map fun x => (valF f (tile i k r (8 * o.next + x))).units 0 * (valF f' (tile i' k' c (8 * o.next + x))).units 0).sum) % 2 ^ 32)) ∧
  (∀ tid s t o id d sc k koff g slot w f st, working s tid t o → o.form = 4 → o.a = .tensor id d sc k koff → d.scr = true → o.fl = [(g, slot, w, f)] → s.stand (standKey g slot) = some st → o.i < t.tile.length →
    let raw (r c : Nat) : Nat := let i := [koff + c, o.roff + r, 0, 0]
      if d.inside i then bits (ofBytes (s.scrGet t.launch t.home (d.elem i).1 (d.elem i).2.2)) (d.elem i).2.1 (fmtBits d.fmt) else 0
    ∃ u, exec (.matrixOpComplete tid) s = .next u ∧ SameButCounters (((s.onStand (standKey g slot) fun st => st.onTw w fun th => th.flagDown (s.cyc g) f).onTeam tid fun t =>
      ends { t with tile := t.tile.modify o.i fun y => { y with el := (List.range o.m).flatMap fun r => (List.range k).map fun c => raw r c } } o).turnOver tid) u) ∧
  (∀ tid s t o id d sc k koff ln, working s tid t o → (o.form = 5 ∨ o.form = 6) → o.a = .tensor id d sc k koff → d.scr = false → (s.drainLines d o)[o.next]? = some ln →
    ∃ u r, exec (.matrixOpComplete tid) s = .next u ∧ SameButCounters (({ s with reqs := s.reqs ++ [(s.seq, r)], seq := s.seq + 1 }.onTeam tid fun t => { t with queue := { o with next := o.next + 1 } :: t.queue.tail }).turnOver tid) u ∧
      r.team = some tid ∧ r.ctx = t.ctx ∧ r.ord = o.ord ∧ r.kind = (if o.form = 6 then .drainAdd d.fmt o.rnd o.ty else .drain) ∧ ∃ a, r.lanes = [a] ∧ a.addr = 128 * ln ∧
        (o.form = 5 → (a.data, a.new) = lineBytes ln ((drainBytes d o (t.elOf o.i)).map fun b => (s.normal b.1, b.2))))

/-- A landing fault on an operand suspends the operation where it stands, and MATRIX_OP_COMPLETE then changes nothing of it (R291). BATCH_COMPLETE lets a member that waits go on, once its batches are done (R288). -/
def SuspendedAndWokenClaim : Prop :=
  (∀ tid s t o c a, s.team tid = some t → s.engineHead tid = some (t, o) → s.engineStep tid t o = .error (c, a) →
    exec (.operandFault tid) s = .next ({ s.learn o.g t.ctx (s.normal a) (s.pageNp o.g t.ctx (s.normal a)) with fresh := s.fresh + 1 }.onTeam tid fun t => { t with queue := { o with bad := some { cause := c, addr := a, acc := 8, pkt := o.pkt, pslot := o.pslot, told := [] } } :: t.queue.tail }) ∧
    exec (.matrixOpComplete tid) s = .next { s with fresh := s.fresh + 1 }) ∧
  (∀ tid s t key st l th lc, s.team tid = some t → (∀ y ∈ t.cv, y.signers = []) → (∀ o ∈ t.queue, o.bad = none) → (∀ b ∈ t.openB :: t.batches, b.faults = []) → (∀ r ∈ s.reqs, r.2.team ≠ some tid) →
    s.stands.filter (fun e => decide (e.2.place = .resident)) = [(key, st)] → s.stand key = some st → st.batchWaiters tid = [(l, th)] → l < 32 → s.launch st.launch = some lc →
    (∀ b ∈ t.batches, b.id ≤ th.w.a → b.left = 0) →
    let to_ : BitVec 52 × Nat := if 3 ≤ th.w.next then (th.pc + 1, 0) else (th.pc, th.w.next)
    lc.inCode to_.1 = true →
      exec (.batchComplete tid) s = .next ({ s with teams := Store.put tid (t.waited ((t.batches.filter fun b : Machine.Batch => decide (b.id ≤ th.w.a)).map Machine.Batch.id)) s.teams }.onT key false l fun t =>
        { t with st := .ready, since := s.cyc (gOf key), pc := to_.1, slot := to_.2 }))

/-- A part of an ordered drain at its slice: the one the line expects is added and the record moves on; one ahead is held; one that has been, or is held already, is discarded and its drain keeps one split-sequence fault (R294). -/
def SplitKClaim : Prop :=
  let arrives (s : State) (id tid : Nat) (r : Req) (seq : Nat) (last : Bool) (rc : OrdRec) : Prop := Store.find id s.reqs = some r ∧ r.team = some tid ∧ r.ord = some (seq, last) ∧ (∀ a ∈ r.open_, a.parked = none) ∧
    rc = (s.ordRec r.tag (lineOf r.x)).getD { tag := r.tag, line := lineOf r.x, expect := 0, held := [] } ∧ ∀ x ∈ rc.held, x.2 ≠ id
  (∀ id tid s r seq last rc h a rnd off v, MemOk s → arrives s id tid r seq last rc → seq = rc.expect → rc.held = [] → (last = true ∨ s.recRoom r.tag r.x = true) → s.fate r = .perform h → h.sp = .dev →
    r.kind = .drainAdd 8 rnd 1 → r.lanes = [a] → a.done = false → a.addr % 128 = 0 → off + 4 ≤ 128 → a.data = BitVec.ofNat 8 off :: toBytes 8 v → v < 2 ^ 32 →
    ∃ u, exec (.splitkPartArrive id) s = .next u ∧ u.reqs = s.reqs.del id ∧ u.ordRec r.tag (lineOf r.x) = (if last then none else some { rc with expect := seq + 1 }) ∧
      memRead u.mem (h.pa + off) 4 = toBytes 4 ((ofBytes (memRead s.mem (h.pa + off) 4) + v) % 2 ^ 32) ∧ ∀ b, (b < h.pa + off ∨ h.pa + off + 4 ≤ b) → memGet u.mem b = memGet s.mem b) ∧
  (∀ id tid s r seq last rc, arrives s id tid r seq last rc → rc.expect < seq → (∀ x ∈ rc.held, x.1 ≠ seq) → s.heldRoom r.x = true → s.recRoom r.tag r.x = true →
    ∃ u, exec (.splitkPartArrive id) s = .next u ∧ u.ordRec r.tag (lineOf r.x) = some { rc with held := rc.held ++ [(seq, id)] } ∧ u = { s with ordRecs := u.ordRecs }) ∧
  (∀ id tid s r seq last rc t o, arrives s id tid r seq last rc → (seq < rc.expect ∨ (rc.expect < seq ∧ ∃ x ∈ rc.held, x.1 = seq)) → s.team tid = some t → t.queue.head? = some o → o.split = none →
    exec (.splitkPartArrive id) s = .next ({ s with reqs := s.reqs.del id }.onTeam tid fun t => { t with queue := { o with split := some { cause := 0x2A, addr := r.x, acc := 9, pkt := r.pkt, pslot := r.pslot, told := [] } } :: t.queue.tail }))

/-- The engine at work, access to its accumulators, and waits for batches. The model's choices in it: log entries 33, 34, 36, 37, 43. -/
def Obligations.MatrixWork : Prop := AccumulatorAccessClaim ∧ BatchWaitClaim ∧ EngineStepClaim ∧ SuspendedAndWokenClaim ∧ SplitKClaim

/-! Waits that end -/

/-- WATCH_TRIGGER ends a program thread's MWAIT whose watch was written or lost, with its two predicates, and a WAITA with the word it has seen; MWAIT_TIMEOUT ends an MWAIT whose watch is still armed with neither (R340 to R342). -/
def WaitsOfAThreadClaim : Prop :=
  let stands (s : State) (g slot lane : Nat) (k : Wait) (st : Stand) (t : Thread) (l : Machine.Launch) : Prop := s.stand (standKey g slot) = some st ∧ st.place = .resident ∧ lane < 32 ∧ st.waiting lane k = some (lane, t) ∧
    s.launch st.launch = some l ∧ l.inCode t.onward.1 = true
  let ends (i : Instr) (s : State) (g slot lane : Nat) (st : Stand) (t : Thread) (w : Stand) (f : Thread → Thread) : Prop := ∃ u l1 sec, exec i s = .next u ∧ (t.w.acq = false → l1 = s.l1 ∧ sec = s.sec) ∧
    u = { (s.setStand (standKey g slot) w).onT (standKey g slot) false lane fun t => (f t).goes (s.cyc g) t.onward with l1 := l1, sec := sec }
  let told (st : Stand) (lane d : Nat) (hit lost : Bool) : Stand := (st.wp (bit lane) d fun _ => hit).wp (bit lane) (d + 1) fun _ => lost
  (∀ g slot lane s st t l w, stands s g slot lane .mwait st t l → (st.t false lane).watch = some w → w.st ≠ .armed →
    ends (.watchTrigger g slot lane) s g slot lane st t (told st lane t.w.d (decide (w.st = .triggered)) (decide (w.st = .lost))) fun t => { t with watch := none, mwdl := 0 }) ∧
  (∀ g slot lane s st t l w, stands s g slot lane .mwait st t l → (st.t false lane).watch = some w → w.st = .armed → t.mwdl ≠ 0 → t.mwdl ≤ s.now →
    ends (.mwaitTimeout g slot lane) s g slot lane st t (told st lane t.w.d false false) fun t => { t with watch := none, mwdl := 0 }) ∧
  (∀ g slot lane s st t l v, stands s g slot lane .waita st t l → st.waiting lane .mwait = none → t.w.hit = some v → t.w.d ∉ st.spilledV → 16 ≤ s.freePool g →
    ends (.watchTrigger g slot lane) s g slot lane st t ((st.wv (bit lane) t.w.d .auto fun _ => v).spent st 0) fun t => t)

/-- TEAM_FORM forms the team of the oldest JOIN that waits in the cluster, and its thread goes on; a JOIN of another team waits on, and one of the same team joins. TEAM_FREE frees a team that all have left, and its last leaver goes on. RECON_RELEASE, once all threads of the program or of the handler are held, releases those at the lowest packet (R129, R132, R133, R176). -/
def WaitsOfAGroupClaim : Prop :=
  let waits (s : State) (j : JoinWait) (cl : Nat) (st : Stand) (l : Machine.Launch) : Prop := j.cl = cl ∧ clusterOf j.g = cl ∧ j.slot < 32 ∧ j.lane < 32 ∧ s.joinLive j = true ∧ s.stand (standKey j.g j.slot) = some st ∧ st.place = .resident ∧ s.launch st.launch = some l ∧ l.inCode (st.t false j.lane).onward.1 = true
  let member (s : State) (j : JoinWait) (tid : Nat) (u : State) : State := u.onT (standKey j.g j.slot) false j.lane fun t => { t.goes (s.cyc j.g) t.onward with team := some tid }
  (∀ cl s j rest st l home, waits s j cl st l → (s.joins.filter s.joinLive).filter (fun k => decide (k.cl = cl)) = j :: rest → (∀ k ∈ rest, ¬ (k.ctx = j.ctx ∧ k.num = j.num)) → s.teamOf cl j.ctx j.num = none → s.homeFor l.hdr j.g = some home →
    exec (.teamForm cl) s = .next (member s j s.seq { s with joins := (s.joins.filter s.joinLive).filter (fun k => decide (k ≠ j)), teams := s.teams ++ [(s.seq, Team.start cl j.ctx j.num j.size st.launch home (s.seq + 1) l.hdr)], seq := s.seq + 2 })) ∧
  (∀ cl s j st l tid t, waits s j cl st l → s.joins = [j] → s.teamOf cl j.ctx j.num = some (tid, t) → s.team tid = some t → j.size = t.size → t.count < t.size → exec (.teamForm cl) s = .next (member s j tid ({ s with joins := [] }.onTeam tid fun t => { t with count := t.count + 1 }))) ∧
  (∀ tid s t key st n l, s.team tid = some t → t.size = 0 → t.queue = [] → s.leaverFault tid t (gOf key, slotOf key, n) = none → (s.stands.filter fun e => decide (e.2.place = .resident)).findSome? (fun e => (e.2.lastLeaver tid).map fun n => (e.1, e.2, n)) = some (key, st, n) →
    s.stand key = some st → n < 32 → (st.t false n).w.next ≠ 99 → s.launch st.launch = some l → l.inCode (st.t false n).onward.1 = true →
    exec (.teamFree tid) s = .next ({ s with teams := s.teams.del tid }.onT key false n fun t => { t.goes (s.cyc (gOf key)) t.onward with team := none, barP := false })) ∧
  (∀ g slot s st l p hdl ts, s.stand (standKey g slot) = some st → st.place = .resident → (if hdl = true then ∃ h, st.h = some h ∧ h.thr = ts else st.thr = ts ∧ ∀ h, st.h = some h → (∃ t ∈ h.thr, t.st ≠ .held ∧ t.st ≠ .exited) ∨ ∀ t ∈ h.thr, t.st ≠ .held) →
    ts.length = 32 → s.launch st.launch = some l → (∀ t ∈ ts, t.st = .held ∨ t.st = .exited) → (∃ t ∈ ts, t.st = .held ∧ t.pc = p) → (∀ t ∈ ts, t.st = .held → l.pkt p ≤ l.pkt t.pc) → (∀ t ∈ ts, t.st = .held → l.pkt t.pc = l.pkt p → t.pc = p) → l.inCode (p + 1) = true →
    let u := s.onTs (standKey g slot) hdl (maskOf (lanes32.filter fun i => decide ((st.t hdl i).st = .held ∧ (st.t hdl i).pc = p))) (Thread.goes (s.cyc (gOf (standKey g slot))) (p + 1, 0))
    (∃ t, exec (.reconRelease g slot) s = .next t ∧ SameButCounters u t) ∧ ((∀ t ∈ ts, t.st = .held → t.pc = p) → exec (.reconRelease g slot) s = .next u))

/-- TRAP_DELIVERY and GHOST_DELIVERY make the delivery at the head of a stand's list, of any cause but slice-end: its lanes park with their trap words, a ghost's go on, and the handler starts in the lowest of them, or in mode 1 in all 32 lanes (R358 to R362, R368). -/
def DeliveriesClaim : Prop :=
  let delivers (i : Nat → Nat → Instr) : Prop := ∀ g slot s st d rest l cx hpc, let key := standKey g slot
    s.stand key = some st → st.h = none → st.dl = d :: rest → st.place = .resident → st.thr.length = 32 → s.launch st.launch = some l → s.ctx l.ctx = some cx → d.cause ≠ 0x38 → d.lanes ≠ [] →
    (∀ x ∈ d.lanes, x.lane < 32 ∧ ∃ ord delta, s.position l x.pkt = .ok ord delta) → (d.lanes.map fun x => x.lane).Nodup → s.vector l.ctx cx d.cause = .at_ hpc → (s.wholeFor l d = true → st.busy = false) →
    let whole := cx.hmode && !d.ghost
    ∃ t w h, exec (i g slot) s = .next t ∧ t.stand key = some w ∧ w.dl = rest ∧ w.h = some h ∧ h.dv = d ∧ h.whole = whole ∧ w.tmaska = st.live ∧ w.tmaskf = maskOf (d.lanes.map fun x => x.lane) ∧ w.s = st.s ∧ w.p = st.p ∧
      (∀ n, n < st.v.length → w.v[n]? = st.v[n]?) ∧ (∀ x ∈ d.lanes, h.lane ≤ x.lane) ∧ (∃ x ∈ d.lanes, x.lane = h.lane) ∧
      (∀ x ∈ d.lanes, ∀ ord delta, s.position l x.pkt = .ok ord delta → (w.t false x.lane).trap = { tcause := tcauseWord d whole, tpkt := BitVec.ofNat 32 x.pkt, tslot := BitVec.ofNat 32 (x.slot % 4 + 65536 * delta), tord := BitVec.ofNat 32 (ord % 2 ^ 24), taddr := x.addr } ∧
        (d.ghost = false → (w.t false x.lane).st = .parked .delivery) ∧ (d.ghost = true → (w.t false x.lane).st = (st.t false x.lane).st)) ∧
      (∀ k, k < 32 → (w.t true k).st = (if whole = true ∨ k = h.lane then .ready else .exited) ∧ ((w.t true k).st = .ready → (w.t true k).pc = hpc)) ∧
      t.issue = s.issue ∧ t.reqs = s.reqs ∧ t.ops = s.ops ∧ t.teams = s.teams ∧ ∀ k, k ≠ key → t.stand k = s.stand k
  delivers .trapDelivery ∧ delivers .ghostDelivery

/-- Waits that end, and deliveries that are made. The model's choice in it: log entry 117. -/
def Obligations.WaitsEnd : Prop := WaitsOfAThreadClaim ∧ WaitsOfAGroupClaim ∧ DeliveriesClaim

/-! Fetch and issue -/

/-- PACKET_ISSUE of an entry whose packet is in the cache and whose threads may go: one squad of at most one thread a lane, the longest ready, ties to the lower slot, starts at the entry's slot with the packet's words (R125, R126). A packet that is not in the cache asks for its line, or for its page's entry (R99). -/
def PacketIssueClaim : Prop :=
  let chosen (s : State) (g n : Nat) (e : PctEnt) (l : Machine.Launch) : Prop := Store.find n (s.tables g).pct = some e ∧ s.launch e.launch = some l ∧ s.heldLaunch l = false ∧ (s.issue.filter fun q => decide (q.g = g)).length < 2 ∧ l.inCode (BitVec.ofNat 52 e.pc) = true
  let cands (s : State) (g : Nat) (e : PctEnt) : List Cand := (s.cands g).filter e.holds
  (∀ g n s e l ws, chosen s g n e l → s.packet g l (BitVec.ofNat 52 e.pc) = some ws → cands s g e ≠ [] → (∀ c ∈ cands s g e, s.gateAt g l c ws = .go) → packetFault (ws.headD 0) (ws.drop 1) = none → indexFault l.hdr e.hdl (ws.headD 0) (ws.drop 1) = none →
    ∃ u q, exec (.packetIssue g n) s = .next u ∧ u.issue = s.issue ++ [q] ∧ q.g = g ∧ q.launch = e.launch ∧ q.hdl = e.hdl ∧ q.pc = BitVec.ofNat 52 e.pc ∧ q.ctrl = ws.headD 0 ∧ q.ws = ws.drop 1 ∧ q.k = e.start ∧ q.start = e.start ∧ q.again = false ∧
      (∀ slot lane, lane < 32 → ((∃ m ∈ q.mem, m.1 = slot ∧ inMask m.2 lane = true) ↔
        ∃ c ∈ cands s g e, c.slot = slot ∧ c.lane = lane ∧ ∀ d ∈ cands s g e, d.lane = lane → (c.awake ws).t.since < (d.awake ws).t.since ∨ ((c.awake ws).t.since = (d.awake ws).t.since ∧ slot ≤ d.slot))) ∧
      (∀ key lane st, s.stand key = some st → lane < st.thr.length → lane < 32 → e.hdl = false → ∃ w, u.stand key = some w ∧
        (w.t false lane).st = (if (key / 32 = g ∧ ∃ m ∈ q.mem, m.1 = key % 32 ∧ inMask m.2 lane = true) then .issuing else (st.t false lane).st) ∧ w.v = st.v ∧ w.s = st.s ∧ w.p = st.p) ∧
      u.reqs = s.reqs ∧ u.ops = s.ops ∧ u.teams = s.teams ∧ u.ctxs = s.ctxs) ∧
  (∀ g n s e l, chosen s g n e l → let pc := BitVec.ofNat 52 e.pc
    s.packet g l pc = none → s.filling g l pc = false → (∀ b, s.brandOf g l.ctx (pcVa pc) = some b → b.ex = true ∨ b.np = true) →
    ∃ u, exec (.packetIssue g n) s = .next u ∧ u.stands = s.stands ∧ u.issue = s.issue ∧ u.mem = s.mem ∧
      match s.brandOf g l.ctx (pcVa pc) with
      | some b => u.fills = s.fills ++ [(s.seq, { g := g, ctx := l.ctx, va := pcVa pc, launch := e.launch, np := b.np })]
      | none => ∃ k m, (k, m) ∈ u.misses ∧ m.g = g ∧ m.ctx = l.ctx ∧ m.va / 65536 = s.normal (pcVa pc) / 65536)

/-- PACKET_CACHE_FILL puts the line of device memory into the core's packet cache; PC_TABLE_EVICT gives the entry whose latest issue is oldest to the thread that has waited 256 cycles, and that entry's threads wait behind the others (R99, R124). -/
def FillAndEvictClaim : Prop :=
  (∀ id s f l h, Store.find id s.fills = some f → s.launch f.launch = some l → f.np = false → (∀ r ∈ s.reqs, r.2.kind ≠ .store ∧ r.2.kind ≠ .tdesc) →
    let x := s.normal f.va
    let base := x / 128 * 128
    let tag := s.tagFor f.g f.ctx x
    region x ≠ 4 → s.bellOf f.ctx base = none → Store.find (copyKey (clusterOf f.g) tag x) s.l1 = none → Store.find (copyKey (sectorOf (clusterOf f.g)) tag x) s.sec = none → s.landUse f.ctx base false needNone = .ok h → h.sp = .dev →
    ∃ u, exec (.packetCacheFill id) s = .next u ∧ u.fills = s.fills.del id ∧ Store.find (pcKey f.g (s.ctag f.ctx) f.va) u.pcache = some (memRead s.mem h.pa 128) ∧
      u.mem = s.mem ∧ u.stands = (s.wakeLine f.g f.ctx (lineOf f.va)).stands ∧ u.reqs = s.reqs ∧ u.issue = s.issue) ∧
  (∀ g s o rest c, let i := s.tables g
    i.past = o :: rest → i.pct ≠ [] → o.since + 256 ≤ s.cyc g → ((s.cands g).find? fun c => decide (c.slot = o.slot ∧ c.lane = o.lane ∧ c.hdl = o.hdl)) = some c →
    ∃ v ∈ i.pct, (∀ e ∈ i.pct, v.2.last ≤ e.2.last) ∧ exec (.pcTableEvict g) s = .next { s with pct := Store.put g { i with
      pct := Store.put v.1 { launch := c.launch, pc := c.t.pc.toNat, start := c.t.slot, hdl := c.hdl, last := s.cyc g } i.pct, past := rest ++ ((s.cands g).filter v.2.holds).map fun c => { slot := c.slot, lane := c.lane, hdl := c.hdl, since := s.cyc g } } s.pct })

/-- Fetch and issue. The model's choices in it: log entries 14, 48, 49, 96, 119. -/
def Obligations.FetchAndIssue : Prop := PacketIssueClaim ∧ FillAndEvictClaim

/-! Spill, save and switch -/

/-- SHAPE_SPILL for a stand that waits: with enough granules its threads go on; else the resident stand of its context that holds most, ties to the higher slot, leaves with all its registers; a stand alone spills one of its registers of a wide shape (R142). -/
def SpillClaim : Prop :=
  let waits (s : State) (g slot : Nat) (st : Stand) : Prop := s.stand (standKey g slot) = some st ∧ st.place = .resident ∧ st.need ≠ 0
  let woken (cyc : Nat) (t w : Thread) : Prop := w = if t.st = .parked .gran then { t with st := .ready, since := cyc } else t
  let freed (s u : State) (key : Nat) (st v : Stand) : Prop := u = s.setStand key v ∧ v.need = 0 ∧ v.thr.length = st.thr.length ∧ (∀ l, l < 32 → woken (s.cyc (gOf key)) (st.t false l) (v.t false l)) ∧ v = { st with need := 0, thr := v.thr, h := v.h, v := v.v, spilledV := v.spilledV, reload := v.reload, grant := v.grant }
  (∀ g slot s st, waits s g slot st → st.need ≤ s.freePool g → ∃ u v, exec (.shapeSpill g slot) s = .next u ∧ freed s u (standKey g slot) st v ∧ v.spilledV = st.spilledV ∧ v.reload = st.reload ∧ v.v = st.v ∧ v.grant.1 = st.need) ∧
  (∀ g slot s st l k v, waits s g slot st → s.freePool g < st.need → s.launch st.launch = some l → (s.stands.map fun e => e.1).Nodup →
    let ok (e : Nat × Stand) : Prop := e.2.place = .resident ∧ e.2.need = 0 ∧ 0 < e.2.hold ∧ (s.launch e.2.launch).map (fun l => l.ctx) = some l.ctx
    (k, v) ∈ s.standsOn g → ok (k, v) → (∀ e ∈ s.standsOn g, ok e → e.2.hold < v.hold ∨ (e.2.hold = v.hold ∧ e.1 ≤ k)) → v.busy = false → (∀ h, v.h = some h → ∀ t ∈ h.thr, t.st ≠ .issuing) → s.drained g (slotOf k) = true →
    ∃ u w, exec (.shapeSpill g slot) s = .next u ∧ u.stand k = some w ∧ w = { v with place := .spilled, order := w.order, spilledV := [], need := v.hold, fresh := true, grant := (0, 0), forced := false } ∧ w.hold = 0 ∧ u.reqs = s.reqs ∧ u.ops = s.ops ∧ u.teams = s.teams) ∧
  (∀ g slot s st l i, waits s g slot st → s.freePool g < st.need → s.launch st.launch = some l → s.standsOn g = [(standKey g slot, st)] → (∀ t ∈ st.thr, t.st ≠ .parked .gran) → (∀ h, st.h = some h → ∀ t ∈ h.thr, t.st ≠ .parked .gran) → i < st.v.length → 1 < (st.v.getD i (.u 0)).code → i ∉ st.spilledV →
    (∀ j, i < j → j < st.v.length → (st.v.getD j (.u 0)).code ≤ 1 ∨ j ∈ st.spilledV) →
    exec (.shapeSpill g slot) s = .next ((s.saveStand g slot { st with rcause := 0 } 3 ((List.range st.v.length).filter fun n => decide (n = i) || st.spilledV.contains n) [] []).setStand (standKey g slot) { st with spilledV := i :: st.spilledV })) ∧
  (∀ g slot s st b, s.stand (standKey g slot) = some st → st.place = .resident → st.reload ≠ [] →
    let back := st.spilledV.filter fun i => !(st.reload.contains i)
    ({ st with spilledV := back, reload := [] } : Stand).hold - st.hold ≤ s.freePool g → s.loadStand g slot st true = .ok (some b) →
    ∃ u v, exec (.spillReload g slot) s = .next u ∧ freed s u (standKey g slot) st v ∧ v.spilledV = back ∧ v.reload = [] ∧ v.v = (st.v.mapIdx fun i r => if st.reload.contains i then b.v.getD i r else r) ∧ v.grant = (0, 0)) ∧
  (∀ g s key v w, (s.standsOn g).filter (fun e => decide (e.2.place = .spilled)) = [(key, v)] → (∀ e ∈ s.standsOn g, e.2.place = .resident → e.2.need = 0 ∧ e.2.reload = []) → v.need ≤ s.freePool g → s.loadStand g (slotOf key) v true = .ok (some w) →
    w.dl = [] → w.h = none → w.live ≠ 0 → (∀ t ∈ w.thr, t.team = none ∧ t.st ≠ .parked .waita) → s.rounds = [] →
    exec (.spillReturn g) s = .next (s.setStand key { w with place := .resident, need := 0, forced := false }))

/-- What a save writes of a stand's registers, a return reads back: every shape by its code and bytes, and a spill record's V registers (R135, R379). -/
def RecordsReadBackClaim : Prop :=
  let whole (r : VReg) : Prop := match r with | .u _ => True | .a _ _ => True | .g8 _ d => d.length = 32 | .g16 _ d => d.length = 32 | .gr v => v.length = 32
  (∀ r rest, whole r → VReg.ofBytes r.code (r.bytes ++ rest) = (r, r.bytes.length)) ∧
  (∀ (s : State) (l : Machine.Launch) (st : Stand) (rest : List Byte), st.v.length ≤ 128 → (∀ r ∈ st.v, whole r) → ∃ head vals, s.standBytes l st 3 (List.range st.v.length) [] [] = [(0, head), (0x90, vals)] ∧ head.length = 0x90 ∧
    ∀ old : Stand, old.v.length = st.v.length → old.fromRecord true (head ++ vals ++ rest) = some { old with v := st.v })

/-- SWITCH_OUT starts a switch at the park threshold or without a live thread; SLICE_END at the end of the slice, telling a stand whose handler runs later; BUDGET_OVERRUN makes what has not stopped take a full save (R371, R372, R376). -/
def SwitchStartsClaim : Prop :=
  let started (s : State) (g c cause : Nat) (cx : Machine.Ctx) : State := { s with switches := s.switches ++ [{ g := g, ctx := c, cause := cause, budgetEnd := some (s.cyc g + cx.budgetc), past := false }] }
  (∀ g s o c since cx, s.loaded g = some o → Store.find g s.resident = some (c, since) → (∀ w ∈ s.switches, w.g ≠ g) → s.ctx c = some cx →
    let ts (st : Stand) : List Thread := ((lanesOf (st.live &&& st.ex)).map fun l => st.t false l).filter fun t => decide (t.dbg ≠ .held)
    let parked (st : Stand) : List Thread := (ts st).filter fun t => decide (0 < st.need ∧ st.place = .resident) || match t.st with | .parked _ => true | _ => false
    ((∀ e ∈ s.standsOf g c, e.2.live = 0) ∨ cx.park * ((s.standsOf g c).map fun e => (ts e.2).length).sum < 100 * ((s.standsOf g c).map fun e => (parked e.2).length).sum) → exec (.switchOut g) s = .next (started s g c 0x3A cx)) ∧
  (∀ g s c since cx, s.sliceOver g = true → Store.find g s.resident = some (c, since) → s.ctx c = some cx →
    (s.standsOf g c = [] → exec (.sliceEnd g) s = .next (started s g c 0x38 cx)) ∧
    (∀ key st, s.standsOf g c = [(key, st)] → s.stand key = some st → st.live ≠ 0 → st.h.isSome = true →
      exec (.sliceEnd g) s = .next ((started s g c 0x38 cx).setStand key { st with dl := st.dl ++ [{ cause := 0x38, kind := 3, acc := 0, ghost := false, lanes := [] }] })) ∧
    (∀ key st l hpc, s.standsOf g c = [(key, st)] → s.stand key = some st → st.live ≠ 0 → st.h = none → st.dl = [] → st.place = .resident → st.thr.length = 32 → s.launch st.launch = some l → st.sliceLanes l ≠ [] →
      (∀ x ∈ st.sliceLanes l, ∃ ord delta, s.position l x.pkt = .ok ord delta) → s.vector c cx 0x38 = .at_ hpc →
      ∃ u w h, exec (.sliceEnd g) s = .next u ∧ u.switches = (started s g c 0x38 cx).switches ∧ u.stand key = some w ∧ w.h = some h ∧ h.dv.cause = 0x38 ∧ h.dv.kind = 3 ∧ w.tmaskf = st.live ∧ w.tmaska = st.live ∧
        (∀ x ∈ st.sliceLanes l, (w.t false x.lane).st = .parked .delivery ∧ ∃ d ∈ h.dv.lanes, d.lane = x.lane ∧ d.retPc = (st.t false x.lane).pc ∧ d.retSlot = (st.t false x.lane).slot))) ∧
  (∀ g s w t, s.switchOn g = some w → w.budgetEnd = some t → w.past = false → t ≤ s.cyc g → (s.stands.map fun e => e.1).Nodup →
    ∃ u, exec (.budgetOverrun g) s = .next u ∧ u.switches = s.switches.map (fun x => if x = w then { x with past := true } else x) ∧ u = { s with switches := u.switches, stands := u.stands } ∧
      ∀ key st, s.stand key = some st → u.stand key = some (if key / 32 = g ∧ s.launchCtx st.launch = some w.ctx ∧ st.quiet = false then { st with rcause := 0x39, full := true } else st))

/-- SWAP_IN: the stand of a context that switches out leaves its slot into the shadow, which is then written; the shadow's stand comes in, and its threads go on. SAVE_WRITE_DONE empties the shadow (R324, R373). -/
def SwapClaim : Prop :=
  let ready (s : State) (g : Nat) (w : Switch) (o : OutSet) : Prop := s.switchOn g = some w ∧ s.loaded g = some o
  (∀ g s w o key st l, ready s g w o → o.stands = [] → s.standsOf g w.ctx = [(key, st)] → s.stand key = some st → (s.stands.map fun e => e.1).Pairwise (· < ·) → s.mayLeave key st = true → s.launch st.launch = some l → st.full = true → st.rcause ≠ 0 → st.v.length = l.hdr.vregs →
    st.s.length = l.hdr.sregs → st.p.length = l.hdr.pregs →
    ∃ u out name x, exec (.swapIn g) s = .next u ∧ u.stand key = none ∧ (∀ k, k ≠ key → u.stand k = s.stand k) ∧ Store.find g u.resident = some (o.ctx, s.now) ∧ u.switches = s.switches.filter (fun x => decide (x ≠ w)) ∧
      out ∈ u.outs ∧ out.g = g ∧ out.ctx = w.ctx ∧ out.shadow = true ∧ out.writing = true ∧ out.stands = [(name, x)] ∧ x.launch = st.launch ∧ x.num = st.num ∧ x.v = st.v ∧ x.s = st.s ∧ x.p = st.p ∧ x.rcause = st.rcause ∧ x.h = st.h ∧ x.dl = st.dl ∧
      ∀ i, i < 32 → (x.t false i).pc = (st.t false i).pc ∧ (x.t false i).st = (st.t false i).st ∧ (x.t false i).flags = (st.t false i).flags ∧ (x.t false i).rs = (st.t false i).rs ∧ (∀ y, (x.t false i).watch = some y → y.st ≠ .armed)) ∧
  (∀ g s w o name x, ready s g w o → o.stands = [(name, x)] → s.standsOf g w.ctx = [] → s.stand (standKey g (name % 32)) = none → x.dl = [] → x.h = none → x.live ≠ 0 → (∀ t ∈ x.thr, t.team = none ∧ t.st ≠ .parked .waita) → s.rounds = [] →
    ∃ u y, exec (.swapIn g) s = .next u ∧ u.stand (standKey g (name % 32)) = some y ∧ (∀ k, k ≠ standKey g (name % 32) → u.stand k = s.stand k) ∧ Store.find g u.resident = some (o.ctx, s.now) ∧ u.switches = s.switches.filter (fun x => decide (x ≠ w)) ∧ o ∉ u.outs ∧
      y = { x with thr := y.thr, fresh := true, full := false, rcause := 0 } ∧ y.thr.length = x.thr.length ∧
      ∀ i, i < 32 → let t := x.t false i
        y.t false i = if (t.st = .stopped ∧ t.dbg ≠ .held) ∨ t.st = .stalled then { t with st := .ready, since := s.cyc g } else t) ∧
  (∀ g s o, s.shadow g = some o → o.writing = true → ∃ u, exec (.saveWriteDone g) s = .next u ∧ u.outs = s.outs.map (fun x => if x.g = g ∧ x.shadow = true then { x with shadow := false, writing := false } else x) ∧
    u.reqs = s.reqs ∧ u.ops = s.ops ∧ u.teams = s.teams ∧ u.resident = s.resident ∧ SameStands s u)

/-- Spill, save and switch. The model's choices in it: log entries 47, 107, 108. -/
def Obligations.SpillSaveAndSwitch : Prop := SpillClaim ∧ RecordsReadBackClaim ∧ SwitchStartsClaim ∧ SwapClaim

/-! Launch queues -/

/-- A write of HQ_QTAIL moves all indices of a queue that is off, moves TL of one that is on when it lies ahead, or counts as stale; a region-2 watch ends at once, or at its time (R38, R39). -/
def TailWriteClaim : Prop :=
  (∀ fn n v s dq, s.queueBy fn n = some dq → s.queueShut (s.queue dq) = false → let q := s.queue dq
    q.tl < 2 ^ 32 → q.h < 2 ^ 32 → let t := v.toNat
    let ahead (b : Nat) : Nat := (v - BitVec.ofNat 32 b).toNat
    let told (x : WaitW) : WaitW := if region x.addr = 2 then { x with fired := true } else x
    let w (q : Queue) : Queue := { q with watch := if region q.base = 2 then none else q.watch, waitw := q.waitw.map told }
    exec (.qtailWrite fn n v) s = .next { s with queues := Store.put dq (w (if q.en = false then { q with tl := t, h := t, hw := t }
      else if 0 < ahead q.tl ∧ ahead q.tl < 2 ^ 31 ∧ ahead q.h < 2 ^ 31 then { q with tl := t } else { q with stale := min (q.stale + 1) 0xFFFF })) s.queues, launches := (s.onWaits dq told).launches }) ∧
  (∀ dq s, let q := s.queue dq
    let late (x : WaitW) : WaitW := if region x.addr = 2 ∧ x.since + 10000 ≤ s.now then { x with fired := true } else x
    exec (.ringWatchTimeout dq) s =
      .next { s with queues := Store.put dq { q with watch := q.watch.bind (fun t => if region q.base = 2 ∧ t + 10000 ≤ s.now then none else some t), waitw := q.waitw.map late } s.queues, launches := (s.onWaits dq late).launches }) ∧
  (∀ (s : State) dq f k l, s.launch k = some l → (s.onWaits dq f).launch k = some (if l.queue = some dq then { l with graph := l.graph.map fun g => { g with waitw := g.waitw.map f } } else l))

/-- QUEUE_SERVICE: a queue with nothing to do is left alone; one without its context stops with 8; a slot that holds the next lap already stops it with 4; one not written yet is watched; a packet that breaks R43 stops it with 3, and NOP, SIGNAL and a KERNEL of this chip alone are accepted (R39, R43 to R48). -/
def QueueServiceClaim : Prop :=
  (∀ dq s, s.serviceable (s.queue dq) = false → exec (.queueService dq) s = .next s) ∧
  (∀ dq s, s.serviceable (s.queue dq) = true → s.ctxFits (s.queue dq) = false → ∃ u, exec (.queueService dq) s = .next u ∧ QueueStops s u dq 8 0xFFFFFFFF) ∧
  (∀ dq s s1 sb, let q := s.queue dq
    let a := q.base + 64 * (q.h % 2 ^ q.log2)
    s.serviceable q = true → s.ctxFits q = true → s.fread q.ctx (a + 0x3C) 4 = .ok (s1, sb) → q.h < 2 ^ 32 → 4 ≤ q.log2 → q.log2 ≤ 16 →
    let lap (h : Nat) : Nat := (h % 2 ^ 32 / 2 ^ q.log2 + 1) % 2 ^ 32
    (ofBytes sb ≠ lap q.h → ofBytes sb = lap (q.h + 2 ^ q.log2) → ∃ u, exec (.queueService dq) s = .next u ∧ QueueStops s1 u dq 4 0xFFFFFFFF) ∧
    (ofBytes sb ≠ lap q.h → ofBytes sb ≠ lap (q.h + 2 ^ q.log2) → ∃ line, exec (.queueService dq) s = .next { s1 with queues := Store.put dq { q with watch := some s.now, watchLine := line } s1.queues }) ∧
    (∀ s2 b, ofBytes sb = lap q.h → s1.freadBlocks q.ctx a 4 = .ok (s2, b) → s2.queue dq = q →
      (packetOk b false s2.pkg.chip = false → ∃ u, exec (.queueService dq) s = .next u ∧ QueueStops s2 u dq 3 0xFFFFFFFF) ∧
      (packetOk b false s2.pkg.chip = true → let on : Queue := { q with h := (q.h + 1) % 2 ^ 32, waitw := none, watch := none }
        (nodeType b = 0 → exec (.queueService dq) s = .next { s2 with queues := Store.put dq on s2.queues }) ∧
        (nodeType b = 4 → exec (.queueService dq) s = .next { s2 with seq := s2.seq + 1, queues := Store.put dq { on with sigs := q.sigs ++ [{ seq := s2.seq, addr := field b 0x10 8, value := field b 0x18 8, irq := decide (bits (field b 1 1) 1 1 = 1), graph := none }] } s2.queues }) ∧
        (∀ s3 h args, nodeType b = 1 → bits (field b 1 1) 2 1 = 0 → s2.readKernel q.ctx b = .ok (s3, h, args) → s3.queue dq = q →
          exec (.queueService dq) s = .next { s3 with launches := s3.launches ++ [(s3.seq, { Launch.ofPacket b h args (some dq) q.ctx 0 with seq := s3.seq })], seq := s3.seq + 1, queues := Store.put dq on s3.queues }) ∧
        (∀ e, nodeType b = 1 → s2.readKernel q.ctx b = .error e → ∃ u, exec (.queueService dq) s = .next u ∧ QueueStops s2 u dq e 0xFFFFFFFF))))

/-- Head write-back stores h at HWB and clears HWBF; the retry does so while HWBF is 1; a write that faults sets HWBF (R40, R41). -/
def HeadWritebackClaim : Prop :=
  let writes (i : Instr) (dq : Nat) (s : State) : Prop := let q := s.queue dq
    (∀ h, MemOk s → s.homeAt q.ctx q.hwb h → h.pa + 4 ≤ devEnd → ∃ u, exec i s = .next u ∧ Wrote s u h.pa (toBytes 4 q.h) ∧ u.queue dq = { q with hw := q.h, hwbf := false, watch := (u.queue dq).watch, waitw := (u.queue dq).waitw } ∧ SameStands s u ∧ u.reqs = s.reqs ∧ u.ctxs = s.ctxs) ∧
    (∀ c, s.vwrite q.ctx q.hwb (toBytes 4 q.h) = .error c → ∃ u, exec i s = .next u ∧ u.queue dq = { q with hw := q.h, hwbf := true } ∧ u.mem = s.mem ∧ u.stands = s.stands ∧
      (q.hwbf = true → u = { s with queues := u.queues, fresh := s.fresh + 1 }) ∧ (q.hwbf = false → (u.causeEnt (0x200 + dq)).pend = true))
  (∀ dq s, (s.queue dq).en = true → (s.queue dq).hwb ≠ 0 → (s.queue dq).hw ≠ (s.queue dq).h → writes (.headWriteback dq) dq s) ∧
  (∀ fn n s dq, s.queueBy fn n = some dq → (s.queue dq).hwbf = true → (s.queue dq).hwb ≠ 0 → s.queueShut (s.queue dq) = false → writes (.headWritebackRetry fn n) dq s)

/-- EN rises where R35 allows it and falls at any time; RESTART clears STOP and ERR and runs a stopped graph from its first node; SKIP drops it, or steps over the packet (R34, R35, R51, R60). -/
def QueueControlClaim : Prop :=
  let named (fn n : Nat) (s : State) (dq : Nat) : Prop := s.queueBy fn n = some dq ∧ s.queueShut (s.queue dq) = false
  (∀ fn n s dq, named fn n s dq → let q := s.queue dq
    (q.en = false → 4 ≤ q.log2 → q.log2 ≤ 16 → q.base % 4096 = 0 → q.base < 2 ^ 56 → (region q.base = 0 ∨ region q.base = 2) →
      exec (.queueEnable fn n) s = .next { s with queues := Store.put dq { q with en := true, watch := none, waitw := none } s.queues }) ∧
    exec (.queueDisable fn n) s = .next { s with queues := Store.put dq { q with en := false, watch := none, waitw := none } s.queues }) ∧
  (∀ fn n s dq, named fn n s dq → (s.queue dq).stop = true → let q : Queue := { s.queue dq with stop := false, err := 0 }
    let on : Queue := { q with h := (q.h + 1) % 2 ^ 32, waitw := none, watch := none }
    (s.stoppedGraphs dq = [] → s.serviceable q = false → exec (.queueRestart fn n) s = .next { s with queues := Store.put dq q s.queues }) ∧
    (∀ k, s.stoppedGraphs dq = [k] → s.serviceable q = false → exec (.queueRestart fn n) s = .next { s with queues := Store.put dq q s.queues, launches := Store.adjust k (fun l => { l with graph := l.graph.map fun g => { g with at_ := 0, iters := [], waitw := none, done := false } }) s.launches }) ∧
    (s.stoppedGraphs dq = [] → s.serviceable on = false → exec (.queueRestartSkip fn n) s = .next { s with queues := Store.put dq on s.queues }) ∧
    (∀ k l, s.stoppedGraphs dq = [k] → s.launch k = some l → (∀ c ∈ s.launches, c.2.parent ≠ some k) → s.serviceable on = false →
      exec (.queueRestartSkip fn n) s = .next { s with queues := Store.put dq on s.queues, launches := s.launches.del k }))

/-- A WAITW whose watch has ended reads its word again: at its value or above it the queue goes on, else it waits on; at its timeout the queue stops with 5. A SIGNAL whose launches have finished stores its value (R47, R48). -/
def WaitsAndSignalsClaim : Prop :=
  (∀ dq s w s1 b, let q := s.queue dq
    q.waitw = some w → w.fired = true → s.queueShut q = false → s.fread q.ctx w.addr 8 = .ok (s1, b) → s1.queue dq = q →
    (w.value ≤ ofBytes b → exec (.waitwCheck dq) s = .next { s1 with queues := Store.put dq { q with h := (q.h + 1) % 2 ^ 32, waitw := none, watch := none } s1.queues }) ∧
    (ofBytes b < w.value → ∃ line, exec (.waitwCheck dq) s = .next { s1 with queues := Store.put dq { q with waitw := some { w with watch := line, since := s.now, fired := false } } s1.queues })) ∧
  (∀ dq s w, (s.queue dq).waitw = some w → w.timeout ≠ 0 → w.first + w.timeout ≤ s.now → ∃ u, exec (.waitwTimeout dq) s = .next u ∧ QueueStops s u dq 5 0xFFFFFFFF) ∧
  (∀ dq s x rest h, let q := s.queue dq
    MemOk s → q.sigs = x :: rest → x ∉ rest → s.signalDue dq x = true → x.irq = false → s.homeAt q.ctx x.addr h → h.pa + 8 ≤ devEnd → q.waitw = none → q.watch = none →
    ∃ u, exec (.signalStore dq) s = .next u ∧ Wrote s u h.pa (toBytes 8 x.value) ∧ u.queue dq = { q with sigs := rest } ∧ SameStands s u ∧ u.reqs = s.reqs ∧ u.ctxs = s.ctxs)

/-- Launch queues. The model's choices in it: log entries 9, 65, 68, 112, 114. -/
def Obligations.LaunchQueues : Prop := TailWriteClaim ∧ QueueServiceClaim ∧ HeadWritebackClaim ∧ QueueControlClaim ∧ WaitsAndSignalsClaim

/-! Launches -/

/-- LAUNCH_START of an accepted launch gives it its number and its place in the order, and the packet caches and entry caches let its code and its context's entries go; a started graph steps over a NOP node (R29, R46, R53, R100). -/
def StartsClaim : Prop :=
  (∀ k s l cx, s.launch k = some l → s.startable k l = true → s.ctx l.ctx = some cx → cx.ctag < 65536 → ∃ u pc tc l1 sec rr, exec (.launchStart k) s = .next u ∧
    u = { s with launches := Store.adjust k (fun l => { l with started := true, order := s.seq, number := cx.started, waitSince := s.now }) s.launches, seq := s.seq + 1,
                 ctxs := Store.adjust l.ctx (fun c => { c with started := (c.started + 1) % 2 ^ 32, loop := { c.loop with active := true } }) s.ctxs, pcache := pc, tcache := tc, l1 := l1, sec := sec, rr := rr } ∧
    (∀ g ln, l.code + l.hdr.codeOff ≤ 128 * ln + 127 → 128 * ln < l.code + l.hdr.codeOff + l.hdr.codeSize → ln < 2 ^ 49 → Store.find (pcKey g cx.ctag (128 * ln)) pc = none) ∧
    (∀ e ∈ pc, e ∈ s.pcache) ∧ (∀ e ∈ tc, e ∈ s.tcache ∧ e.1 / 4096 % 256 ≠ l.ctx) ∧
    (let code (ln : Nat) : Prop := l.code + l.hdr.codeOff ≤ 128 * ln + 127 ∧ 128 * ln ≤ l.code + l.hdr.codeOff + l.hdr.codeSize
     (∀ e ∈ l1, e ∈ s.l1 ∧ ¬ code (keyLine e.1)) ∧ ∀ e ∈ sec, e ∈ s.sec ∧ ¬ code (keyLine e.1)) ∧
    (∀ dq, s.queueOf l = some dq → Store.find (Config.queueDie dq % 4) rr = some dq) ∧ (s.queueOf l = none → rr = s.rr)) ∧
  (∀ k s l g dq, s.launch k = some l → l.started = true → l.killing = false → l.graph = some g → l.queue = some dq → g.done = false → g.waitw = none → nodeType (g.nodes.getD g.at_ []) = 0 → s.frozenCk = false →
    (∀ b ∈ bodies g.nodes, b.2 ≠ g.at_) → exec (.launchStart k) s = .next (s.onLaunch k fun l => { l with graph := l.graph.map fun g' => { g' with at_ := g.at_ + 1, waitw := none } }))

/-- GRAPH_LOOP enters the body while the word is not 0 and iterations are left, else goes on behind it; GRAPH_END and COMPLETION_POINT store the completion value, and the launch is gone (R53, R54, R397, R398). -/
def EndsClaim : Prop :=
  let gone (s u : State) (k : Nat) (l : Machine.Launch) : Prop :=
    (l.cpladdr = 0 → l.irq = false → u.launches = s.launches.del k ∧ u.mem = s.mem) ∧
    (∀ h, MemOk s → l.cpladdr ≠ 0 → l.irq = false → s.homeAt l.ctx l.cpladdr h → h.pa + 8 ≤ devEnd → (∀ j, j ≠ k → (u.launch j).isSome = (s.launch j).isSome) ∧ u.launch k = none ∧ Wrote s u h.pa (toBytes 8 l.cplval)) ∧
    (∀ dq, l.cpladdr = 0 → l.irq = true → s.queueOf l = some dq → u.launches = s.launches.del k ∧ u.mem = s.mem ∧ (u.causeEnt dq).pend = true ∧ (u.causeEnt dq).ctx = l.ctx)
  (∀ dq s k l g rest s1 b, s.graphsAt dq 5 = (k, l, g) :: rest → s.fread l.ctx (field (g.nodes.getD g.at_ []) 0x10 8) 4 = .ok (s1, b) →
    let node := g.nodes.getD g.at_ []
    let n := (Store.find g.at_ g.iters).getD 0
    let most := field node 8 4
    (ofBytes b ≠ 0 → (most = 0 ∨ n < most) → exec (.graphLoop dq) s = .next (s1.onLaunch k fun l => { l with graph := l.graph.map fun g' => { g' with at_ := g.at_ + 1, iters := Store.put g.at_ (n + 1) g.iters } })) ∧
    ((ofBytes b = 0 ∨ (most ≠ 0 ∧ most ≤ n)) → (∀ c ∈ bodies g.nodes, c.2 = g.at_ + field node 4 2 → g.at_ < c.1) →
      exec (.graphLoop dq) s = .next (s1.onLaunch k fun l => { l with graph := l.graph.map fun g' => { g' with at_ := g.at_ + field node 4 2 + 1, iters := Store.del g.at_ g'.iters } }))) ∧
  (∀ dq s k l g rest, s.graphsAt dq 6 = (k, l, g) :: rest → (s.launches.map fun e => e.1).Pairwise (· < ·) → s.launch k = some l → ∃ u, exec (.graphEnd dq) s = .next u ∧ gone s u k l) ∧
  (∀ k s l, s.launch k = some l → s.atEnd k l = true → l.parent = none → l.repl = none → (s.launches.map fun e => e.1).Pairwise (· < ·) → ∃ u, exec (.completionPoint k) s = .next u ∧ gone s u k l ∧ ∀ e ∈ u.scr, e.1 / 512 ≠ k)

/-- Replication: a chip of the set starts the launch it receives under the origin's number; the origin counts ready chips and sets the release 20,000 ticks ahead once all are; a release is kept; at its time the merge group is the launch's; a barrier whose time is over stops the queue with 7; an abort removes the launch; done chips are counted, and the last one completes it (R56, R57, R80, R398). -/
def ReplicationClaim : Prop :=
  let repl (s : State) (k : Nat) (l : Machine.Launch) (r : Repl) : Prop := s.launch k = some l ∧ l.repl = some r
  let put (s : State) (k : Nat) (r : Repl) : State := s.onLaunch k fun l => { l with repl := some r }
  (∀ p s cx s1 hb, s.ctx p.ctx = some cx → cx.part = p.part → s.freadBlocks p.ctx (field p.packet 0x10 8) 16 = .ok (s1, hb) → headerOk hb = true → (Header.ofBytes hb).covered = true → (∀ e ∈ s1.launches, e.1 < s1.seq) →
    ∃ u l r, exec (.replicationReceive p) s = .next u ∧ u.launch s1.seq = some l ∧ l.started = true ∧ l.number = p.number ∧ l.ctx = p.ctx ∧ l.hdr = Header.ofBytes hb ∧ l.queue = none ∧ l.cpladdr = 0 ∧ l.repl = some r ∧ r.origin = p.origin ∧ r.gen = p.gen ∧ r.release = none ∧
      (∀ k, k ≠ s1.seq → u.launch k = s1.launch k)) ∧
  (∀ k chip gen s l r, repl s k l r → r.origin = s.pkg.chip → r.gen = gen → r.release = none → chip ∈ r.chips → chip ∉ r.ready →
    let r1 : Repl := { r with ready := r.ready ++ [chip] }
    ((∃ c ∈ r.chips, c ∉ r1.ready) → exec (.startReady k chip gen) s = .next (put s k r1)) ∧
    ((∀ c ∈ r.chips, c ∈ r1.ready) → s.now < r.since + max 10000 (match l.queue with | some dq => (s.queue dq).rto | none => 0) → exec (.startReady k chip gen) s = .next { put s k r1 with inbox := s.inbox ++ [.startReleaseReceive k gen (s.now + 20000)], outbox := s.outbox ++ (r.chips.filter fun c => decide (c ≠ s.pkg.chip)).map fun c => .flit c 12 [k, gen, s.now + 20000] })) ∧
  (∀ k gen t s l r, repl s k l r → r.gen = gen → r.release = none → let u := put s k { r with release := some t }
    exec (.startReleaseReceive k gen t) s = .next (if t ≤ s.now then u.onCtx l.ctx fun c => { c with loop := { c.loop with mFirst := r.first, mN := r.nchip, mEn := true } } else u)) ∧
  (∀ k s l r t, repl s k l r → r.release = some t → t ≤ s.now → exec (.startBarrierIssue k) s = .next (s.onCtx l.ctx fun c => { c with loop := { c.loop with mFirst := r.first, mN := r.nchip, mEn := true } })) ∧
  (∀ k s l r dq, repl s k l r → l.queue = some dq → r.origin = s.pkg.chip → r.release = none → r.since + max 10000 (s.queue dq).rto ≤ s.now →
    ∃ u, exec (.startBarrierTimeout k) s = .next u ∧ u.launches = s.launches.del k ∧ (∀ e ∈ u.stands, e.2.launch ≠ k) ∧ (u.queue dq).stop = true ∧ (u.queue dq).err = 7 ∧ (u.causeEnt (0x200 + dq)).pend = true) ∧
  (∀ k gen s l r, repl s k l r → r.gen = gen → ∃ u, exec (.startAbortReceive k gen) s = .next u ∧ u.launches = s.launches.del k ∧ u.stands = s.stands.filter (fun e => decide (e.2.launch ≠ k)) ∧ u.mem = s.mem) ∧
  (∀ k chip gen s l r, repl s k l r → r.origin = s.pkg.chip → r.gen = gen → chip ≠ s.pkg.chip → chip ∈ r.chips → chip ∉ r.done →
    let r1 : Repl := { r with done := r.done ++ [chip] }
    ((∃ c ∈ r.chips, c ∉ r1.done) → exec (.replicaDone k chip gen) s = .next (put s k r1)) ∧
    ((∀ c ∈ r.chips, c ∈ r1.done) → l.parent = none → l.cpladdr = 0 → l.irq = false → exec (.replicaDone k chip gen) s = .next { s with launches := s.launches.del k }))

/-- KILL of a launch that is no graph's: its stands, operations, commands and teams are gone, a request that is not parked goes on without a thread, its entry of the cause table is pending, and everything of other launches is as before (R357, R400, R404). -/
def KillClaim : Prop :=
  ∀ k cause s l, s.launch k = some l → l.graph = none → l.parent = none → bits s.regs.trCtl.toNat 5 1 = 0 →
    ∃ u, exec (.kill k cause) s = .next u ∧ u.launches = s.launches.del k ∧ u.stands = s.stands.filter (fun e => decide (e.2.launch ≠ k)) ∧ u.issue = s.issue.filter (fun q => decide (q.launch ≠ k)) ∧
      u.ops = s.ops.filter (fun o => decide (o.2.launch ≠ k)) ∧ u.cpys = s.cpys.filter (fun c => decide (c.2.launch ≠ k)) ∧ u.teams = s.teams.filter (fun t => decide (t.2.launch ≠ k)) ∧ u.mem = s.mem ∧ u.ctxs = s.ctxs ∧
      (∀ r ∈ u.reqs, r.2.launch = k → r.2.op = none ∧ r.2.slot = 33 ∧ ∀ a ∈ r.2.open_, a.parked = none) ∧ u.reqs.filter (fun r => decide (r.2.launch ≠ k)) = s.reqs.filter (fun r => decide (r.2.launch ≠ k)) ∧
      (u.causeEnt (0x400 + l.ctx)).pend = true ∧ (u.causeEnt (0x400 + l.ctx)).ctx = l.ctx ∧
      (∀ f, f = s.fn (s.part (s.partOf l.ctx)).fn → f.ringOn = true → (f.rrTail + 2 ^ 32 - f.rrHead) % 2 ^ 32 < 2 ^ f.rrLog2 → ∃ bytes, .record (s.part (s.partOf l.ctx)).fn (f.rrBase + 64 * (f.rrTail % 2 ^ f.rrLog2)) bytes ∈ u.outbox ∧ bytes.length = 64 ∧ bytes.take 2 = [1, BitVec.ofNat 8 cause])

/-- Launches. The model's choices in it: log entries 46, 66, 67, 69, 99, 106, 110, 112. -/
def Obligations.Launches : Prop := StartsClaim ∧ EndsClaim ∧ ReplicationClaim ∧ KillClaim

/-! Contexts -/

/-- CTX_CREATE of a free number makes the context that the descriptor describes, its loop stopped; RELOAD replaces one of the function's without a launch, keeping its count of launches; DESTROY writes the loop state back and the number is free. Each refusal has its result and changes nothing else: 1 for an invalid descriptor, 2 with a launch in flight or a queue bound, 3 for a number in use or an absent one, 4 for another function's partition (R30, R31, R58, R91, R92). -/
def ContextCommandsClaim : Prop :=
  let answers (s : State) (fn res : Nat) : Host.Outcome State Fault Refusal := .next { s with fns := Store.put fn { s.fn fn with ctxResult := res } s.fns }
  let made (s u : State) (fn c a : Nat) (b : List Byte) : Prop := (u.fn fn).ctxResult = 0 ∧ u = { s with ctxs := u.ctxs, fns := u.fns } ∧ (∀ d, d ≠ c → (u.ctx d).map (fun x => { x with loop := (Ctx.ofDesc b a s.now).loop }) = (s.ctx d).map fun x => { x with loop := (Ctx.ofDesc b a s.now).loop }) ∧
    ∃ x, u.ctx c = some x ∧ x.desc = a ∧ x.fn = fn ∧ x.ctag = field b 0 4 % 2 ^ 15 ∧ x.part = field b 0 4 / 2 ^ 16 % 32 ∧ x.cls = field b 0 4 / 2 ^ 21 % 4 ∧ x.hmode = decide (field b 0 4 / 2 ^ 23 % 2 = 1) ∧ x.ptroot = field b 8 8 ∧ x.tidbase = field b 0x10 8 ∧
      x.tvbase = field b 0x18 8 ∧ x.savebase = field b 0x20 8 ∧ x.budgetc = field b 0x28 4 ∧ x.loop.interval = field b 0x2C 4 ∧ x.loop.target = field b 0x30 2 ∧ x.loop.active = false ∧ x.loop.latches = []
  let desc (s : State) (fn a : Nat) (b : List Byte) : Prop := a = (s.fn fn).ctxAddr / 256 * 256 ∧ b = memRead s.mem a 256 ∧ a < devEnd ∧ descOk b = true
  let mine (s : State) (fn p : Nat) : Prop := (s.part p).fn = fn ∧ (s.part p).resetAt = none
  (∀ fn c s a b, s.ctx c = none → desc s fn a b → mine s fn (field b 0 4 / 2 ^ 16 % 32) → ∃ u, exec (.ctxCreate fn c) s = .next u ∧ made s u fn c a b) ∧
  (∀ fn c s, (s.ctx c).isSome = true → exec (.ctxCreate fn c) s = answers s fn 3) ∧
  (∀ fn c s, s.ctx c = none → (∀ a b, ¬ desc s fn a b) → exec (.ctxCreate fn c) s = answers s fn 1) ∧
  (∀ fn c s a b, s.ctx c = none → desc s fn a b → (s.part (field b 0 4 / 2 ^ 16 % 32)).fn ≠ fn → exec (.ctxCreate fn c) s = answers s fn 4) ∧
  (∀ fn c s a b old, s.ctx c = some old → mine s fn old.part → (∀ l ∈ s.launches, l.2.ctx ≠ c) → old.loop.busy = false → desc s fn a b → mine s fn (field b 0 4 / 2 ^ 16 % 32) →
    ∃ u, exec (.ctxReload fn c) s = .next u ∧ made s u fn c a b ∧ (u.ctx c).map (fun x => x.started) = some old.started) ∧
  (∀ fn c s old, MemOk s → s.ctx c = some old → mine s fn old.part → (∀ l ∈ s.launches, l.2.ctx ≠ c) → old.loop.busy = true → old.desc % 256 = 0 → old.loop.pos.length = 5 →
    ∃ u, exec (.ctxReload fn c) s = .next u ∧ Wrote s u (old.desc + 0x40) old.loop.bytes ∧ SameStands s u ∧ u.reqs = s.reqs) ∧
  (∀ fn c s old, s.ctx c = some old → (s.part old.part).fn = fn → (∃ l ∈ s.launches, l.2.ctx = c) → exec (.ctxReload fn c) s = answers s fn 2 ∧ exec (.ctxDestroy fn c) s = answers s fn 2) ∧
  (∀ fn c s old, MemOk s → s.ctx c = some old → (s.ctxs.map fun e => e.1).Pairwise (· < ·) → mine s fn old.part → (∀ l ∈ s.launches, l.2.ctx ≠ c) → (∀ q ∈ s.queues, q.2.en = true → q.2.ctx ≠ c) → old.desc % 256 = 0 → old.loop.pos.length = 5 →
    ∃ u, exec (.ctxDestroy fn c) s = .next u ∧ u.ctx c = none ∧ (u.fn fn).ctxResult = 0 ∧ Wrote s u (old.desc + 0x40) old.loop.bytes ∧ (∀ d, d ≠ c → (u.ctx d).isSome = (s.ctx d).isSome) ∧ SameStands s u ∧ u.reqs = s.reqs) ∧
  (∀ fn c s, s.ctx c = none → exec (.ctxReload fn c) s = answers s fn 3 ∧ exec (.ctxDestroy fn c) s = answers s fn 3) ∧
  (∀ fn c s old, s.ctx c = some old → (s.part old.part).fn ≠ fn → exec (.ctxReload fn c) s = answers s fn 4 ∧ exec (.ctxDestroy fn c) s = answers s fn 4) ∧
  (∀ fn c s old, s.ctx c = some old → (s.part old.part).fn = fn → (∃ q ∈ s.queues, q.2.en = true ∧ q.2.ctx = c) → exec (.ctxDestroy fn c) s = answers s fn 2) ∧
  (∀ fn c s old, s.ctx c = some old → mine s fn old.part → (∀ l ∈ s.launches, l.2.ctx ≠ c) → old.loop.busy = false → ((∀ a b, ¬ desc s fn a b) → exec (.ctxReload fn c) s = answers s fn 1) ∧
    ∀ a b, desc s fn a b → (s.part (field b 0 4 / 2 ^ 16 % 32)).fn ≠ fn → exec (.ctxReload fn c) s = answers s fn 4) ∧
  (∀ fn c s, exec (.ctxCmdNone fn c) s = answers s fn 0) ∧
  (∀ fn s, exec (.ctxCommandDone fn) s = .next { s with fns := Store.put fn { s.fn fn with ctxBusy := false } s.fns })

/-- BT_CMD: SAVE raises BUSY, and its end writes the loop state back and lowers it; CLEAR empties the integral and the flags; while BUSY is 1 a write only sets REFUSED; a function without the context writes nothing (R91, R94, R95). -/
def LoopCommandsClaim : Prop :=
  let own (s : State) (fn c : Nat) (x : Machine.Ctx) : Prop := s.ctx c = some x ∧ (fn = 0 ∨ (s.part x.part).fn = fn) ∧ (s.part x.part).resetAt = none
  let put (s : State) (c : Nat) (f : Loop → Loop) : State := s.onCtx c fun x => { x with loop := f x.loop }
  (∀ fn c s x, own s fn c x → x.loop.busy = false → exec (.loopSave fn c) s = .next (put s c fun l => { l with busy := true }) ∧
    exec (.loopClear fn c) s = .next (put s c fun l => { l with intg := 0, starved := false, satup := false, satdn := false, miss := false })) ∧
  (∀ fn c s x, own s fn c x → x.loop.busy = true → exec (.loopSave fn c) s = .next (put s c fun l => { l with refused := true }) ∧ exec (.loopClear fn c) s = .next (put s c fun l => { l with refused := true })) ∧
  (∀ fn c s x, s.ctx c = some x → fn ≠ 0 → (s.part x.part).fn ≠ fn → exec (.loopSave fn c) s = .next s ∧ exec (.loopClear fn c) s = .next s) ∧
  (∀ c s x, MemOk s → s.ctx c = some x → x.loop.busy = true → x.desc % 256 = 0 → x.loop.pos.length = 5 → ∃ u, exec (.loopSaveDone c) s = .next u ∧ Wrote s u (x.desc + 0x40) x.loop.bytes ∧ u.ctx c = some { x with loop := { x.loop with busy := false } } ∧ SameStands s u ∧ u.reqs = s.reqs)

/-- Contexts. The model's choices in it: log entries 54, 55. -/
def Obligations.Contexts : Prop := ContextCommandsClaim ∧ LoopCommandsClaim

/-! Placement -/

/-- STAND_PLACE puts a launch's next stand into the lowest free slot of the core it is offered: its live lanes' threads are ready at the entry packet; of a kernel without DIAG its vector registers are 0 and its stand registers hold the argument block from S32 on and 0 elsewhere (R16, R55, R65, R66). -/
def StandPlacedClaim : Prop :=
  ∀ k s l g slot, s.launch k = some l → l.waitsStand = true → (∀ e ∈ s.returning, s.launchCtx e.2.2.launch ≠ some l.ctx) → s.coreFor k l = some g → slot < 32 → s.stand (standKey g slot) = none → (∀ n, n < slot → (s.stand (standKey g n)).isSome = true) →
    ∃ u w, exec (.standPlace k) s = .next u ∧ u.stand (standKey g slot) = some w ∧ (∀ key, key ≠ standKey g slot → u.stand key = s.stand key) ∧ w.launch = k ∧ w.num = l.next ∧ w.place = .resident ∧ w.fresh = true ∧ w.h = none ∧ w.dl = [] ∧ w.fstk = 0 ∧
      w.v.length = l.hdr.vregs ∧ w.p = List.replicate 96 0 ∧ w.s.length = 64 ∧ (∀ i, i < (min l.hdr.argsize 128 + 3) / 4 → i < 32 → w.s[32 + i]? = some (BitVec.ofNat 32 (ofBytes ((l.argb.drop (4 * i)).take 4)))) ∧
      (∀ i, (min l.hdr.argsize 128 + 3) / 4 ≤ i → i < 32 → w.s[32 + i]? = some 0) ∧
      (l.hdr.diag = 0 → w.v = List.replicate l.hdr.vregs (.u 0) ∧ ∀ i, i < 32 → w.s[i]? = some 0) ∧
      (∀ i, i < 32 → let t := w.t false i
        if 32 * l.next + i < l.x * l.y * l.z then t.st = .ready ∧ t.pc = l.codePc + BitVec.ofNat 52 l.hdr.entry ∧ t.slot = 0 ∧ t.rs = [] ∧ (∀ f ∈ t.flags, f = 0) ∧ t.team = none ∧ t.watch = none else t.st = .exited) ∧
      u.launch k = some { l with next := l.next + 1, last := some g, waitSince := s.now } ∧ u.mem = s.mem ∧ u.reqs = s.reqs ∧ u.teams = s.teams

/-- The partition registers: a set of clusters disjoint from the others' and without a stand of the partition on one that leaves is taken, else REFUSED is set; a write of it by 1 clears it; more die-shared units than 8 are refused (R63, R64). EPOCH_BOUNDARY makes the calendars written and the cap current (R69, R70, R90). -/
def PartitionsClaim : Prop :=
  let put (s : State) (p : Nat) (x : Part) : State := { s with parts := Store.put p x s.parts }
  (∀ p i v s, p < 32 → i < 3 → let x := s.part p
    let clu := x.clu - 2 ^ (32 * i) * (x.clu / 2 ^ (32 * i) % 2 ^ 32) + 2 ^ (32 * i) * v.toNat
    (((∃ e ∈ s.parts, e.1 ≠ p ∧ e.2.clu &&& clu ≠ 0) ∨ ∃ n, n < 32 ∧ x.clu / 2 ^ (32 * i + n) % 2 = 1 ∧ v.toNat / 2 ^ n % 2 = 0 ∧ s.partOn p (32 * i + n) = true) → exec (.partitionWrite p (4 * i) v) s = .next (put s p { x with refused := true })) ∧
    ((∀ e ∈ s.parts, e.1 ≠ p → e.2.clu &&& clu = 0) → (∀ n, n < 32 → x.clu / 2 ^ (32 * i + n) % 2 = 1 → v.toNat / 2 ^ n % 2 = 0 → s.partOn p (32 * i + n) = false) →
      ∃ u, exec (.partitionWrite p (4 * i) v) s = .next u ∧ u.part p = { x with clu := clu } ∧ (∀ q, q ≠ p → u.part q = s.part q) ∧ u = { s with parts := u.parts, ctxs := u.ctxs } ∧ ∀ c, (u.ctx c).map (fun x => (x.part, x.fn, x.ctag)) = (s.ctx c).map fun x => (x.part, x.fn, x.ctag))) ∧
  (∀ p v s, p < 32 → v.toNat % 2 = 1 → exec (.partitionWrite p 0x10 v) s = .next (put s p { s.part p with refused := false })) ∧
  (∀ p v s, p < 32 → let x := s.part p
    let n := v.toNat / 32 % 16
    let others := ((s.parts.filter fun e => decide (e.1 ≠ p)).map fun e => e.2.dshare).sum
    (8 < others + n → exec (.partitionWrite p 0x0C v) s = .next (put s p { x with refused := true })) ∧
    (others + n ≤ 8 → n = x.dshare → exec (.partitionWrite p 0x0C v) s = .next (put s p { x with l2ways := v.toNat % 32, dshare := n, lend := decide (v.toNat / 512 % 2 = 1), borrow := decide (v.toNat / 1024 % 2 = 1) }))) ∧
  (∀ s, exec .epochBoundary s = .next { s with regs := { s.regs with calLive := s.regs.calOwn, c2capLive := s.regs.c2cap } })

/-- CLUSTER_LEND lends one of the idle clusters a partition may borrow; CLUSTER_RECLAIM stops the borrower's stands with a full save; RECLAIM_HANDOVER, once they have stopped, makes the cluster its owner's, and takes a stand off that is the last one there, to be placed again (R74, R75). -/
def BorrowingClaim : Prop :=
  (∀ p s, s.lendable p ≠ [] → ∃ gcl ∈ s.lendable p, exec (.clusterLend p) s = .next { s with lent := Store.put gcl p s.lent, fresh := s.fresh + 1 }) ∧
  (∀ (p : Nat) (s : State) (gcl : Nat), gcl ∈ s.lendable p → (s.part p).borrow = true ∧ Store.find gcl s.lent = none ∧ (∀ e ∈ s.stands, clusterOf (e.1 / 32) ≠ gcl) ∧ ∃ o, s.ownerPart gcl = some o ∧ o ≠ p ∧ (s.part o).lend = true) ∧
  (∀ gcl s, s.wanted gcl = true → gcl ∉ s.reclaim → (s.stands.map fun e => e.1).Pairwise (· < ·) → ∃ u, exec (.clusterReclaim gcl) s = .next u ∧ u = { s with reclaim := s.reclaim ++ [gcl], stands := u.stands } ∧
    ∀ key st, s.stand key = some st → u.stand key = some (if (key, st) ∈ s.borrowed gcl then { st with full := true, rcause := 0x3B } else st)) ∧
  (∀ gcl s, gcl ∈ s.reclaim → s.borrowed gcl = [] → (∀ t ∈ s.teams, t.2.cl ≠ gcl) → (∀ o ∈ s.outs, clusterOf o.g ≠ gcl) → exec (.reclaimHandover gcl) s = .next { s with lent := s.lent.del gcl, reclaim := s.reclaim.filter fun x => decide (x ≠ gcl) }) ∧
  (∀ gcl s key st l, gcl ∈ s.reclaim → s.borrowed gcl = [(key, st)] → (∀ t ∈ s.teams, t.2.cl ≠ gcl) → (∀ o ∈ s.outs, clusterOf o.g ≠ gcl) → s.stand key = some st → (s.stands.map fun e => e.1).Pairwise (· < ·) → st.place = .resident → s.mayLeave key st = true →
    s.launch st.launch = some l → st.full = true → st.rcause = 0x3B → st.v.length = l.hdr.vregs → st.s.length = l.hdr.sregs → st.p.length = l.hdr.pregs →
    ∃ u n x, exec (.reclaimHandover gcl) s = .next u ∧ u.stand key = none ∧ u.returning = s.returning ++ [(key / 32, n, x)] ∧ n % 32 = key % 32 ∧ x.launch = st.launch ∧ x.num = st.num ∧ x.v = st.v ∧ x.s = st.s ∧ x.p = st.p ∧ x.rcause = 0x3B ∧
      u.lent = s.lent.del gcl ∧ u.reclaim = s.reclaim.filter (fun x => decide (x ≠ gcl)) ∧ ∀ k, k ≠ key → (u.stand k).isSome = (s.stand k).isSome)

/-- Placement. The model's choices in it: log entries 2, 56, 57, 58, 59, 60, 109, 111. -/
def Obligations.Placement : Prop := StandPlacedClaim ∧ PartitionsClaim ∧ BorrowingClaim

/-! Beats, loops and the Umpire -/

/-- INTERVAL_BOUNDARY, at the boundary B that closes the open interval, latches the count and empties it, a new interval comes into force at its first boundary, and a member sends its count to the group's first chip; B is the next multiple of the interval, or the first boundary of a new value before it; counts and results are kept for intervals that await their step; at B + 4,000 the first chip sends the other members of the group the minimum of all counts, or void where a member's count has not come (R78 to R80). -/
def BoundariesAndMergingClaim : Prop :=
  let put (s : State) (c : Nat) (l : Loop) : State := s.onCtx c fun x => { x with loop := l }
  (∀ c s x, s.ctx c = some x → let l := x.loop
    let b := l.boundary l.from_
    let iv := match l.newInt with | some (n, b') => if b' ≤ b then n else l.interval | none => l.interval
    let first := decide (l.mFirst = s.pkg.chip)
    let to_ : Loop := { l with latches := l.latches ++ [{ k := l.k, count := l.bcnt, b := b, idle := !l.active }], bcnt := 0, from_ := b, interval := iv, newInt := l.newInt.bind (fun p => if p.2 ≤ b then none else some p), k := b / max 1 iv,
                               active := s.working c && !s.frozenCk, counts := if l.mEn && first then l.counts ++ [(s.pkg.chip, l.k, l.bcnt)] else l.counts }
    (s.now < b → exec (.intervalBoundary c) s = .next s) ∧
    (b ≤ s.now → exec (.intervalBoundary c) s = .next { put s c to_ with
      inbox := s.inbox ++ (if l.mEn = true ∧ b + 4000 ≤ s.now then [.mergeMinimumSend c] else []) ++ (if b + 5000 ≤ s.now then [.loopStep c] else [])
      outbox := s.outbox ++ if l.mEn && !first then [.flit l.mFirst 6 [c, l.k, l.bcnt]] else [] })) ∧
  (∀ l : Loop, 0 < l.interval → let b := l.boundary l.from_
    (l.newInt = none → b % l.interval = 0 ∧ l.from_ < b ∧ b ≤ l.from_ + l.interval) ∧
    ∀ n b', l.newInt = some (n, b') → l.from_ < b' → (b = b' ∨ b % l.interval = 0) ∧ l.from_ < b ∧ b ≤ b' ∧ b ≤ l.from_ + l.interval) ∧
  (∀ chip c k n s x, s.ctx c = some x → let l := x.loop
    (l.mEn = true → l.mFirst = s.pkg.chip → l.mFirst ≤ chip → chip < l.mFirst + l.mN → (∃ y ∈ l.latches, y.k = k) → exec (.mergeCountReceive chip c k n) s = .next (put s c { l with counts := l.counts ++ [(chip, k, n)] })) ∧
    ((∀ y ∈ l.latches, y.k ≠ k) → exec (.mergeCountReceive chip c k n) s = .next s)) ∧
  (∀ c s x pre a post, s.ctx c = some x → let l := x.loop
    l.mEn = true → l.mFirst = s.pkg.chip → 1 ≤ l.mN → l.latches = pre ++ a :: post → (∀ y ∈ pre, s.now < y.b + 4000 ∨ ∃ m ∈ l.merged, m.1 = y.k) → a.b + 4000 ≤ s.now → (∀ m ∈ l.merged, m.1 ≠ a.k) →
    ∃ r, exec (.mergeMinimumSend c) s = .next { put s c { l with counts := l.counts.filter fun y => decide (y.2.1 ≠ a.k), merged := l.merged ++ [(a.k, r)] } with
        outbox := s.outbox ++ (List.range (l.mN - 1)).map fun i => .flit (s.pkg.chip + 1 + i) 7 [c, a.k, match r with | some m => m + 1 | none => 0] } ∧
      (r = none ↔ ∃ chip, l.mFirst ≤ chip ∧ chip < l.mFirst + l.mN ∧ ∀ y ∈ l.counts, y.1 = chip → y.2.1 ≠ a.k) ∧
      ∀ m, r = some m → (∃ y ∈ l.counts, y.2 = (a.k, m)) ∧ ∀ y ∈ l.counts, y.2.1 = a.k → m ≤ y.2.2) ∧
  (∀ c k n s x, s.ctx c = some x → let l := x.loop
    ((∃ y ∈ l.latches, y.k = k) → exec (.mergeResultReceive c k n) s = .next (put s c { l with merged := l.merged ++ [(k, if n = 0 then none else some (n - 1))] })) ∧
    ((∀ y ∈ l.latches, y.k ≠ k) → exec (.mergeResultReceive c k n) s = .next s))

/-- LOOP_STEP at B + 5,000 takes the oldest interval: nothing while the loop is off; IDLE for an idle interval; MISS without the group's minimum; else the controller step of R81 to R83, whose requests fill the actuators' room in order up to the output's size. -/
def ControllerStepClaim : Prop :=
  (∀ c s x a rest, s.ctx c = some x → x.loop.latches = a :: rest → a.b + 5000 ≤ s.now → let l : Loop := { x.loop with latches := rest, targetNow := x.loop.target, ontimeNow := x.loop.ontime, merged := x.loop.merged.filter (fun p => decide (p.1 ≠ a.k)), counts := x.loop.counts.filter fun y => decide (y.2.1 ≠ a.k) }
    let to_ (l : Loop) : State := s.onCtx c fun x => { x with loop := l }
    (l.target = 0 → exec (.loopStep c) s = .next (to_ l)) ∧
    (l.target ≠ 0 → (a.idle = true ∨ s.frozenCk = true) → exec (.loopStep c) s = .next (to_ { l with idle := true })) ∧
    (l.target ≠ 0 → a.idle = false → s.frozenCk = false → l.mEn = false → exec (.loopStep c) s = .next (to_ (l.step a.count))) ∧
    (∀ p, l.target ≠ 0 → a.idle = false → s.frozenCk = false → l.mEn = true → x.loop.merged = [p] → p.1 = a.k → (∀ m, p.2 = some m → exec (.loopStep c) s = .next (to_ (l.step m))) ∧
      (p.2 = none → exec (.loopStep c) s = .next (to_ { l with miss := true, missn := min (l.missn + 1) 0xFFFFFFFF })))) ∧
  (∀ (l : Loop) (m : Nat), let w := l.step m
    let e : Int := max (-32768) (min 32767 ((l.target : Int) - m))
    let clamp (x : Int) : Int := max (-(l.ilim : Int)) (min l.ilim x)
    let full := 0 < e ∧ ∀ k, k < 5 → l.emax k ≤ l.at_ k
    let empty := e < 0 ∧ ∀ k, k < 5 → l.at_ k ≤ l.emin k
    let x : Int := l.kp * e + l.ki * w.intg
    w.elast = e ∧ w.mlast = m ∧ w.steps = (l.steps + 1) % 2 ^ 32 ∧ w.miss = false ∧ w.idle = false ∧ w.iold = clamp l.intg ∧ (w.satup = true ↔ full) ∧ (w.satdn = true ↔ empty) ∧
    (¬ full → ¬ empty → w.intg = clamp (clamp l.intg + e)) ∧ ((full ∨ empty) → w.intg = clamp l.intg) ∧
    (∃ q : Nat, 4096 * q ≤ x.natAbs + 2048 ∧ x.natAbs + 2048 < 4096 * (q + 1) ∧ w.ulast = max (-(l.smax : Int)) (min l.smax (if x < 0 then -(q : Int) else q))) ∧
    (w.ulast = 0 → w.req = [0, 0, 0, 0, 0] ∧ w.cur = l.cur) ∧
    (w.ulast ≠ 0 → let room (k : Nat) : Nat := if 0 < w.ulast then l.emax k - l.at_ k else l.at_ k - l.emin k
      let before (j k : Nat) : Prop := if 0 < w.ulast then j < k else k < j
      w.req.length = 5 ∧ (w.req.map Int.natAbs).sum = min w.ulast.natAbs (((List.range 5).map room).sum) ∧
      (∀ k, k < 5 → (w.req.getD k 0).natAbs ≤ room k ∧ (w.req.getD k 0 ≠ 0 → (0 < w.req.getD k 0 ↔ 0 < w.ulast) ∧ ∀ j, j < 5 → before j k → (w.req.getD j 0).natAbs = room j)) ∧
      (w.cur = 0 ↔ ∀ k, k < 5 → w.req.getD k 0 = 0) ∧ ∀ k, k < 5 → w.cur = k + 1 → w.req.getD k 0 ≠ 0 ∧ ∀ j, j < 5 → before k j → w.req.getD j 0 = 0))

/-- One pool of an Umpire round never gives out more than its supply, unless it could not shed enough; no context gets more than it asks for, or falls below its minimum by shedding. A round counts, and keeps the stand slots of a partition's contexts within 32 unless OVERCOMMIT is set (R85, R88, R89). CLOCK_STEP_APPLY puts a core's pending clock position in force (R84). -/
def UmpireClaim : Prop :=
  (∀ supply base (xs : List Ask), (xs.map fun a => a.ctx).Nodup → (∀ a ∈ xs, a.g = 0) → let r := runPool supply base xs
    (r.2 = false → poolUse base r.1 ≤ supply) ∧ r.1.map (fun a => a.ctx) = xs.map (fun a => a.ctx) ∧ (∀ b ∈ r.1, ∃ a ∈ xs, a.ctx = b.ctx ∧ b.g ≤ a.r ∧ b.pos ≤ a.pos + b.g ∧ min a.min a.pos ≤ b.pos) ∧
    ((∀ a ∈ xs, a.cls < 3) → poolUse base xs + (xs.map fun a => a.r * a.w).sum ≤ supply → r.1.map (fun a => a.pos) = xs.map fun a => a.pos + a.r)) ∧
  (∀ s, s.regs.umpRun = false → exec .umpireRound s = .next s) ∧
  (∀ s, s.regs.umpRun = true → (s.ctxs.map fun e => e.1).Nodup → ∃ u, exec .umpireRound s = .next u ∧ u.regs.rounds = (s.regs.rounds + 1) % 2 ^ 32 ∧ u.mem = s.mem ∧ (s.lent = [] → u.stands = s.stands) ∧ u.stands.map (fun e => (e.1, { e.2 with full := false, rcause := 0 })) = s.stands.map (fun e => (e.1, { e.2 with full := false, rcause := 0 })) ∧ u.reqs = s.reqs ∧ u.launches = s.launches ∧
    u.ctxs.map (fun e => (e.1, e.2.part, e.2.fn, e.2.loop.target, e.2.loop.bcnt)) = s.ctxs.map (fun e => (e.1, e.2.part, e.2.fn, e.2.loop.target, e.2.loop.bcnt)) ∧
    ∀ p, p < 32 → u.regs.overcommit = true ∨ ((u.ctxs.filter fun e => decide (e.2.part = p)).map fun e => e.2.loop.at_ 0).sum ≤ 32) ∧
  (∀ g s n t, Store.find g s.clkPend = some (n, t) → exec (.clockStepApply g) s = .next { s with clk := Store.put g n s.clk, clkPend := s.clkPend.del g, forts := Store.put g ((Store.find g s.forts).getD s.fort) s.forts })

/-- Writes of a context's BT_ registers by its function while BUSY is 0: INTERVAL, the actuators' limits, TARGET with ONTIME, the gains, the clamps, the merge group, the clears of SHED and REFUSED, LATEN; a value outside its limits sets REFUSED, and a command word without a command changes nothing (R78, R84, R94, R95). TIMEBASE_SYNC brings the timebase within 4 ticks; GUEST_TIME_APPLY puts a function's guest time in force (R412, R418). -/
def LoopRegistersClaim : Prop :=
  let own (s : State) (fn c : Nat) (x : Machine.Ctx) : Prop := s.ctx c = some x ∧ (fn = 0 ∨ (s.part x.part).fn = fn) ∧ (s.part x.part).resetAt = none ∧ x.loop.busy = false
  let put (s : State) (c : Nat) (f : Loop → Loop) : Host.Outcome State Fault Refusal := .next (s.onCtx c fun x => { x with loop := f x.loop })
  let refused (s : State) (c : Nat) : Host.Outcome State Fault Refusal := put s c fun l => { l with refused := true }
  (∀ fn c v s x, own s fn c x → let n := v.toNat
    (10000 ≤ n → n ≤ 1000000 → ∃ b, exec (.intervalWrite fn c v) s = put s c (fun l => { l with newInt := some (n, b) }) ∧ b % n = 0 ∧ s.now < b ∧ b ≤ s.now + n) ∧ ((n < 10000 ∨ 1000000 < n) → exec (.intervalWrite fn c v) s = refused s c)) ∧
  (∀ fn c k v s x, own s fn c x → 1 ≤ k → k ≤ 5 → let lo := v.toNat % 65536
    let hi := v.toNat / 65536
    let within := lo ≤ hi ∧ [1, 1, 0, 0, 0].getD (k - 1) 0 ≤ lo ∧ hi ≤ [32, 384, 16, 64, 24].getD (k - 1) 0
    (within → exec (.actuatorLimitWrite fn c k v) s = put s c fun l => { l with act := l.act.set (k - 1) (lo, hi) }) ∧ (¬ within → exec (.actuatorLimitWrite fn c k v) s = refused s c)) ∧
  (∀ fn c v s x, own s fn c x → let n := v.toNat
    let at_ (a b : Nat) : Nat := n / 2 ^ a % 2 ^ b
    exec (.btFieldWrite fn c 0x00 v) s = put s c (fun l => { l with target := at_ 0 16, ontime := decide (at_ 16 1 = 1) }) ∧
    exec (.btFieldWrite fn c 0x08 v) s = put s c (fun l => { l with kp := at_ 0 16, ki := at_ 16 16 }) ∧
    exec (.btFieldWrite fn c 0x0C v) s = (if at_ 0 16 ≤ 32767 ∧ 1 ≤ at_ 16 4 then put s c fun l => { l with ilim := at_ 0 16, smax := at_ 16 4 } else refused s c) ∧
    exec (.btFieldWrite fn c 0x10 v) s = (if 1 ≤ at_ 7 8 ∧ at_ 0 7 + at_ 7 8 ≤ 128 then put s c fun l => { l with mFirst := at_ 0 7, mN := at_ 7 8, mEn := decide (at_ 15 1 = 1) } else refused s c) ∧
    exec (.btFieldWrite fn c 0x18 v) s = put s c (fun l => { l with shed := l.shed && decide (at_ 9 1 = 0), refused := l.refused && decide (at_ 10 1 = 0) }) ∧
    exec (.btFieldWrite fn c 0x14 v) s = .next s ∧ exec (.btFieldWrite fn c 0x38 v) s = put s c fun l => { l with laten := n }) ∧
  (∀ t s, s.pkg.chip ≠ 0 → s.reachable 0 = true → ∃ u, exec (.timebaseSync t) s = .next u ∧ u.now ≤ t.toNat + 4 ∧ t.toNat ≤ u.now + 4 ∧ u.mem = s.mem ∧ u.stands = s.stands ∧ u.reqs = s.reqs ∧ u.ctxs = s.ctxs) ∧
  (∀ f s, exec (.guestTimeApply f) s = .next { s with fns := Store.put f { s.fn f with gOfsLive := (s.fn f).gOfs, gMulLive := (s.fn f).gMul } s.fns })

/-- Beats, loops and the Umpire. The model's choices in it: log entries 61, 62, 63, 64, 76, 92, 99. -/
def Obligations.BeatLoops : Prop := BoundariesAndMergingClaim ∧ ControllerStepClaim ∧ UmpireClaim ∧ LoopRegistersClaim

/-! Reports, interrupts and resets -/

/-- A write of a cause-table entry clears PEND and AGAIN by ones and writes MASK; the group's vector is sent when its bit rises, and again when a clear of PEND leaves it at 1. The bit is 1 while some entry of the group is pending and not masked (R404). HQ_VINJ, for an enabled virtual function, sends its vector, or leaves it pending in a masked entry (R406). EN rising empties a report ring; a record goes to the slot of its count with the phase of its lap, unless the ring is full (R402). -/
def ReportsClaim : Prop :=
  (∀ i v s, let e := s.causeEnt i
    let n := v.toNat
    ∃ u, exec (.causeEntryClear i v) s = .next u ∧ u = { s with regs := { s.regs with cause := u.regs.cause }, outbox := u.outbox } ∧ (∀ j, j ≠ i → u.causeEnt j = s.causeEnt j) ∧
      u.causeEnt i = { e with pend := e.pend && decide (n % 2 = 0), mask := decide (n / 2 % 2 = 1), again := e.again && decide (n / 4 % 2 = 0) } ∧
      u.outbox = s.outbox ++ if u.csum (i / 64) = true ∧ (s.csum (i / 64) = false ∨ (n % 2 = 1 ∧ e.pend = true)) then [Out.msix 0 (i / 64)] else []) ∧
  (∀ (s : State) g, (s.regs.cause.map fun e => e.1).Pairwise (· < ·) → (s.csum g = true ↔ ∃ i, i / 64 = g ∧ (s.causeEnt i).pend = true ∧ (s.causeEnt i).mask = false)) ∧
  (∀ v s, let n := v.toNat
    let fn := n / 256 % 32
    let vec := n % 64
    (n / 2 ^ 31 % 2 = 0 ∨ fn = 0 ∨ s.regs.vfEnable = false ∨ s.regs.numVfs < fn → exec (.vfInterruptInject v) s = .next s) ∧
    (n / 2 ^ 31 % 2 = 1 → fn ≠ 0 → s.regs.vfEnable = true → fn ≤ s.regs.numVfs →
      (∀ a d p, Store.find (64 * fn + vec) s.regs.msix = some (a, d, true, p) → exec (.vfInterruptInject v) s = .next { s with regs := { s.regs with msix := Store.put (64 * fn + vec) (a, d, true, true) s.regs.msix } }) ∧
      (∀ e, Store.find (64 * fn + vec) s.regs.msix = e → (∀ a d p, e ≠ some (a, d, true, p)) → exec (.vfInterruptInject v) s = .next { s with outbox := s.outbox ++ [.msix fn vec] }))) ∧
  (∀ fn s, exec (.reportRingEnable fn) s = .next { s with fns := Store.put fn { s.fn fn with rrEn := true, rrTail := 0, rrHead := 0 } s.fns }) ∧
  (∀ fn r (s : State), let f := s.fn fn
    let used := (f.rrTail + 2 ^ 32 - f.rrHead) % 2 ^ 32
    (f.ringOn = true → used < 2 ^ f.rrLog2 → ∃ b, s.report fn r = { s with fns := Store.put fn { f with rrTail := (f.rrTail + 1) % 2 ^ 32 } s.fns, outbox := s.outbox ++ [.record fn (f.rrBase + 64 * (f.rrTail % 2 ^ f.rrLog2)) b] } ∧
      b.length = 64 ∧ ofBytes (b.drop 60) = 1 - f.rrTail / 2 ^ f.rrLog2 % 2) ∧
    (f.ringOn = true → 2 ^ f.rrLog2 ≤ used → s.report fn r = { s with fns := Store.put fn { f with rrDropped := min (f.rrDropped + 1) 0xFFFF } s.fns }) ∧
    ((f.rrEn = false ∨ f.rrLog2 < 4 ∨ 16 < f.rrLog2 ∨ f.rrBase % 4096 ≠ 0) → s.report fn r = s))

/-- A GO of HQ_PRST while none runs, the trace off, stops the partition's queues, kills its launches and starts the wait for its requests; while BUSY is 1 it is ignored; while a checkpoint runs it waits. RESET_DRAIN_END, once the requests are answered or the time is over, clears what the partition's contexts held, and the contexts, and sets the partition's entry of the cause table (R408). -/
def PartitionResetClaim : Prop :=
  let of (s : State) (p c : Nat) : Prop := ∃ e ∈ s.ctxs, e.1 = c ∧ e.2.part = p
  (∀ v s, s.resetBusy = true → exec (.partitionReset v) s = .next s) ∧
  (∀ v s, s.resetBusy = false → (v.toNat / 2 ^ 31 % 2 = 0 → exec (.partitionReset v) s = .next { s with regs := { s.regs with prst := v.toNat % 32, prstBusy := false } }) ∧
    (v.toNat / 2 ^ 31 % 2 = 1 → s.regs.ckBusy = true → exec (.partitionReset v) s = .next { s with regs := { s.regs with prst := v.toNat % 32, prstBusy := true } })) ∧
  (∀ v s, let p := v.toNat % 32
    s.resetBusy = false → v.toNat / 2 ^ 31 % 2 = 1 → s.regs.ckBusy = false → bits s.regs.trCtl.toNat 5 1 = 0 → (s.launches.map fun e => e.1).Pairwise (· < ·) →
    ∃ u, exec (.partitionReset v) s = .next u ∧ u.regs.prst = p ∧ u.regs.prstBusy = true ∧ u.part p = { s.part p with resetAt := some s.now } ∧ (∀ q, q ≠ p → u.part q = s.part q) ∧ u.mem = s.mem ∧ u.ctxs = s.ctxs ∧
      (∀ k l, s.launch k = some l → (of s p l.ctx → u.launch k = none ∧ (u.causeEnt (0x400 + l.ctx)).pend = true) ∧ (¬ of s p l.ctx → u.launch k = some l)) ∧
      (∀ dq, (of s p (s.queue dq).ctx → (u.queue dq).en = false) ∧ (¬ of s p (s.queue dq).ctx → u.queue dq = s.queue dq)) ∧
      (∀ e ∈ s.stands, e ∈ u.stands ↔ ∀ l, s.launch e.2.launch = some l → ¬ of s p l.ctx)) ∧
  (∀ p s, (s.part p).resetAt = none → exec (.resetDrainEnd p) s = .next s) ∧
  (∀ p s t, (s.part p).resetAt = some t → s.regs.flr = [] → (∃ r ∈ s.reqs, of s p r.2.ctx) → s.now < t + max 100000 s.regs.rstto → exec (.resetDrainEnd p) s = .next s) ∧
  (∀ p s t, MemOk s → (s.ctxs.map fun e => e.1).Pairwise (· < ·) → (s.part p).resetAt = some t → s.regs.flr = [] → ((∀ r ∈ s.reqs, ¬ of s p r.2.ctx) ∨ t + max 100000 s.regs.rstto ≤ s.now) →
    ∃ u, exec (.resetDrainEnd p) s = .next u ∧ u.part p = { s.part p with resetAt := none, armed := false } ∧ u.regs.prstBusy = false ∧ u.mem = s.mem ∧ u.launches = s.launches ∧ u.stands = s.stands ∧
      (∀ c, (of s p c → u.ctx c = none) ∧ (¬ of s p c → (u.ctx c).isSome = (s.ctx c).isSome)) ∧ (u.causeEnt (0x500 + p)).pend = true ∧
      (∀ r, r ∈ u.reqs ↔ r ∈ s.reqs ∧ ¬ of s p r.2.ctx) ∧ (∀ e ∈ s.ctxs, e.2.part = p → (∀ l ∈ u.l2, l.2.tag ≠ e.2.ctag) ∧ (∀ t ∈ u.tlb, t.tag ≠ e.2.ctag) ∧ (∀ o ∈ u.owners, o.tag ≠ e.2.ctag)) ∧
      (∀ a, memGet u.dsh a = if a / 2 ^ 28 = p then 0 else memGet s.dsh a) ∧ ∀ e, e ∈ u.lent ↔ e ∈ s.lent ∧ e.2 ≠ p)

/-- An FLR of an enabled virtual function resets its partitions in ascending order, then ends: its queues and ring stop, its guest time is reset, entry 0x520 + f is set; a function in reset already, or not enabled, is left alone. Clearing VF Enable does so to each enabled function in turn; setting it brings functions up without queues (R410, R411). -/
def FunctionResetsClaim : Prop :=
  let parts (s : State) (f : Nat) : List Nat := (List.range 32).filter fun p => decide ((s.part p).fn = f)
  let on (s : State) (f : Nat) : Prop := s.regs.vfEnable = true ∧ 1 ≤ f ∧ f ≤ s.regs.numVfs ∧ f < 32
  (∀ f s, (¬ on s f ∨ ∃ e ∈ s.regs.flr, e.1 = f) → exec (.vfFlr f) s = .next s) ∧
  (∀ f s, on s f → (∀ e ∈ s.regs.flr, e.1 ≠ f) → (s.anyReset = true ∨ s.regs.flr ≠ []) → ∃ a, exec (.vfFlr f) s = .next { s with regs := { s.regs with flr := s.regs.flr ++ [(f, parts s f)], flrAt := a } }) ∧
  (∀ f s p ps, on s f → s.regs.flr = [] → s.anyReset = false → s.regs.prstBusy = false → s.regs.ckBusy = false → parts s f = p :: ps →
    ∃ u, exec (.vfFlr f) s = .next u ∧ u.regs.flr = [(f, p :: ps)] ∧ u.regs.flrAt = s.now ∧ (u.part p).resetAt = some s.now ∧ ∀ q, q ≠ p → u.part q = s.part q) ∧
  (∀ f s, on s f → s.regs.flr = [] → s.anyReset = false → s.regs.prstBusy = false → s.regs.ckBusy = false → s.regs.vfOff = false → parts s f = [] →
    ∃ u, exec (.vfFlr f) s = .next u ∧ u.regs.flr = [] ∧ (u.causeEnt (0x520 + f)).pend = true ∧ u.fn f = { s.fn f with rrEn := false, gOfs := 0, gMul := 0x01000000, gOfsLive := 0, gMulLive := 0x01000000 } ∧
      u.queues = s.queues.map (fun e => (e.1, if e.2.fn = some f then { e.2 with en := false, watch := none, waitw := none } else e.2)) ∧ u.mem = s.mem ∧ u.launches = s.launches ∧ u.stands = s.stands ∧ u.ctxs = s.ctxs) ∧
  (∀ s, s.regs.vfEnable = false → exec .vfDisable s = .next s) ∧
  (∀ s, s.regs.vfEnable = true → ∃ u, exec .vfDisable s = .next u ∧ ∀ f, ¬ on u f) ∧
  (∀ s, s.regs.vfEnable = true → (s.anyReset = true ∨ s.regs.flr ≠ []) → ∃ (a : Nat) (fs : List Nat), exec .vfDisable s = .next { s with regs := { s.regs with flr := s.regs.flr ++ fs.map (fun f => (f, parts s f)), flrAt := a, vfEnable := false, vfOff := true } } ∧
    fs.Pairwise (· < ·) ∧ ∀ f, f ∈ fs ↔ on s f ∧ ∀ e ∈ s.regs.flr, e.1 ≠ f) ∧
  (∀ n s, s.regs.vfEnable = false → s.regs.vfOff = false → exec (.vfEnable n) s = .next { s with regs := { s.regs with vfEnable := true, numVfs := min n 31 }, queues := s.queues.map fun e => (e.1, if e.2.fn = some 0 then e.2 else { e.2 with fn := none, en := false }) })

/-- A conventional reset of the physical function puts everything at its reset value but what the package keeps, and bring-up follows it: READY rises only when the firmware verifies and its version is not below the fused counter. An FLR keeps device memory, the chip number and the package, and nothing else of the function's state (R410, R433, R437). -/
def PhysicalResetClaim : Prop :=
  let kept (s u : State) (p : Pkg) : State := { State.reset with pkg := p, tier := s.tier, outbox := s.outbox, fresh := s.fresh, seq := s.seq, turn := s.turn, inbox := u.inbox }
  let booted (s : State) (p : Pkg) : Prop := p.image = s.pkg.staged.getD s.pkg.image ∧ p.staged = none ∧ p.fused = s.pkg.fused ∧ p.fenced = s.pkg.fenced ∧ p.chip = 0 ∧ p.routes = [] ∧ p.frozen = false ∧ p.off = false ∧
    (p.fwok = true ↔ p.image.good = true ∧ p.fused ≤ p.image.svn)
  (∀ s, ∃ u, exec (.pfReset true) s = .next u ∧ u = kept s u u.pkg ∧ u.inbox = [.bringUp] ∧ booted s u.pkg ∧ u.pkg.ready = false) ∧
  (∀ s, ∃ u, exec .bringUp s = .next u ∧ u = kept s u u.pkg ∧ u.inbox = [] ∧ booted s u.pkg ∧ u.pkg.ready = u.pkg.fwok) ∧
  (∀ s, exec (.pfReset false) s = .next { State.reset with pkg := { s.pkg with routes := [] }, now := s.now, fort := s.fort, forts := s.forts, mem := s.mem, tier := s.tier, poison := s.poison, outbox := s.outbox, fresh := s.fresh, seq := s.seq, turn := s.turn })

/-- Reports, interrupts and resets. The model's choices in it: log entries 9, 44, 71, 72, 73, 74, 75, 94, 99. -/
def Obligations.ReportsAndResets : Prop := ReportsClaim ∧ PartitionResetClaim ∧ FunctionResetsClaim ∧ PhysicalResetClaim

/-! Links, expanders and checkpoints -/

/-- A link that goes down carries nothing, sets entry 0x546 and answers every open SEND to a chip that it cuts off with unreachable; an access to that chip takes peer-error. A trained link is up with its lanes. An expander that goes down sets entry 0x547 and makes every landing through its port take tier-error, until it is up again, with as much memory as the package's maximum leaves it (R3, R417, R419, R432). -/
def LinksAndExpandersClaim : Prop :=
  let port (s : State) (p : Nat) (x : Bool × Nat) : State := { s with pkg := { s.pkg with ports := s.pkg.ports.set p x } }
  (∀ n s lanes rep, n < 16 → Store.find n s.pkg.links = some (true, lanes, rep) →
    ∃ u, exec (.linkDown n) s = .next u ∧ u.pkg = { s.pkg with links := Store.put n (false, 0, rep) s.pkg.links } ∧ (u.causeEnt 0x546).pend = true ∧ (s.rounds = [] → u.mem = s.mem ∧ u.reqs = s.reqs ∧ u.stands = s.stands) ∧
      ∀ id w m a b, s.rounds = [] → Store.find id s.walks = some w → w.kind = .send m a b → w.status = none → Store.find id u.walks = some (if u.reachable m.chip then w else { w with status := some 3 })) ∧
  (∀ (s : State) c x np need, region x = 3 → s.reachable (x / 2 ^ 45 % 128) = false → s.land c x np need = .error 0x1C) ∧
  (∀ n lanes s, n < 16 → (4, n) ∉ s.pkg.fenced → ∃ rep, exec (.linkUp n lanes) s = .next { s with pkg := { s.pkg with links := Store.put n (true, min lanes 8, rep) s.pkg.links } } ∧ ∀ l, Store.find n s.pkg.links = some l → rep = l.2.2) ∧
  (∀ p s, p < 4 → s.pkg.ports.length = 4 → ∃ u, exec (.expanderDown p) s = .next u ∧ u.pkg = (port s p (false, (s.pkg.ports.getD p (false, 0)).2)).pkg ∧ (u.causeEnt 0x547).pend = true ∧ u.mem = s.mem ∧ u.tier = s.tier ∧ u.reqs = s.reqs ∧ u.stands = s.stands ∧
    ∀ c x need l, region x = 1 → stackOf x / 2 = p → u.translate c x = some l → u.land c x false need = .error 0x1A) ∧
  (∀ p size s, p < 4 → exec (.expanderUp p size) s = .next (port s p (true, min size (4096 * 10 ^ 9 - ((s.pkg.ports.eraseIdx p).map fun x => x.2).sum))))

/-- A GO of a checkpoint is refused while one or a reset runs, when a port is down or a range does not fit, or, for a restore, with LIVE or a context; else it is busy. Its end reports: a save has put every byte of device memory at its place in the tier, and memory is unchanged; a restore has put every byte back and dropped every copy; one that stops on an error leaves each line whole (R420 to R422). -/
def CheckpointsClaim : Prop :=
  let refused (s : State) : Prop := s.regs.ckBusy = true ∨ s.resetBusy = true ∨ (∃ p ∈ s.pkg.ports, p.1 = false) ∨ ∃ d, d < 4 ∧ (s.pkg.ports.getD d (false, 0)).2 < s.ckBase d + 192 * 2 ^ 30
  let live (v : W) : Bool := decide (v.toNat / 4 % 2 = 1)
  let ctl (v : W) (dir : Nat) : W := BitVec.ofNat 32 (dir + 4 * (v.toNat / 4 % 2))
  let no (s : State) (c : W) : State := { s with regs := { s.regs with ckResult := 1, ckCtl := c } }
  let go (s : State) (c : W) (restore lv : Bool) : State := { s with regs := { s.regs with ckCtl := c, ckBusy := true, ckRestore := restore, ckLive := some lv, ckMib := 0 } }
  let tierAt (s : State) (a : Nat) : Byte := (Store.find a s.tier).getD (Config.tierByte a)
  let ends (s u : State) (err : Nat) : Prop := u.regs.ckBusy = false ∧ u.regs.ckResult = err ∧ (u.causeEnt 0x540).pend = true ∧ u.ctxs = s.ctxs ∧ u.reqs = s.reqs ∧ u.launches = s.launches
  let idle (s : State) : Prop := s.regs.prstBusy = false ∧ s.regs.flr = []
  (∀ v s, refused s → exec (.checkpointSave v) s = .next (no s (ctl v 0))) ∧
  (∀ v s, ¬ refused s → live v = true → exec (.checkpointSave v) s = .next (go s (ctl v 0) false true)) ∧
  (∀ v s, ¬ refused s → live v = false → exec (.checkpointSave v) s = .next { go s (ctl v 0) false false with ctxs := s.ctxs.map fun c => (c.1, { c.2 with loop := { c.2.loop with active := false } }) }) ∧
  (∀ v s, (refused s ∨ live v = true ∨ s.ctxs ≠ []) → exec (.checkpointRestore v) s = .next (no s (ctl v 2))) ∧
  (∀ v s, ¬ refused s → live v = false → s.ctxs = [] → exec (.checkpointRestore v) s = .next (go s (ctl v 2) true true)) ∧
  (∀ err s, s.regs.ckBusy = false → exec (.checkpointDone err) s = .next s) ∧
  (∀ s, idle s → s.regs.ckBusy = true → s.regs.ckRestore = false → (s.regs.ckLive ≠ some false ∨ s.ckQuiet = true) → (∀ d, d < 4 → s.ckBase d + 192 * 2 ^ 30 ≤ 2 ^ 56) →
    ∃ u, exec (.checkpointDone 0) s = .next u ∧ ends s u 0 ∧ u.regs.ckMib = 786432 ∧ u.mem = s.mem ∧ ∀ a, a < devEnd → tierAt u (s.ckAddr a) = memGet s.mem a) ∧
  (∀ s, idle s → MemOk s → s.regs.ckBusy = true → s.regs.ckRestore = true → s.regs.ckLive = some true →
    ∃ u, exec (.checkpointDone 0) s = .next u ∧ ends s u 0 ∧ u.regs.ckMib = 786432 ∧ u.tier = s.tier ∧ u.l1 = [] ∧ u.sec = [] ∧ u.l2 = [] ∧ (∀ a, a < devEnd → memGet u.mem a = tierAt s (s.ckAddr a)) ∧ ∀ a, devEnd ≤ a → memGet u.mem a = memGet s.mem a) ∧
  (∀ err s, (err = 2 ∨ err = 3) → idle s → MemOk s → s.regs.ckBusy = true → ∃ u, exec (.checkpointDone err) s = .next u ∧ ends s u err ∧ (s.regs.ckRestore = false → u.mem = s.mem) ∧
    (s.regs.ckRestore = true → ∀ n, n < devEnd / 128 → (∀ i, i < 128 → memGet u.mem (128 * n + i) = memGet s.mem (128 * n + i)) ∨ ∀ i, i < 128 → memGet u.mem (128 * n + i) = tierAt s (s.ckAddr (128 * n + i))))

/-- Links, expanders and checkpoints. The model's choices in it: log entries 76, 77, 91, 99, 121. -/
def Obligations.LinksAndCheckpoints : Prop := LinksAndExpandersClaim ∧ CheckpointsClaim

/-! Accesses of the host and of peers -/

/-- A host write puts its bytes into device memory and clears the poison of the lines it covers whole; a host read answers with the bytes, poisoned when a line of theirs is (R325, R431). -/
def HostMemoryClaim : Prop :=
  (∀ pa bs s, MemOk s → pa + bs.length ≤ devEnd → ∃ u, exec (.hostWrite pa bs) s = .next u ∧ Wrote s u pa bs ∧ SameStands s u ∧ u.reqs = s.reqs ∧ u.ops = s.ops ∧ u.ctxs = s.ctxs ∧ u.regs = s.regs ∧
    ∀ l, l ∈ u.poison ↔ l ∈ s.poison ∧ ¬ (pa ≤ 128 * l ∧ 128 * l + 128 ≤ pa + bs.length)) ∧
  (∀ pa n s, 0 < n → pa + n ≤ devEnd → ∃ bad, exec (.hostRead pa n) s = .next { s with outbox := s.outbox ++ [.hostData (memRead s.mem pa n) bad] } ∧ (bad = true ↔ ∃ l ∈ s.poison, pa / 128 ≤ l ∧ l ≤ (pa + n - 1) / 128))

/-- A peer's access of one line is performed here in the context of the same number, and answered: a write, a read, an atomic; a context that does not exist is not present, one in reset is an aborted completion, and a landing fault answers with its cause (R219, R325, R409). -/
def PeersClaim : Prop :=
  let at_ (r : PeerReq) : Nat := r.off % 2 ^ 45
  let answers (s : State) (r : PeerReq) (a : List Nat) : State := { s with outbox := s.outbox ++ [.flit r.chip 20 a] }
  let here (s : State) (r : PeerReq) (n : Nat) : Prop := (s.ctx r.ctx).isSome = true ∧ (s.part (s.partOf r.ctx)).resetAt = none ∧ at_ r % 128 + n ≤ 128
  let done (s u : State) (r : PeerReq) (a : List Nat) : Prop := u.outbox = s.outbox ++ [.flit r.chip 20 a] ∧ SameStands s u ∧ u.reqs = s.reqs ∧ u.ctxs = s.ctxs
  (∀ r s, s.ctx r.ctx = none → exec (.peerAccess r) s = .next (answers s r [1, 0x15])) ∧
  (∀ r s, (s.ctx r.ctx).isSome = true → (s.part (s.partOf r.ctx)).resetAt.isSome = true → exec (.peerAccess r) s = .next (answers s r [1, 0x1D])) ∧
  (∀ r s b h, MemOk s → r.write = some b → here s r b.length → s.land r.ctx (at_ r) true needWr = .ok h → h.sp = .dev → ∃ u, exec (.peerAccess r) s = .next u ∧ done s u r [0] ∧ Wrote s u h.pa b) ∧
  (∀ r s b e, r.write = some b → here s r b.length → s.land r.ctx (at_ r) true needWr = .error e → exec (.peerAccess r) s = .next (answers { s with fresh := s.fresh + 1 } r [1, e])) ∧
  (∀ r s h, r.write = none → r.atom = none → here s r r.n → s.landUse r.ctx (at_ r) true needRd = .ok h → h.sp = .dev →
    ∃ u, exec (.peerAccess r) s = .next u ∧ done s u r (0 :: (memRead s.mem h.pa r.n).map fun b => b.toNat) ∧ u.mem = s.mem) ∧
  (∀ r s e, r.write = none → r.atom = none → here s r r.n → s.landUse r.ctx (at_ r) true needRd = .error e → exec (.peerAccess r) s = .next (answers { s with fresh := s.fresh + 1 } r [1, e])) ∧
  (∀ r s m d c k h, MemOk s → r.write = none → r.atom = some (m, d, c) → peerKind m = some k → here s r (max (k.width d.length) d.length) → s.landUse r.ctx (at_ r) true k.need = .ok h → h.sp = .dev →
    let old := memRead s.mem h.pa (k.width d.length)
    let res := laneOp k old (rlane 0 (at_ r) d c)
    ∃ u, exec (.peerAccess r) s = .next u ∧ done s u r (0 :: res.2.map fun b => b.toNat) ∧ (match res.1 with | some b => Wrote s u h.pa b | none => u.mem = s.mem))

/-- A write to a register that is a step of its own is that step; the others hold the word that is written. A write by a function that is not enabled, or before READY, or at an offset that is no multiple of 4, does nothing; nor does a write of a queue that the function has not or whose context's partition is in reset; a virtual function does not reach the registers of the physical one (R7, R34, R58 to R61, R94, R402, R404 to R406, R437). -/
def RegisterWritesClaim : Prop :=
  let answers (s : State) (who : Nat) : Prop := s.pkg.ready = true ∧ (who = 0 ∨ who = 32 ∨ (s.regs.vfEnable = true ∧ 1 ≤ who ∧ who ≤ s.regs.numVfs ∧ who < 32))
  let fnOf (who : Nat) : Nat := if who = 32 then 0 else who
  let bitOf (v : W) (n : Nat) : Bool := decide (v.toNat / 2 ^ n % 2 = 1)
  let when (b : Bool) (e : Ev) : List Ev := if b then [e] else []
  let posts (s : State) (who off : Nat) (v : W) (es : List Ev) : Prop := exec (.registerWrite who off v) s = .next { s with inbox := es ++ s.inbox }
  (∀ who off v s, (¬ answers s who ∨ off % 4 ≠ 0) → exec (.registerWrite who off v) s = .next s) ∧
  (∀ who off v s, 1 ≤ who → who < 32 → (off < 0xA0000 ∨ (0xB0000 ≤ off ∧ off < 0xC0000) ∨ (0xD0000 ≤ off ∧ off < 0xF0000)) → exec (.registerWrite who off v) s = .next s) ∧
  (∀ who c v s, answers s who → c < 256 →
    (∀ k, k < 5 → posts s who (0xC4000 + 32 * c + 4 * k) v [.actuatorLimitWrite (fnOf who) c (k + 1) v]) ∧ posts s who (0xC0004 + 64 * c) v [.intervalWrite (fnOf who) c v] ∧
    posts s who (0xC0014 + 64 * c) v (when (bitOf v 1) (.loopClear (fnOf who) c) ++ when (bitOf v 0) (.loopSave (fnOf who) c) ++ when (!(bitOf v 0) && !(bitOf v 1)) (.btFieldWrite (fnOf who) c 0x14 v)) ∧ ∀ r ∈ [0x00, 0x08, 0x0C, 0x10, 0x18, 0x38], posts s who (0xC0000 + 64 * c + r) v [.btFieldWrite (fnOf who) c r v]) ∧
  (∀ who q r v s, q < 512 → r < 64 → (s.queueBy (fnOf who) q = none ∨ ∃ dq, s.queueBy (fnOf who) q = some dq ∧ ∃ x, s.ctx (s.queue dq).ctx = some x ∧ (s.part x.part).resetAt.isSome = true) → exec (.registerWrite who (0x100000 + 64 * q + r) v) s = .next s) ∧
  (∀ who q dq v s, answers s who → q < 512 → s.queueBy (fnOf who) q = some dq → s.queueShut (s.queue dq) = false → let f := fnOf who
    let x := s.queue dq
    let sets (r : Nat) (y : Queue) : Prop := exec (.registerWrite who (0x100000 + 64 * q + r) v) s = .next (if x.en then s else { s with queues := Store.put dq y s.queues })
    posts s who (0x100018 + 64 * q) v [.qtailWrite f q v] ∧
    posts s who (0x10000C + 64 * q) v (when (bitOf v 0 && !x.en) (.queueEnable f q) ++ when (!(bitOf v 0) && x.en) (.queueDisable f q) ++ when (bitOf v 1) (if bitOf v 2 then .queueRestartSkip f q else .queueRestart f q) ++ when (bitOf v 3) (.headWritebackRetry f q)) ∧
    sets 0x00 { x with base := x.base / 2 ^ 32 * 2 ^ 32 + v.toNat } ∧ sets 0x04 { x with base := x.base % 2 ^ 32 + v.toNat * 2 ^ 32 } ∧
    sets 0x08 { x with log2 := v.toNat % 32, ctx := v.toNat / 32 % 256, prio := v.toNat / 2 ^ 13 % 4, devdb := bitOf v 15 } ∧ sets 0x14 { x with hwb := x.hwb % 2 ^ 32 + v.toNat * 2 ^ 32 } ∧
    exec (.registerWrite who (0x100028 + 64 * q) v) s = .next { s with queues := Store.put dq { x with rto := v.toNat } s.queues }) ∧
  (∀ who v s, answers s who → let f := fnOf who
    let x := s.fn f
    let c := v.toNat % 256
    let commands (op : Nat) (e : Ev) : Prop := v.toNat / 256 % 4 = op → exec (.registerWrite who 0xF0008 v) s = .next { s with fns := Store.put f { x with ctxCmd := BitVec.ofNat 32 (v.toNat % 1024), ctxBusy := true } s.fns, inbox := e :: s.inbox ++ [.ctxCommandDone f] }
    (x.ctxBusy = false → bitOf v 31 = true → commands 1 (.ctxCreate f c) ∧ commands 2 (.ctxReload f c) ∧ commands 3 (.ctxDestroy f c) ∧ commands 0 (.ctxCmdNone f c)) ∧ (x.ctxBusy = true → exec (.registerWrite who 0xF0008 v) s = .next s) ∧
    (x.rrEn = true → bitOf v 5 = false → exec (.registerWrite who 0xF0108 v) s = .next { s with fns := Store.put f { x with rrEn := false } s.fns }) ∧
    (x.rrEn = false → bitOf v 5 = true → exec (.registerWrite who 0xF0108 v) s = .next { s with fns := Store.put f { x with rrLog2 := v.toNat % 32 } s.fns, inbox := .reportRingEnable f :: s.inbox }) ∧
    (∀ off ∈ [0xF0000, 0xF0004, 0xF010C, 0xA0000, 0xA0004] ++ (if x.rrEn then [] else [0xF0100, 0xF0104]), ∃ u, exec (.registerWrite who off v) s = .next u ∧ u.readReg who off = v ∧ u = { s with fns := u.fns } ∧ ∀ g, g ≠ f → u.fn g = s.fn g)) ∧
  (∀ v s, s.pkg.ready = true → (∀ p, p < 32 → (∀ r ∈ [0, 4, 8, 12, 16], posts s 0 (0xE0000 + 32 * p + r) v [.partitionWrite p r v]) ∧ posts s 0 (0x69000 + 4 * p) v [.debugArm p v]) ∧ (∀ i, i < 4096 → posts s 0 (0x90000 + 4 * i) v [.causeEntryClear i v]) ∧
    posts s 0 0xE0C00 v [.partitionReset v] ∧ posts s 0 0x94010 v [.vfInterruptInject v] ∧ posts s 0 0x68000 v (when (bitOf v 0) .freeze) ∧ (∀ f, f < 32 → posts s 0 (0xE100C + 16 * f) v (when (bitOf v 0) (.guestTimeApply f))) ∧
    (bitOf v 0 = true → posts s 0 0x70020 v [if bitOf v 1 then .checkpointRestore v else .checkpointSave v]) ∧
    ∀ off ∈ [0xE0C04, 0x68104, 0x6A000], ∃ u, exec (.registerWrite 0 off v) s = .next u ∧ u.readReg 0 off = v ∧ u = { s with regs := u.regs })

/-- Accesses of the host and of peers. The model's choices in it: log entries 82, 89, 99, 113, 114. -/
def Obligations.HostAndPeers : Prop := HostMemoryClaim ∧ PeersClaim ∧ RegisterWritesClaim

/-! Errors, fences, firmware, power and heat -/

/-- A corrected error is counted. An uncorrectable one poisons a line, whose consumer takes poison; in a stand's registers it is raised in the thread, and in a network interface in a thread that executes SEND, TREE or TREEW or waits in TREEW; in a team's state it kills the launch or suspends the engine's operation, in a copy it parks its request, in a core's control state it kills what has state there; contained, it does nothing (R356, R431). -/
def ErrorsClaim : Prop :=
  let raised (s : State) (place : EccPlace) (g slot lane cause : Nat) (uses : Option Squad → Thread → Prop) : Prop := ∀ st l, slot < 32 → lane < 32 → s.stand (standKey g slot) = some st → s.launch st.launch = some l →
    let key := standKey g slot
    let left (hdl : Bool) (u : State) : Prop := ∃ walks rounds, u = { s with walks := walks, rounds := rounds } ∧ (∀ w, w ∈ walks ↔ w ∈ s.walks ∧ ¬ (w.2.g = g ∧ w.2.slot = slot ∧ w.2.hdl = hdl ∧ w.2.lane = lane)) ∧ (s.rounds = [] → rounds = [])
    ((st.t true lane).st = .exited → (st.t false lane).st ≠ .exited → let t := st.t false lane
      let q := s.squadOf key false lane
      let p : BitVec 52 × Nat := match q with | some q => (q.pc, q.k) | none => (t.pc, t.slot)
      let d : Delivery := { cause := cause, kind := 0, acc := 0, ghost := false, lanes := [{ lane := lane, pkt := l.pkt p.1, slot := p.2, addr := 0, retPc := p.1, retSlot := p.2 }] }
      (uses q t → ∃ u, left false u ∧ exec (.eccUncorrectable place) s = .next (((u.dropLanes key false (bit lane)).onStand key fun st => { st.onT false lane fun t => { t with st := .parked .delivery } with dl := st.dl ++ [d] }).tryDeliver key)) ∧
      (¬ uses q t → exec (.eccUncorrectable place) s = .next s)) ∧
    ((st.t true lane).st ≠ .exited → uses (s.squadOf key true lane) (st.t true lane) → ∃ t u launches, left true u ∧ exec (.eccUncorrectable place) s = .next t ∧ SameButCounters { u.dropLanes key true (bit lane) with launches := launches, inbox := .kill st.launch 0x06 :: s.inbox } t) ∧
    ((st.t true lane).st = .exited → (st.t false lane).st = .exited → exec (.eccUncorrectable place) s = .next s)
  let network (q : Option Squad) (t : Thread) : Prop := (q = none ∧ t.st = .parked .treew) ∨ ∃ w x n, q = some w ∧ decode (w.ws.drop w.k) = some (x, n) ∧ ((∃ y, x = .send y) ∨ (∃ y, x = .tree y) ∨ ∃ y, x = .treew y)
  (∀ s, ∃ u, exec .eccCorrected s = .next u ∧ u.pkg = { s.pkg with ecc := s.pkg.ecc + 1 } ∧ u.mem = s.mem ∧ u.stands = s.stands ∧ u.reqs = s.reqs ∧ (u.regs = s.regs ∨ (u.causeEnt 0x541).pend = true)) ∧
  (∀ k s, ∃ ps, exec (.eccUncorrectable (.line k)) s = .next { s with poison := ps } ∧ ∀ l, l ∈ ps ↔ l = k ∨ l ∈ s.poison) ∧
  (∀ (s : State) c x np need h, s.land c x np need = .ok h → homeKey h.sp h.pa ∈ s.poison → s.landUse c x np need = .error 0x17) ∧
  (∀ g slot lane s, raised s (.stand g slot lane) g slot lane 0x19 (fun _ _ => True) ∧ raised s (.network g slot lane) g slot lane 0x2E network) ∧
  (∀ id s t, s.team id = some t → exec (.eccUncorrectable (.team id)) s = .next { s with inbox := s.inbox ++ [.kill t.launch 0x2B] } ∧ exec (.eccUncorrectable (.barrier id)) s = .next { s with inbox := s.inbox ++ [.kill t.launch 0x2F] }) ∧
  (∀ id s t o rest, s.team id = some t → t.queue = o :: rest → ∃ f : BFault, exec (.eccUncorrectable (.matrix id)) s = .next (s.onTeam id fun t => { t with queue := { o with bad := some f } :: rest }) ∧ f.cause = 0x2C ∧ f.pkt = o.pkt ∧ f.pslot = o.pslot ∧ f.told = []) ∧
  (∀ id s c, Store.find id s.cpys = some c → ∃ r, exec (.eccUncorrectable (.copy id)) s = .next { s with cpys := Store.put id { c with moves := [], bad := true } s.cpys, reqs := s.reqs ++ [(s.seq, r)], seq := s.seq + 1 } ∧
    r.cmd = some id ∧ r.launch = c.launch ∧ r.acc = 6 ∧ r.lanes.map (fun a => (a.lane, a.parked)) = [(c.lane, some 0x2D)]) ∧
  (∀ g s, bits s.regs.trCtl.toNat 5 1 = 0 → (s.launches.map fun e => e.1).Pairwise (· < ·) → let there (c : Nat) : Prop := (∃ e ∈ s.stands, e.1 / 32 = g ∧ s.launchCtx e.2.launch = some c) ∨ ∃ o ∈ s.outs, o.g = g ∧ o.shadow = true ∧ o.ctx = c
    ∃ u, exec (.eccUncorrectable (.core g)) s = .next u ∧ u.mem = s.mem ∧ ∀ k l, s.launch k = some l → (there l.ctx → u.launch k = none ∧ (u.causeEnt (0x400 + l.ctx)).pend = true) ∧ (¬ there l.ctx → u.launch k = some l)) ∧
  (∀ s, exec (.eccUncorrectable .contained) s = .next s) ∧
  (∀ s, exec .patrolScrub s = .next { s with pkg := { s.pkg with scrub := (s.pkg.scrub + 1) % 6442450944 } })

/-- A fence of a way, slice, core, cluster or link sets its entry; a slice's lines are written back, a core's and a cluster's contexts are killed, a cluster leaves its partition's mask, a link is down (R432). Above the fused power limit the clocks have a ceiling; the thermal limit lowers the supply; the shutdown turns the module off; the SPDM requests that are supported are answered by their codes, the others by an error; a good image is staged (R433 to R436). -/
def FencesAndPowerClaim : Prop :=
  let fenced (s u : State) (k n : Nat) : Prop := u.pkg.fenced = (k, n) :: s.pkg.fenced ∧ (u.causeEnt (0x542 + k)).pend = true ∧ u.ctxs.map (fun e => e.1) = s.ctxs.map fun e => e.1
  let off (s : State) : Prop := bits s.regs.trCtl.toNat 5 1 = 0 ∧ (s.launches.map fun e => e.1).Pairwise (· < ·)
  let there (s : State) (hit : Nat → Prop) (c : Nat) : Prop := (∃ e ∈ s.stands, hit (e.1 / 32) ∧ s.launchCtx e.2.launch = some c) ∨ ∃ o ∈ s.outs, hit o.g ∧ o.shadow = true ∧ o.ctx = c
  let killed (s u : State) (hit : Nat → Prop) : Prop := u.mem = s.mem ∧ ∀ k l, s.launch k = some l → (there s hit l.ctx → u.launch k = none) ∧ (¬ there s hit l.ctx → u.launch k = some l)
  (∀ k n s, (k, n) ∈ s.pkg.fenced → exec (.unitFence k n) s = .next s) ∧
  (∀ n s, (0, n) ∉ s.pkg.fenced → ∃ u, exec (.unitFence 0 n) s = .next u ∧ fenced s u 0 n ∧ u.mem = s.mem ∧ u.launches = s.launches ∧ u.stands = s.stands ∧ u.l2 = s.l2) ∧
  (∀ n s, (1, n) ∉ s.pkg.fenced → ∃ u, exec (.unitFence 1 n) s = .next u ∧ fenced s u 1 n ∧ u.mem = s.mem ∧ u.launches = s.launches ∧ u.stands = s.stands ∧
    ∀ e ∈ s.l2, (e.1, if 48 * (stackOf (128 * e.2.line) / 2) + sliceOf (128 * e.2.line) = n then { e.2 with dirty := false, behind := [] } else e.2) ∈ u.l2) ∧
  (∀ n s, off s → (2, n) ∉ s.pkg.fenced → ∃ u, exec (.unitFence 2 n) s = .next u ∧ fenced s u 2 n ∧ killed s u fun g => g = n) ∧
  (∀ n s, off s → (3, n) ∉ s.pkg.fenced → ∃ u, exec (.unitFence 3 n) s = .next u ∧ fenced s u 3 n ∧ killed s u (fun g => g / 4 = n) ∧ (∀ e ∈ u.parts, e.2.clu / 2 ^ n % 2 = 0) ∧ ((s.lent.map fun e => e.1).Pairwise (· < ·) → Store.find n u.lent = none)) ∧
  (∀ n s lanes rep, (4, n) ∉ s.pkg.fenced → s.rounds = [] → Store.find n s.pkg.links = some (true, lanes, rep) → ∃ u, exec (.unitFence 4 n) s = .next u ∧ fenced s u 4 n ∧ Store.find n u.pkg.links = some (false, 0, rep) ∧ u.mem = s.mem ∧ u.stands = s.stands) ∧
  (∀ s, ∃ c, c < 24 ∧ exec (.powerLimitCross true) s = .next { s with fresh := s.fresh + 1, pkg := { s.pkg with clockCut := true, ceiling := c } }) ∧
  (∀ s, exec (.powerLimitCross false) s = .next { s with fresh := s.fresh + 1, pkg := { s.pkg with clockCut := false, ceiling := 24 } }) ∧
  (∀ s, ∃ u, exec .thermalLimitReached s = .next u ∧ (u.causeEnt 0x549).pend = true ∧ u.regs.clkSup ≤ s.regs.clkSup ∧ (u.regs.clkSup < s.regs.clkSup → (u.causeEnt 0x548).pend = true) ∧ u.mem = s.mem ∧ u.stands = s.stands ∧ u.pkg = s.pkg) ∧
  (∀ s, exec .thermalShutdown s = .next { s with pkg := { s.pkg with off := true, ready := false } }) ∧
  (∀ bs s, ∃ b, exec (.spdmRequest bs) s = .next { s with fresh := s.fresh + 64, outbox := s.outbox ++ [.mctp b] } ∧ b.take 1 = [0x13] ∧
    (b.drop 1).take 1 = [if bs.getD 1 0 ∈ [0x81, 0x82, 0x83, 0x84] then bs.getD 1 0 - 0x80 else if bs.getD 1 0 ∈ [0xE0, 0xE1, 0xE3] then bs.getD 1 0 - 0x80 else 0x7F]) ∧
  (∀ img s, (img.good = false → exec (.firmwareUpdateStaged img) s = .next s) ∧ (img.good = true → ∃ u, exec (.firmwareUpdateStaged img) s = .next u ∧ u.pkg = { s.pkg with staged := some img } ∧ (u.causeEnt 0x54A).pend = true ∧ u.mem = s.mem ∧ u.stands = s.stands))

/-- Errors, fences, firmware, power and heat. The model's choices in it: log entries 77, 78, 79, 80, 81, 93, 99. -/
def Obligations.ErrorsAndFences : Prop := ErrorsClaim ∧ FencesAndPowerClaim

/-! The debugger -/

/-- STOP holds parked and held threads where they are and the others at their next safe point, a handler's at its next packet; with DELIV it asks for halt instead. RUN releases every held thread; STEP releases it to stop at its next safe point again. A block of a partition that is not armed refuses with RES 6 (R423, R424). -/
def DebugStopsClaim : Prop :=
  let armed (s : State) (c : Nat) (x : Machine.Ctx) : Prop := s.ctx c = some x ∧ (s.part x.part).armed = true
  let all (s u : State) (c : Nat) (f : Nat → Stand → Stand) : Prop :=
    let on (g : Nat) (st : Stand) : Stand := if s.launchCtx st.launch = some c then f g st else st
    u.stands = s.stands.map (fun e => (e.1, on (gOf e.1) e.2)) ∧ u.outs = s.outs.map (fun o => { o with stands := o.stands.map fun e => (e.1, on o.g e.2) }) ∧ u.returning = s.returning.map fun e => (e.1, e.2.1, on e.1 e.2.2)
  let threads (f : Thread → Thread) (st : Stand) : Stand := { st with thr := st.thr.map f, h := st.h.map fun h => { h with thr := h.thr.map f } }
  let halts (t : Thread) : Thread := match t.st with | .parked _ => { t with dbg := .held } | .held => { t with dbg := .held } | .stopped => { t with dbg := .held } | _ => t
  let frees (cyc : Nat) (stopped parked : Dbgt) (t : Thread) : Thread := if t.dbg = .held then (if t.st = .stopped then { t with st := .ready, since := cyc, dbg := stopped } else { t with dbg := parked }) else t
  let dbg (s : State) (c : Nat) (f : Dbg → Dbg) : Store Machine.Ctx := Store.adjust c (fun x => { x with dbg := f x.dbg }) s.ctxs
  (∀ c s x, s.ctx c = some x → (s.part x.part).armed = false → let u : State := { s with ctxs := dbg s c fun d => { d with res := 6 } }
    exec (.debugStop c) s = .next u ∧ exec (.debugRun c) s = .next u ∧ exec (.debugStep c) s = .next u ∧ exec (.debugRegRead c) s = .next u ∧ ∀ v, x.dbg.pend = none → exec (.debugRegWrite c v) s = .next u) ∧
  (∀ c s x, armed s c x → x.dbg.deliv = false → ∃ u, exec (.debugStop c) s = .next u ∧ all s u c (fun _ => threads halts) ∧ u = { s with stands := u.stands, outs := u.outs, returning := u.returning, ctxs := dbg s c fun d => { d with stop := true } }) ∧
  (∀ c s x, armed s c x → x.dbg.deliv = true → ∃ u, exec (.debugStop c) s = .next u ∧ all s u c (fun _ st => { st with thr := st.thr.map fun t => if t.st = .exited then t else { t with dbg := .halt } }) ∧ u = { s with stands := u.stands, outs := u.outs, returning := u.returning }) ∧
  (∀ c s x, armed s c x → ∃ u, exec (.debugRun c) s = .next u ∧ all s u c (fun g => threads (frees (s.cyc g) .pass .none)) ∧ u = { s with stands := u.stands, outs := u.outs, returning := u.returning, ctxs := dbg s c fun d => { d with stop := false } }) ∧
  (∀ c s x, armed s c x → ∃ u, exec (.debugStep c) s = .next u ∧ all s u c (fun g => threads (frees (s.cyc g) (.first x.dbg.deliv) (.step x.dbg.deliv))) ∧ u = { s with stands := u.stands, outs := u.outs, returning := u.returning }) ∧
  (∀ (s : State) g (l : Machine.Launch) (k : Cand) ws x, s.ctx l.ctx = some x → x.dbg.stop = true → k.t.dbg = .none → (∀ b ∈ x.dbg.bp, b.2 = false) → s.mustStop g l.ctx = 0 →
    (cSp (ws.headD 0) = true ∨ k.hdl = true → s.gateAt g l k ws = .stop) ∧ (cSp (ws.headD 0) = false → k.hdl = false → s.gateAt g l k ws ≠ .stop)) ∧
  (∀ (s : State) g (l : Machine.Launch) (k : Cand) ws x n ord delta, s.ctx l.ctx = some x → s.mustStop g l.ctx = 0 → cSp (ws.headD 0) = true → k.hdl = false → k.t.dbg = .none → s.position l (l.pkt k.t.pc) = .ok ord delta → n < 4 → x.dbg.bp.length = 4 → (∀ m, m < 4 → (x.dbg.bp.getD m (0, false) = (ord, true) ↔ m = n)) →
    x.dbg.deliv = false → s.gateAt g l k ws = .hit n)

/-- A register of a held thread of the program is read and written by its class and number; an access elsewhere has its result and no effect; a write of a register that a counted operation is to write is refused, or waits with DRAIN until its flag has fallen or the limit runs out (R425). DBG_ARM arms a partition; a freeze stops the package (R426, R427). -/
def DebugAccessClaim : Prop :=
  let sel (r : W) (lo n : Nat) : Nat := r.toNat / 2 ^ lo % 2 ^ n
  let slot (r : W) : Nat := sel r 9 5
  let lane (r : W) : Nat := sel r 14 5
  let cls (r : W) : Nat := sel r 19 3
  let reg (r : W) : Nat := sel r 22 7
  let key (r : W) : Nat := standKey (sel r 0 9) (slot r)
  let armed (s : State) (c : Nat) (x : Machine.Ctx) : Prop := s.ctx c = some x ∧ (s.part x.part).armed = true ∧ x.dbg.pend = none
  let on (s : State) (c : Nat) (r : W) (st : Stand) (l : Machine.Launch) : Prop := s.stand (key r) = some st ∧ s.launch st.launch = some l ∧ l.ctx = c ∧ (st.t true (lane r)).dbg ≠ .held
  let held (s : State) (c : Nat) (r : W) (st : Stand) (l : Machine.Launch) : Prop := on s c r st l ∧ (st.t false (lane r)).dbg = .held ∧ st.place = .resident ∧ (cls r = 0 → reg r ∉ st.spilledV) ∧
    reg r < [l.hdr.vregs, l.hdr.sregs, l.hdr.pregs, 12, 128].getD (cls r) 0
  let dbg (s : State) (c : Nat) (f : Dbg → Dbg) : Store Machine.Ctx := Store.adjust c (fun x => { x with dbg := f x.dbg }) s.ctxs
  let result (s : State) (c res : Nat) : State := { s with ctxs := dbg s c fun d => { d with res := res, pend := none } }
  let writes (s : State) (c : Nat) (v : W) (r : W) (P : Stand → Prop) : Prop := ∃ u w, exec (.debugRegWrite c v) s = .next u ∧ u = { result s c 0 with stands := u.stands } ∧ u.stand (key r) = some w ∧ P w ∧ ∀ k, k ≠ key r → u.stand k = s.stand k
  (∀ c s x st l, let r := x.dbg.rsel
    armed s c x → held s c r st l → let value : W := if cls r = 0 then st.rv (reg r) (lane r) else if cls r = 1 then st.rs (reg r) else if cls r = 2 then (if st.rp (reg r) (lane r) then 1 else 0) else if cls r = 3 then BitVec.ofNat 32 ((st.t false (lane r)).flags.getD (reg r) 0) else BitVec.ofNat 32 (l.pkt (st.t false (lane r)).pc)
    exec (.debugRegRead c) s = .next { s with ctxs := dbg s c fun d => { d with res := 0, pend := none, rdata := value } }) ∧
  (∀ c s x st l v, let r := x.dbg.rsel
    armed s c x → on s c r st l →
    ((st.t false (lane r)).dbg ≠ .held → exec (.debugRegRead c) s = .next (result s c 2) ∧ exec (.debugRegWrite c v) s = .next (result s c 2)) ∧
    ((st.t false (lane r)).dbg = .held → (st.place = .spilled ∨ (cls r = 0 ∧ reg r ∈ st.spilledV)) → exec (.debugRegRead c) s = .next (result s c 3) ∧ exec (.debugRegWrite c v) s = .next (result s c 3)) ∧
    ((st.t false (lane r)).dbg = .held → st.place = .resident → (cls r = 0 → reg r ∉ st.spilledV) → (5 ≤ cls r ∨ [l.hdr.vregs, l.hdr.sregs, l.hdr.pregs, 12, 128].getD (cls r) 0 ≤ reg r) → exec (.debugRegRead c) s = .next (result s c 5) ∧ exec (.debugRegWrite c v) s = .next (result s c 5))) ∧
  (∀ c s x st l v, let r := x.dbg.rsel
    armed s c x → held s c r st l → s.counted r = none → lane r < st.thr.length →
    (cls r = 0 → reg r < st.v.length → inMask st.live (lane r) = true → 16 ≤ s.freePool (sel r 0 9) → writes s c v r fun w => w.rv (reg r) (lane r) = v ∧ (∀ i, i ≠ lane r → inMask st.live i = true → w.rv (reg r) i = st.rv (reg r) i) ∧ (∀ n, n ≠ reg r → w.v[n]? = st.v[n]?) ∧ (w.grant = st.grant ∨ w.grant = (0, 0)) ∧ w = { st with v := w.v, grant := w.grant }) ∧
    (cls r = 1 → reg r < st.s.length → writes s c v r fun w => w = { st with s := st.s.set (reg r) v }) ∧
    (cls r = 2 → reg r < 127 → reg r < st.p.length → writes s c v r fun w => (∀ i, i < 32 → w.rp (reg r) i = if i = lane r then decide (v.toNat % 2 = 1) else st.rp (reg r) i) ∧ (∀ n, n ≠ reg r → w.p[n]? = st.p[n]?) ∧ w = { st with p := w.p }) ∧
    (cls r = 3 → writes s c v r fun w => w = { st with thr := st.thr.modify (lane r) fun t => { t with flags := t.flags.set (reg r) (v.toNat % 64) } }) ∧
    (cls r = 4 → (s.isSafePoint l v.toNat = true → writes s c v r fun w => w = { st with thr := st.thr.modify (lane r) fun t => { t with pc := l.codePc + BitVec.ofNat 52 v.toNat, slot := 0 } }) ∧ (s.isSafePoint l v.toNat = false → exec (.debugRegWrite c v) s = .next (result s c 5)))) ∧
  (∀ c s x st l v f, let r := x.dbg.rsel
    armed s c x → held s c r st l → s.counted r = some f →
    (r.toNat / 2 ^ 30 % 2 = 0 → exec (.debugRegWrite c v) s = .next (result s c 1)) ∧
    (r.toNat / 2 ^ 30 % 2 = 1 → exec (.debugRegWrite c v) s = .next { s with ctxs := dbg s c fun d => { d with pend := some (r, v, f), drainAt := s.cyc (sel r 0 9) + min x.dbg.drainto 16777215 } })) ∧
  (∀ c s x r v f v', s.ctx c = some x → x.dbg.pend = some (r, v, f) → s.dbgDrained r f = false → exec (.debugRegWrite c v') s = .next s ∧ (x.dbg.drainAt ≤ s.cyc (sel r 0 9) → exec (.debugDrainTimeout c) s = .next (result s c 1)) ∧ (s.cyc (sel r 0 9) < x.dbg.drainAt → exec (.debugDrainTimeout c) s = .next s)) ∧
  (∀ c s x r v f v' st l, s.ctx c = some x → x.dbg.pend = some (r, v, f) → s.dbgDrained r f = true → s.counted r = none → held s c r st l → cls r = 0 → reg r < st.v.length → inMask st.live (lane r) = true → 16 ≤ s.freePool (sel r 0 9) →
    writes s c v' r fun w => w.rv (reg r) (lane r) = v) ∧
  (∀ p v s, p < 32 → exec (.debugArm p v) s = .next { s with parts := Store.put p { s.part p with armed := decide (v.toNat / 2 ^ 31 % 2 = 1), token := v.toNat % 65536 } s.parts }) ∧
  (∀ s, exec .freeze s = .next { s with pkg := { s.pkg with frozen := true } })

/-- The debugger. The model's choices in it: log entries 83, 85, 86. -/
def Obligations.DebugAndFreeze : Prop := DebugStopsClaim ∧ DebugAccessClaim

/-! The machine as a whole -/

/-- Words written out bit by bit from the formats of R109 to R111 and R114, and the words of the specification's own examples, decode to the instructions they stand for; a reserved major, an unassigned OP, a reserved bit, an illegal order or scope and a missing literal decode to none. The model's choice in it: log entry 7. -/
def Obligations.DecodeWords : Prop :=
  let reads (ws : List W) (i : Instr) : Prop := decode ws = some (i, ws.length)
  reads [0b0_000010_000_0_0000001_0000010_0000011#32] (.iadd { c := 0, d := 1, a := 2, b := .v 3 }) ∧
  reads [0b1_000010_001_1_0000001_0000010_0000011#32] (.isub { c := 1, d := 1, a := 2, b := .s 3 }) ∧
  reads [0b0_000100_010_1_0000001_0000010_1100000#32, 0xDEADBEEF#32] (.xor { c := 0, d := 1, a := 2, b := .lit 0xDEADBEEF }) ∧
  reads [0b0_000001_001_1_0000001_0000010_1111111#32, 0b000000_000_0000_0000_0000101_0_0000000#32] (.sel { c := 0, d := 1, a := 2, b := .imm (-1), pe := 5 }) ∧
  reads [0b0_010001_000_0_0000001_0000010_0000011#32, 0b000000_000_0000_0000_0000000_1_0000111#32] (.ffma { c := 0, d := 1, a := 2, b := .v 3, e := .s 7 }) ∧
  reads [0b0_010111_000_0_0000001_0000010_0000000#32, 0b000000_001_0001_0000_0000000_0_0000000#32] (.cvt { c := 0, d := 1, a := 2, sf := 0, df := 1, rnd := 1 }) ∧
  reads [0b0_011100_0000_111111111111111111110#32] (.bra { c := 0, disp := -2 }) ∧
  reads [0b0_100000_010_01_0100_0000101_0000110_10#32, 0x10#32] (.ldB32 { c := 0, ord := 1, scp := 4, d := 5, addr := .sl 6 0x10 }) ∧
  reads [0x42A90C13#32, 0x3C#32] (.stB32 { c := 0, ord := 2, scp := 9, d := 6, addr := .vl 4 0x3C }) ∧
  reads [0x60000411#32, 0x00000001#32] (.atomAdd { c := 0, ord := 0, scp := 0, d := 2, addr := .s 4, b := .v 1 }) ∧
  reads [0x4A200A82#32] (.tread { c := 0, idx := 0, d := 10, id := .imm 1, q := 0 }) ∧
  reads [0x58456200#32] (.mzero { c := 0, i := 1, cv := 2, a := .imm 34 }) ∧
  reads [0x58050812#32] (.mma { c := 0, i := 1, cv := 2, a := .s 8, b := .s 9 }) ∧
  reads [0b0_111000_00000010_00000000000000011#32] (.barSync { c := 0, s := 3 }) ∧
  reads [0b0_111001_000_00_1001_0000000_0000000_00#32] (.fence { c := 0, scp := 9 }) ∧
  reads [0b0_111110_00000000_00000000000000000#32] (.nop { c := 0 }) ∧
  (∀ maj ∈ [0x00, 0x0A, 0x0B, 0x0E, 0x0F, 0x19, 0x1A, 0x1B, 0x1E, 0x1F, 0x26, 0x27, 0x29, 0x2A, 0x2B, 0x2E, 0x2F, 0x36, 0x37, 0x3F], ∀ c n : Nat, c < 2 → n < 2 ^ 25 → ∀ rest, decode (BitVec.ofNat 32 (2 ^ 31 * c + 2 ^ 25 * maj + n) :: rest) = none) ∧
  decode [0b0_000001_110_0_0000001_0000010_0000011#32] = none ∧ decode [0b0_000001_001_0_0000001_0000010_0000011#32, 0x04000000#32] = none ∧
  decode [0b0_100000_010_10_0000_0000101_0000110_00#32] = none ∧ decode [0b0_100000_010_00_1010_0000101_0000110_00#32] = none ∧ decode [0b0_000010_000_1_0000001_0000010_1100000#32] = none

/-- Every instruction of a packet decodes from its words as itself, whatever follows, with every operand at every value that its encoding admits; and words that decode are the words of the instruction they decode to, which is well formed (R109 to R112). -/
def Obligations.DecodeEncode : Prop :=
  (∀ (i : Instr) (rest : List W), i.wf = true → i.isCode = true → decode (i.encode ++ rest) = some (i, i.encode.length)) ∧
  (∀ (ws : List W) (i : Instr) (n : Nat), decode ws = some (i, n) → i.wf = true ∧ i.isCode = true ∧ n ≤ ws.length ∧ i.encode = ws.take n)

/-- A step runs what its turn names: the instruction that the executing squad's slot decodes to, and then the slot's end; a step of the device; a tick. What the packet cache holds are little-endian words. A package whose clocks stand waits, and what comes next is chosen without any other effect; the slots of a bundle follow each other with nothing between (R98, R107, R109, R125, R144, R427). The model's choices in it: log entries 3, 97. -/
def Obligations.StepRunsDecoded : Prop :=
  (∀ s n q i len, s.awake = true → s.turn = .squad n → s.issue[n]? = some q → decode (q.ws.drop q.k) = some (i, len) →
    let s0 : State := { s with issue := q :: s.issue.eraseIdx n }
    step s = after (exec i s0) fun t => ((State.observe s0 (State.observeSlot s0 t)).advance len (decide (i.chain = 1))).reschedule) ∧
  (∀ s e, s.awake = true → s.turn = .event e → step s = after (exec (evInstr e) s) fun t => (State.observe s t).reschedule) ∧
  (∀ s, s.awake = true → s.turn = .tick → step s = .next s.tick.reschedule) ∧
  (∀ s, s.awake = false → ∃ turn inbox, step s = .next { s with turn := turn, inbox := inbox }) ∧
  (∀ s : State, ∃ turn inbox fresh, s.reschedule = { s with turn := turn, inbox := inbox, fresh := fresh }) ∧
  (∀ (s : State) q rest, s.issue = q :: rest → q.b < q.k → s.reschedule = { s with turn := .squad 0 }) ∧
  (∀ (s : State) q rest len chained, s.issue = q :: rest →
    (q.mem = [] → s.advance len chained = { s with issue := rest }) ∧
    (q.mem ≠ [] → q.again = true → s.advance len chained = { s with issue := { q with again := false, b := q.k } :: rest }) ∧
    (q.mem ≠ [] → q.again = false → q.k + len < 3 → s.advance len chained = { s with issue := { q with k := q.k + len, mark := none, b := if chained then q.b else q.k + len } :: rest }) ∧
    (q.mem ≠ [] → q.again = false → 3 ≤ q.k + len → s.advance len chained = q.mem.foldl (fun (s : State) m => s.arrive (standKey q.g m.1) q.hdl q.launch m.2 (q.pc + 1) 0) { s with issue := rest })) ∧
  (∀ (s : State) g (l : Machine.Launch) (pc : BitVec 52) bs, Store.find (pcKey g (s.ctag l.ctx) (pcVa pc)) s.pcache = some bs → ∃ w0 w1 w2 w3, s.packet g l pc = some [w0, w1, w2, w3] ∧
    ∀ i b, i < 4 → b < 4 → BitVec.extractLsb' (8 * b) 8 ([w0, w1, w2, w3].getD i 0) = bs.getD (16 * pc.toNat % 128 + 4 * i + b) 0)

/-- The machine after reset: READY, with no context, launch, stand or team, memory zero, nothing on its way, and the registers at the values that their descriptions give (R60, R61, R63, R97, R234, R402, R404, R408, R412, R416, R420, R437). -/
def Obligations.ResetState : Prop :=
  let s := State.reset
  (MemOk s ∧ ChipOk s ∧ TablesOk s) ∧ (s.pkg.ready = true ∧ s.pkg.off = false ∧ s.pkg.frozen = false ∧ s.pkg.chip = 0 ∧ s.pkg.routes = [] ∧ s.pkg.fenced = []) ∧
  (s.ctxs = [] ∧ s.launches = [] ∧ s.stands = [] ∧ s.teams = [] ∧ s.issue = [] ∧ s.reqs = [] ∧ s.ops = [] ∧ s.cpys = [] ∧ s.holds = [] ∧ s.brand = [] ∧ s.tlb = []) ∧ (∀ a, memGet s.mem a = 0) ∧
  (∀ p, s.part p = { clu := 0, l2ways := 16, dshare := 0, lend := false, borrow := false, refused := false, fn := 0, slice := 0, armed := false, token := 0, resetAt := none }) ∧
  (∀ dq, let q := s.queue dq
    q.base = 0 ∧ q.log2 = 4 ∧ q.ctx = 0 ∧ q.prio = 1 ∧ q.devdb = false ∧ q.en = false ∧ q.hwb = 0 ∧ q.tl = 0 ∧ q.h = 0 ∧ q.err = 0 ∧ q.stop = false ∧ q.stale = 0 ∧ q.gen = 0 ∧ q.rto = 1000000 ∧ q.node = 0xFFFFFFFF) ∧
  (∀ f, let r := s.fn f
    r.ctxAddr = 0 ∧ r.ctxBusy = false ∧ r.ctxResult = 0 ∧ r.invAddr = 0 ∧ r.invBusy = false ∧ r.invRefused = false ∧ r.rrBase = 0 ∧ r.rrLog2 = 4 ∧ r.rrEn = false ∧ r.rrHead = 0 ∧ r.rrTail = 0 ∧ r.rrDropped = 0 ∧ r.gOfs = 0 ∧ r.gMul = 0x01000000) ∧
  (∀ n, let c := s.causeEnt n
    c.pend = false ∧ c.mask = false ∧ c.again = false) ∧
  s.regs.prst = 0 ∧ s.regs.prstBusy = false ∧ s.regs.rstto = 10000000 ∧ s.regs.umpRun = true ∧ s.regs.clkSup = 1536 ∧ s.regs.overcommit = false ∧ s.regs.latMiss = false ∧ s.regs.rounds = 0 ∧ s.regs.c2cap = 1024 ∧ s.regs.ckBusy = false ∧ s.regs.ckResult = 0

/-- Every step keeps device memory, die-shared scratch, the scratchpads and the line copies in their canonical forms, and the chip number a chip number. -/
def Obligations.StepKeepsMemory : Prop := ∀ s t, step s = .next t → (MemOk s → MemOk t) ∧ (ChipOk s → ChipOk t)

/-- Every step keeps the machine's tables in order, each key once, and every squad's members distinct stands of its core. -/
def Obligations.StepKeepsTables : Prop := ∀ s t, TablesOk s → step s = .next t → TablesOk t
end

