-- ==== Sys2Proof/Laws/PerInstr.lean ====
section
/-! SUPPORT. For each instruction: the fields it is encoded in are within their widths, and stand for that instruction; and the words of such fields read back as the fields (05 R109 to R114, 15 R328). -/
open Sys2Proof

namespace Sys2Proof.Laws

/-- A field of the X format within its seven bits: 127 stands for a literal where the field is an operand of R111, and only there. -/
def xfOk (lit : Bool) : XF → Prop
  | .num n => n < 128 ∧ (lit = true → n ≠ 127)
  | .lit _ => lit = true

/-- Fields within their widths, of the format that R114 gives their major opcode. -/
def rawFits : Raw → Prop
  | .r maj op c d a b => fmtOf maj = some .r ∧ hasExt maj op = false ∧ maj < 64 ∧ op < 8 ∧ c < 2 ∧ d < 128 ∧ a < 128 ∧ b.fits = true
  | .rx maj op c d a b e pe sf df rnd => fmtOf maj = some .r ∧ hasExt maj op = true ∧ maj < 64 ∧ op < 8 ∧ c < 2 ∧ d < 128 ∧ a < 128 ∧ b.fits = true ∧ e.fits = true ∧ pe < 128 ∧ sf < 16 ∧ df < 16 ∧ rnd < 8
  | .m maj op c ord scp d addr => fmtOf maj = some .m ∧ maj < 64 ∧ op < 8 ∧ c < 2 ∧ ord < 4 ∧ scp < 16 ∧ d < 128 ∧ addr.a < 128
  | .ma maj op c ord scp d addr b n => fmtOf maj = some .ma ∧ maj < 64 ∧ op < 8 ∧ c < 2 ∧ ord < 4 ∧ scp < 16 ∧ d < 128 ∧ addr.a < 128 ∧ b.fits = true ∧ n.fits = true
  | .br op c disp => op < 16 ∧ c < 2 ∧ disp < 2 ^ 21
  | .x maj op c idx cv q a b => fmtOf maj = some .x ∧ maj < 64 ∧ op < 16 ∧ c < 2 ∧ idx < 8 ∧ cv < 8 ∧ q < 2 ∧ xfOk (xOps maj op q).1 a ∧ xfOk (xOps maj op q).2 b
  | .s maj op c imm => fmtOf maj = some .s ∧ maj < 64 ∧ op < 256 ∧ c < 2 ∧ imm < 2 ^ 17

/-- A well-formed instruction that has fields: they are within their widths, and stand for it. -/
def Encodes.Statement (i : Instr) : Prop := i.wf = true → ∀ r, i.raw = some r → r.toInstr = some i ∧ rawFits r

/-- A displacement of 21 bits reads back. -/
theorem sx_toPat {x : Int} (h : -1048576 ≤ x) (h' : x < 1048576) : sx (toPat x 21) 21 = x := by
  have e : ((2 ^ 21 : Nat) : Int) = 2097152 := rfl
  have d : (2 ^ (21 - 1) : Nat) = 1048576 := rfl
  have f : (2 ^ 21 : Nat) = 2097152 := rfl
  simp only [sx, toPat, e, d]
  by_cases c : (x % 2097152).toNat % 2 ^ 21 < 1048576
  · rw [if_pos c]; omega
  · rw [if_neg c]; omega
theorem toPat_lt (x : Int) : toPat x 21 < 2097152 := by
  have e : ((2 ^ 21 : Nat) : Int) = 2097152 := rfl
  simp only [toPat, e]
  omega

end Sys2Proof.Laws

section
open Sys2Proof.Laws
set_option Elab.async false

/-! Instructions with fields -/

theorem Sys2Proof.Laws.Encodes.mov (x : RDB) : Sys2Proof.Laws.Encodes.Statement (.mov x) := by
  intro h r hr
  simp only [Instr.wf, RDB.fits, Bool.and_eq_true, decide_eq_true_eq] at h
  cases hr
  exact ⟨rfl, by simp [rawFits, fmtOf, hasExt, Src.fits.eq_1, Src.fits.eq_2, Src.fits.eq_3, Addr.a.eq_1, h] <;> omega⟩
theorem Sys2Proof.Laws.Encodes.movS (x : RDB) : Sys2Proof.Laws.Encodes.Statement (.movS x) := by
  intro h r hr
  simp only [Instr.wf, RDB.fits, Bool.and_eq_true, decide_eq_true_eq] at h
  cases hr
  exact ⟨rfl, by simp [rawFits, fmtOf, hasExt, Src.fits.eq_1, Src.fits.eq_2, Src.fits.eq_3, Addr.a.eq_1, h] <;> omega⟩
theorem Sys2Proof.Laws.Encodes.sel (x : RSel) : Sys2Proof.Laws.Encodes.Statement (.sel x) := by
  intro h r hr
  simp only [Instr.wf, RSel.fits, Bool.and_eq_true, decide_eq_true_eq] at h
  cases hr
  exact ⟨rfl, by simp [rawFits, fmtOf, hasExt, Src.fits.eq_1, Src.fits.eq_2, Src.fits.eq_3, Addr.a.eq_1, h] <;> omega⟩
theorem Sys2Proof.Laws.Encodes.vidxr (x : RB) : Sys2Proof.Laws.Encodes.Statement (.vidxr x) := by
  intro h r hr
  simp only [Instr.wf, RB.fits, Bool.and_eq_true, decide_eq_true_eq] at h
  cases hr
  exact ⟨rfl, by simp [rawFits, fmtOf, hasExt, Src.fits.eq_1, Src.fits.eq_2, Src.fits.eq_3, Addr.a.eq_1, h] <;> omega⟩
theorem Sys2Proof.Laws.Encodes.vidxw (x : RB) : Sys2Proof.Laws.Encodes.Statement (.vidxw x) := by
  intro h r hr
  simp only [Instr.wf, RB.fits, Bool.and_eq_true, decide_eq_true_eq] at h
  cases hr
  exact ⟨rfl, by simp [rawFits, fmtOf, hasExt, Src.fits.eq_1, Src.fits.eq_2, Src.fits.eq_3, Addr.a.eq_1, h] <;> omega⟩
theorem Sys2Proof.Laws.Encodes.getV (x : RU) : Sys2Proof.Laws.Encodes.Statement (.getV x) := by
  intro h r hr
  simp only [Instr.wf, RU.fits, Bool.and_eq_true, decide_eq_true_eq] at h
  cases hr
  exact ⟨rfl, by simp [rawFits, fmtOf, hasExt, Src.fits.eq_1, Src.fits.eq_2, Src.fits.eq_3, Addr.a.eq_1, h] <;> omega⟩
theorem Sys2Proof.Laws.Encodes.getS (x : RU) : Sys2Proof.Laws.Encodes.Statement (.getS x) := by
  intro h r hr
  simp only [Instr.wf, RU.fits, Bool.and_eq_true, decide_eq_true_eq] at h
  cases hr
  exact ⟨rfl, by simp [rawFits, fmtOf, hasExt, Src.fits.eq_1, Src.fits.eq_2, Src.fits.eq_3, Addr.a.eq_1, h] <;> omega⟩
theorem Sys2Proof.Laws.Encodes.put (x : RDB) : Sys2Proof.Laws.Encodes.Statement (.put x) := by
  intro h r hr
  simp only [Instr.wf, RDB.fits, Bool.and_eq_true, decide_eq_true_eq] at h
  cases hr
  exact ⟨rfl, by simp [rawFits, fmtOf, hasExt, Src.fits.eq_1, Src.fits.eq_2, Src.fits.eq_3, Addr.a.eq_1, h] <;> omega⟩
theorem Sys2Proof.Laws.Encodes.iadd (x : RB) : Sys2Proof.Laws.Encodes.Statement (.iadd x) := by
  intro h r hr
  simp only [Instr.wf, RB.fits, Bool.and_eq_true, decide_eq_true_eq] at h
  cases hr
  exact ⟨rfl, by simp [rawFits, fmtOf, hasExt, Src.fits.eq_1, Src.fits.eq_2, Src.fits.eq_3, Addr.a.eq_1, h] <;> omega⟩
theorem Sys2Proof.Laws.Encodes.isub (x : RB) : Sys2Proof.Laws.Encodes.Statement (.isub x) := by
  intro h r hr
  simp only [Instr.wf, RB.fits, Bool.and_eq_true, decide_eq_true_eq] at h
  cases hr
  exact ⟨rfl, by simp [rawFits, fmtOf, hasExt, Src.fits.eq_1, Src.fits.eq_2, Src.fits.eq_3, Addr.a.eq_1, h] <;> omega⟩
theorem Sys2Proof.Laws.Encodes.iadds (x : RB) : Sys2Proof.Laws.Encodes.Statement (.iadds x) := by
  intro h r hr
  simp only [Instr.wf, RB.fits, Bool.and_eq_true, decide_eq_true_eq] at h
  cases hr
  exact ⟨rfl, by simp [rawFits, fmtOf, hasExt, Src.fits.eq_1, Src.fits.eq_2, Src.fits.eq_3, Addr.a.eq_1, h] <;> omega⟩
theorem Sys2Proof.Laws.Encodes.isubs (x : RB) : Sys2Proof.Laws.Encodes.Statement (.isubs x) := by
  intro h r hr
  simp only [Instr.wf, RB.fits, Bool.and_eq_true, decide_eq_true_eq] at h
  cases hr
  exact ⟨rfl, by simp [rawFits, fmtOf, hasExt, Src.fits.eq_1, Src.fits.eq_2, Src.fits.eq_3, Addr.a.eq_1, h] <;> omega⟩
theorem Sys2Proof.Laws.Encodes.ineg (x : RU) : Sys2Proof.Laws.Encodes.Statement (.ineg x) := by
  intro h r hr
  simp only [Instr.wf, RU.fits, Bool.and_eq_true, decide_eq_true_eq] at h
  cases hr
  exact ⟨rfl, by simp [rawFits, fmtOf, hasExt, Src.fits.eq_1, Src.fits.eq_2, Src.fits.eq_3, Addr.a.eq_1, h] <;> omega⟩
theorem Sys2Proof.Laws.Encodes.iabs (x : RU) : Sys2Proof.Laws.Encodes.Statement (.iabs x) := by
  intro h r hr
  simp only [Instr.wf, RU.fits, Bool.and_eq_true, decide_eq_true_eq] at h
  cases hr
  exact ⟨rfl, by simp [rawFits, fmtOf, hasExt, Src.fits.eq_1, Src.fits.eq_2, Src.fits.eq_3, Addr.a.eq_1, h] <;> omega⟩
theorem Sys2Proof.Laws.Encodes.imin (x : RB) : Sys2Proof.Laws.Encodes.Statement (.imin x) := by
  intro h r hr
  simp only [Instr.wf, RB.fits, Bool.and_eq_true, decide_eq_true_eq] at h
  cases hr
  exact ⟨rfl, by simp [rawFits, fmtOf, hasExt, Src.fits.eq_1, Src.fits.eq_2, Src.fits.eq_3, Addr.a.eq_1, h] <;> omega⟩
theorem Sys2Proof.Laws.Encodes.imax (x : RB) : Sys2Proof.Laws.Encodes.Statement (.imax x) := by
  intro h r hr
  simp only [Instr.wf, RB.fits, Bool.and_eq_true, decide_eq_true_eq] at h
  cases hr
  exact ⟨rfl, by simp [rawFits, fmtOf, hasExt, Src.fits.eq_1, Src.fits.eq_2, Src.fits.eq_3, Addr.a.eq_1, h] <;> omega⟩
theorem Sys2Proof.Laws.Encodes.imul (x : RB) : Sys2Proof.Laws.Encodes.Statement (.imul x) := by
  intro h r hr
  simp only [Instr.wf, RB.fits, Bool.and_eq_true, decide_eq_true_eq] at h
  cases hr
  exact ⟨rfl, by simp [rawFits, fmtOf, hasExt, Src.fits.eq_1, Src.fits.eq_2, Src.fits.eq_3, Addr.a.eq_1, h] <;> omega⟩
theorem Sys2Proof.Laws.Encodes.imulh (x : RB) : Sys2Proof.Laws.Encodes.Statement (.imulh x) := by
  intro h r hr
  simp only [Instr.wf, RB.fits, Bool.and_eq_true, decide_eq_true_eq] at h
  cases hr
  exact ⟨rfl, by simp [rawFits, fmtOf, hasExt, Src.fits.eq_1, Src.fits.eq_2, Src.fits.eq_3, Addr.a.eq_1, h] <;> omega⟩
theorem Sys2Proof.Laws.Encodes.imulhu (x : RB) : Sys2Proof.Laws.Encodes.Statement (.imulhu x) := by
  intro h r hr
  simp only [Instr.wf, RB.fits, Bool.and_eq_true, decide_eq_true_eq] at h
  cases hr
  exact ⟨rfl, by simp [rawFits, fmtOf, hasExt, Src.fits.eq_1, Src.fits.eq_2, Src.fits.eq_3, Addr.a.eq_1, h] <;> omega⟩
theorem Sys2Proof.Laws.Encodes.imad (x : RX) : Sys2Proof.Laws.Encodes.Statement (.imad x) := by
  intro h r hr
  simp only [Instr.wf, RX.fits, Bool.and_eq_true, decide_eq_true_eq] at h
  cases hr
  exact ⟨rfl, by simp [rawFits, fmtOf, hasExt, Src.fits.eq_1, Src.fits.eq_2, Src.fits.eq_3, Addr.a.eq_1, h] <;> omega⟩
theorem Sys2Proof.Laws.Encodes.imadh (x : RX) : Sys2Proof.Laws.Encodes.Statement (.imadh x) := by
  intro h r hr
  simp only [Instr.wf, RX.fits, Bool.and_eq_true, decide_eq_true_eq] at h
  cases hr
  exact ⟨rfl, by simp [rawFits, fmtOf, hasExt, Src.fits.eq_1, Src.fits.eq_2, Src.fits.eq_3, Addr.a.eq_1, h] <;> omega⟩
theorem Sys2Proof.Laws.Encodes.and (x : RB) : Sys2Proof.Laws.Encodes.Statement (.and x) := by
  intro h r hr
  simp only [Instr.wf, RB.fits, Bool.and_eq_true, decide_eq_true_eq] at h
  cases hr
  exact ⟨rfl, by simp [rawFits, fmtOf, hasExt, Src.fits.eq_1, Src.fits.eq_2, Src.fits.eq_3, Addr.a.eq_1, h] <;> omega⟩
theorem Sys2Proof.Laws.Encodes.or (x : RB) : Sys2Proof.Laws.Encodes.Statement (.or x) := by
  intro h r hr
  simp only [Instr.wf, RB.fits, Bool.and_eq_true, decide_eq_true_eq] at h
  cases hr
  exact ⟨rfl, by simp [rawFits, fmtOf, hasExt, Src.fits.eq_1, Src.fits.eq_2, Src.fits.eq_3, Addr.a.eq_1, h] <;> omega⟩
theorem Sys2Proof.Laws.Encodes.xor (x : RB) : Sys2Proof.Laws.Encodes.Statement (.xor x) := by
  intro h r hr
  simp only [Instr.wf, RB.fits, Bool.and_eq_true, decide_eq_true_eq] at h
  cases hr
  exact ⟨rfl, by simp [rawFits, fmtOf, hasExt, Src.fits.eq_1, Src.fits.eq_2, Src.fits.eq_3, Addr.a.eq_1, h] <;> omega⟩
theorem Sys2Proof.Laws.Encodes.andn (x : RB) : Sys2Proof.Laws.Encodes.Statement (.andn x) := by
  intro h r hr
  simp only [Instr.wf, RB.fits, Bool.and_eq_true, decide_eq_true_eq] at h
  cases hr
  exact ⟨rfl, by simp [rawFits, fmtOf, hasExt, Src.fits.eq_1, Src.fits.eq_2, Src.fits.eq_3, Addr.a.eq_1, h] <;> omega⟩
theorem Sys2Proof.Laws.Encodes.orn (x : RB) : Sys2Proof.Laws.Encodes.Statement (.orn x) := by
  intro h r hr
  simp only [Instr.wf, RB.fits, Bool.and_eq_true, decide_eq_true_eq] at h
  cases hr
  exact ⟨rfl, by simp [rawFits, fmtOf, hasExt, Src.fits.eq_1, Src.fits.eq_2, Src.fits.eq_3, Addr.a.eq_1, h] <;> omega⟩
theorem Sys2Proof.Laws.Encodes.xnor (x : RB) : Sys2Proof.Laws.Encodes.Statement (.xnor x) := by
  intro h r hr
  simp only [Instr.wf, RB.fits, Bool.and_eq_true, decide_eq_true_eq] at h
  cases hr
  exact ⟨rfl, by simp [rawFits, fmtOf, hasExt, Src.fits.eq_1, Src.fits.eq_2, Src.fits.eq_3, Addr.a.eq_1, h] <;> omega⟩
theorem Sys2Proof.Laws.Encodes.shl (x : RB) : Sys2Proof.Laws.Encodes.Statement (.shl x) := by
  intro h r hr
  simp only [Instr.wf, RB.fits, Bool.and_eq_true, decide_eq_true_eq] at h
  cases hr
  exact ⟨rfl, by simp [rawFits, fmtOf, hasExt, Src.fits.eq_1, Src.fits.eq_2, Src.fits.eq_3, Addr.a.eq_1, h] <;> omega⟩
theorem Sys2Proof.Laws.Encodes.shr (x : RB) : Sys2Proof.Laws.Encodes.Statement (.shr x) := by
  intro h r hr
  simp only [Instr.wf, RB.fits, Bool.and_eq_true, decide_eq_true_eq] at h
  cases hr
  exact ⟨rfl, by simp [rawFits, fmtOf, hasExt, Src.fits.eq_1, Src.fits.eq_2, Src.fits.eq_3, Addr.a.eq_1, h] <;> omega⟩
theorem Sys2Proof.Laws.Encodes.sar (x : RB) : Sys2Proof.Laws.Encodes.Statement (.sar x) := by
  intro h r hr
  simp only [Instr.wf, RB.fits, Bool.and_eq_true, decide_eq_true_eq] at h
  cases hr
  exact ⟨rfl, by simp [rawFits, fmtOf, hasExt, Src.fits.eq_1, Src.fits.eq_2, Src.fits.eq_3, Addr.a.eq_1, h] <;> omega⟩
theorem Sys2Proof.Laws.Encodes.rol (x : RB) : Sys2Proof.Laws.Encodes.Statement (.rol x) := by
  intro h r hr
  simp only [Instr.wf, RB.fits, Bool.and_eq_true, decide_eq_true_eq] at h
  cases hr
  exact ⟨rfl, by simp [rawFits, fmtOf, hasExt, Src.fits.eq_1, Src.fits.eq_2, Src.fits.eq_3, Addr.a.eq_1, h] <;> omega⟩
theorem Sys2Proof.Laws.Encodes.ror (x : RB) : Sys2Proof.Laws.Encodes.Statement (.ror x) := by
  intro h r hr
  simp only [Instr.wf, RB.fits, Bool.and_eq_true, decide_eq_true_eq] at h
  cases hr
  exact ⟨rfl, by simp [rawFits, fmtOf, hasExt, Src.fits.eq_1, Src.fits.eq_2, Src.fits.eq_3, Addr.a.eq_1, h] <;> omega⟩
theorem Sys2Proof.Laws.Encodes.bfe (x : RX) : Sys2Proof.Laws.Encodes.Statement (.bfe x) := by
  intro h r hr
  simp only [Instr.wf, RX.fits, Bool.and_eq_true, decide_eq_true_eq] at h
  cases hr
  exact ⟨rfl, by simp [rawFits, fmtOf, hasExt, Src.fits.eq_1, Src.fits.eq_2, Src.fits.eq_3, Addr.a.eq_1, h] <;> omega⟩
theorem Sys2Proof.Laws.Encodes.bfeu (x : RX) : Sys2Proof.Laws.Encodes.Statement (.bfeu x) := by
  intro h r hr
  simp only [Instr.wf, RX.fits, Bool.and_eq_true, decide_eq_true_eq] at h
  cases hr
  exact ⟨rfl, by simp [rawFits, fmtOf, hasExt, Src.fits.eq_1, Src.fits.eq_2, Src.fits.eq_3, Addr.a.eq_1, h] <;> omega⟩
theorem Sys2Proof.Laws.Encodes.bfi (x : RX) : Sys2Proof.Laws.Encodes.Statement (.bfi x) := by
  intro h r hr
  simp only [Instr.wf, RX.fits, Bool.and_eq_true, decide_eq_true_eq] at h
  cases hr
  exact ⟨rfl, by simp [rawFits, fmtOf, hasExt, Src.fits.eq_1, Src.fits.eq_2, Src.fits.eq_3, Addr.a.eq_1, h] <;> omega⟩
theorem Sys2Proof.Laws.Encodes.popc (x : RU) : Sys2Proof.Laws.Encodes.Statement (.popc x) := by
  intro h r hr
  simp only [Instr.wf, RU.fits, Bool.and_eq_true, decide_eq_true_eq] at h
  cases hr
  exact ⟨rfl, by simp [rawFits, fmtOf, hasExt, Src.fits.eq_1, Src.fits.eq_2, Src.fits.eq_3, Addr.a.eq_1, h] <;> omega⟩
theorem Sys2Proof.Laws.Encodes.clz (x : RU) : Sys2Proof.Laws.Encodes.Statement (.clz x) := by
  intro h r hr
  simp only [Instr.wf, RU.fits, Bool.and_eq_true, decide_eq_true_eq] at h
  cases hr
  exact ⟨rfl, by simp [rawFits, fmtOf, hasExt, Src.fits.eq_1, Src.fits.eq_2, Src.fits.eq_3, Addr.a.eq_1, h] <;> omega⟩
theorem Sys2Proof.Laws.Encodes.brev (x : RU) : Sys2Proof.Laws.Encodes.Statement (.brev x) := by
  intro h r hr
  simp only [Instr.wf, RU.fits, Bool.and_eq_true, decide_eq_true_eq] at h
  cases hr
  exact ⟨rfl, by simp [rawFits, fmtOf, hasExt, Src.fits.eq_1, Src.fits.eq_2, Src.fits.eq_3, Addr.a.eq_1, h] <;> omega⟩
theorem Sys2Proof.Laws.Encodes.prmtB (x : RX) : Sys2Proof.Laws.Encodes.Statement (.prmtB x) := by
  intro h r hr
  simp only [Instr.wf, RX.fits, Bool.and_eq_true, decide_eq_true_eq] at h
  cases hr
  exact ⟨rfl, by simp [rawFits, fmtOf, hasExt, Src.fits.eq_1, Src.fits.eq_2, Src.fits.eq_3, Addr.a.eq_1, h] <;> omega⟩
theorem Sys2Proof.Laws.Encodes.prmtN (x : RX) : Sys2Proof.Laws.Encodes.Statement (.prmtN x) := by
  intro h r hr
  simp only [Instr.wf, RX.fits, Bool.and_eq_true, decide_eq_true_eq] at h
  cases hr
  exact ⟨rfl, by simp [rawFits, fmtOf, hasExt, Src.fits.eq_1, Src.fits.eq_2, Src.fits.eq_3, Addr.a.eq_1, h] <;> omega⟩
theorem Sys2Proof.Laws.Encodes.icmpEq (x : RB) : Sys2Proof.Laws.Encodes.Statement (.icmpEq x) := by
  intro h r hr
  simp only [Instr.wf, RB.fits, Bool.and_eq_true, decide_eq_true_eq] at h
  cases hr
  exact ⟨rfl, by simp [rawFits, fmtOf, hasExt, Src.fits.eq_1, Src.fits.eq_2, Src.fits.eq_3, Addr.a.eq_1, h] <;> omega⟩
theorem Sys2Proof.Laws.Encodes.icmpNe (x : RB) : Sys2Proof.Laws.Encodes.Statement (.icmpNe x) := by
  intro h r hr
  simp only [Instr.wf, RB.fits, Bool.and_eq_true, decide_eq_true_eq] at h
  cases hr
  exact ⟨rfl, by simp [rawFits, fmtOf, hasExt, Src.fits.eq_1, Src.fits.eq_2, Src.fits.eq_3, Addr.a.eq_1, h] <;> omega⟩
theorem Sys2Proof.Laws.Encodes.icmpLt (x : RB) : Sys2Proof.Laws.Encodes.Statement (.icmpLt x) := by
  intro h r hr
  simp only [Instr.wf, RB.fits, Bool.and_eq_true, decide_eq_true_eq] at h
  cases hr
  exact ⟨rfl, by simp [rawFits, fmtOf, hasExt, Src.fits.eq_1, Src.fits.eq_2, Src.fits.eq_3, Addr.a.eq_1, h] <;> omega⟩
theorem Sys2Proof.Laws.Encodes.icmpLe (x : RB) : Sys2Proof.Laws.Encodes.Statement (.icmpLe x) := by
  intro h r hr
  simp only [Instr.wf, RB.fits, Bool.and_eq_true, decide_eq_true_eq] at h
  cases hr
  exact ⟨rfl, by simp [rawFits, fmtOf, hasExt, Src.fits.eq_1, Src.fits.eq_2, Src.fits.eq_3, Addr.a.eq_1, h] <;> omega⟩
theorem Sys2Proof.Laws.Encodes.icmpGt (x : RB) : Sys2Proof.Laws.Encodes.Statement (.icmpGt x) := by
  intro h r hr
  simp only [Instr.wf, RB.fits, Bool.and_eq_true, decide_eq_true_eq] at h
  cases hr
  exact ⟨rfl, by simp [rawFits, fmtOf, hasExt, Src.fits.eq_1, Src.fits.eq_2, Src.fits.eq_3, Addr.a.eq_1, h] <;> omega⟩
theorem Sys2Proof.Laws.Encodes.icmpGe (x : RB) : Sys2Proof.Laws.Encodes.Statement (.icmpGe x) := by
  intro h r hr
  simp only [Instr.wf, RB.fits, Bool.and_eq_true, decide_eq_true_eq] at h
  cases hr
  exact ⟨rfl, by simp [rawFits, fmtOf, hasExt, Src.fits.eq_1, Src.fits.eq_2, Src.fits.eq_3, Addr.a.eq_1, h] <;> omega⟩
theorem Sys2Proof.Laws.Encodes.icmpLtu (x : RB) : Sys2Proof.Laws.Encodes.Statement (.icmpLtu x) := by
  intro h r hr
  simp only [Instr.wf, RB.fits, Bool.and_eq_true, decide_eq_true_eq] at h
  cases hr
  exact ⟨rfl, by simp [rawFits, fmtOf, hasExt, Src.fits.eq_1, Src.fits.eq_2, Src.fits.eq_3, Addr.a.eq_1, h] <;> omega⟩
theorem Sys2Proof.Laws.Encodes.icmpGeu (x : RB) : Sys2Proof.Laws.Encodes.Statement (.icmpGeu x) := by
  intro h r hr
  simp only [Instr.wf, RB.fits, Bool.and_eq_true, decide_eq_true_eq] at h
  cases hr
  exact ⟨rfl, by simp [rawFits, fmtOf, hasExt, Src.fits.eq_1, Src.fits.eq_2, Src.fits.eq_3, Addr.a.eq_1, h] <;> omega⟩
theorem Sys2Proof.Laws.Encodes.pand (x : RB) : Sys2Proof.Laws.Encodes.Statement (.pand x) := by
  intro h r hr
  simp only [Instr.wf, RB.fits, Bool.and_eq_true, decide_eq_true_eq] at h
  cases hr
  exact ⟨rfl, by simp [rawFits, fmtOf, hasExt, Src.fits.eq_1, Src.fits.eq_2, Src.fits.eq_3, Addr.a.eq_1, h] <;> omega⟩
theorem Sys2Proof.Laws.Encodes.por (x : RB) : Sys2Proof.Laws.Encodes.Statement (.por x) := by
  intro h r hr
  simp only [Instr.wf, RB.fits, Bool.and_eq_true, decide_eq_true_eq] at h
  cases hr
  exact ⟨rfl, by simp [rawFits, fmtOf, hasExt, Src.fits.eq_1, Src.fits.eq_2, Src.fits.eq_3, Addr.a.eq_1, h] <;> omega⟩
theorem Sys2Proof.Laws.Encodes.pxor (x : RB) : Sys2Proof.Laws.Encodes.Statement (.pxor x) := by
  intro h r hr
  simp only [Instr.wf, RB.fits, Bool.and_eq_true, decide_eq_true_eq] at h
  cases hr
  exact ⟨rfl, by simp [rawFits, fmtOf, hasExt, Src.fits.eq_1, Src.fits.eq_2, Src.fits.eq_3, Addr.a.eq_1, h] <;> omega⟩
theorem Sys2Proof.Laws.Encodes.pnot (x : RU) : Sys2Proof.Laws.Encodes.Statement (.pnot x) := by
  intro h r hr
  simp only [Instr.wf, RU.fits, Bool.and_eq_true, decide_eq_true_eq] at h
  cases hr
  exact ⟨rfl, by simp [rawFits, fmtOf, hasExt, Src.fits.eq_1, Src.fits.eq_2, Src.fits.eq_3, Addr.a.eq_1, h] <;> omega⟩
theorem Sys2Proof.Laws.Encodes.pmov (x : RU) : Sys2Proof.Laws.Encodes.Statement (.pmov x) := by
  intro h r hr
  simp only [Instr.wf, RU.fits, Bool.and_eq_true, decide_eq_true_eq] at h
  cases hr
  exact ⟨rfl, by simp [rawFits, fmtOf, hasExt, Src.fits.eq_1, Src.fits.eq_2, Src.fits.eq_3, Addr.a.eq_1, h] <;> omega⟩
theorem Sys2Proof.Laws.Encodes.p2v (x : RB) : Sys2Proof.Laws.Encodes.Statement (.p2v x) := by
  intro h r hr
  simp only [Instr.wf, RB.fits, Bool.and_eq_true, decide_eq_true_eq] at h
  cases hr
  exact ⟨rfl, by simp [rawFits, fmtOf, hasExt, Src.fits.eq_1, Src.fits.eq_2, Src.fits.eq_3, Addr.a.eq_1, h] <;> omega⟩
theorem Sys2Proof.Laws.Encodes.v2p (x : RB) : Sys2Proof.Laws.Encodes.Statement (.v2p x) := by
  intro h r hr
  simp only [Instr.wf, RB.fits, Bool.and_eq_true, decide_eq_true_eq] at h
  cases hr
  exact ⟨rfl, by simp [rawFits, fmtOf, hasExt, Src.fits.eq_1, Src.fits.eq_2, Src.fits.eq_3, Addr.a.eq_1, h] <;> omega⟩
theorem Sys2Proof.Laws.Encodes.aff (x : RB) : Sys2Proof.Laws.Encodes.Statement (.aff x) := by
  intro h r hr
  simp only [Instr.wf, RB.fits, Bool.and_eq_true, decide_eq_true_eq] at h
  cases hr
  exact ⟨rfl, by simp [rawFits, fmtOf, hasExt, Src.fits.eq_1, Src.fits.eq_2, Src.fits.eq_3, Addr.a.eq_1, h] <;> omega⟩
theorem Sys2Proof.Laws.Encodes.shape (x : RU) : Sys2Proof.Laws.Encodes.Statement (.shape x) := by
  intro h r hr
  simp only [Instr.wf, RU.fits, Bool.and_eq_true, decide_eq_true_eq] at h
  cases hr
  exact ⟨rfl, by simp [rawFits, fmtOf, hasExt, Src.fits.eq_1, Src.fits.eq_2, Src.fits.eq_3, Addr.a.eq_1, h] <;> omega⟩
theorem Sys2Proof.Laws.Encodes.expand (x : RU) : Sys2Proof.Laws.Encodes.Statement (.expand x) := by
  intro h r hr
  simp only [Instr.wf, RU.fits, Bool.and_eq_true, decide_eq_true_eq] at h
  cases hr
  exact ⟨rfl, by simp [rawFits, fmtOf, hasExt, Src.fits.eq_1, Src.fits.eq_2, Src.fits.eq_3, Addr.a.eq_1, h] <;> omega⟩
theorem Sys2Proof.Laws.Encodes.squeeze (x : RU) : Sys2Proof.Laws.Encodes.Statement (.squeeze x) := by
  intro h r hr
  simp only [Instr.wf, RU.fits, Bool.and_eq_true, decide_eq_true_eq] at h
  cases hr
  exact ⟨rfl, by simp [rawFits, fmtOf, hasExt, Src.fits.eq_1, Src.fits.eq_2, Src.fits.eq_3, Addr.a.eq_1, h] <;> omega⟩
theorem Sys2Proof.Laws.Encodes.shflIdx (x : RB) : Sys2Proof.Laws.Encodes.Statement (.shflIdx x) := by
  intro h r hr
  simp only [Instr.wf, RB.fits, Bool.and_eq_true, decide_eq_true_eq] at h
  cases hr
  exact ⟨rfl, by simp [rawFits, fmtOf, hasExt, Src.fits.eq_1, Src.fits.eq_2, Src.fits.eq_3, Addr.a.eq_1, h] <;> omega⟩
theorem Sys2Proof.Laws.Encodes.shflUp (x : RB) : Sys2Proof.Laws.Encodes.Statement (.shflUp x) := by
  intro h r hr
  simp only [Instr.wf, RB.fits, Bool.and_eq_true, decide_eq_true_eq] at h
  cases hr
  exact ⟨rfl, by simp [rawFits, fmtOf, hasExt, Src.fits.eq_1, Src.fits.eq_2, Src.fits.eq_3, Addr.a.eq_1, h] <;> omega⟩
theorem Sys2Proof.Laws.Encodes.shflDn (x : RB) : Sys2Proof.Laws.Encodes.Statement (.shflDn x) := by
  intro h r hr
  simp only [Instr.wf, RB.fits, Bool.and_eq_true, decide_eq_true_eq] at h
  cases hr
  exact ⟨rfl, by simp [rawFits, fmtOf, hasExt, Src.fits.eq_1, Src.fits.eq_2, Src.fits.eq_3, Addr.a.eq_1, h] <;> omega⟩
theorem Sys2Proof.Laws.Encodes.shflXor (x : RB) : Sys2Proof.Laws.Encodes.Statement (.shflXor x) := by
  intro h r hr
  simp only [Instr.wf, RB.fits, Bool.and_eq_true, decide_eq_true_eq] at h
  cases hr
  exact ⟨rfl, by simp [rawFits, fmtOf, hasExt, Src.fits.eq_1, Src.fits.eq_2, Src.fits.eq_3, Addr.a.eq_1, h] <;> omega⟩
theorem Sys2Proof.Laws.Encodes.voteAny (x : RU) : Sys2Proof.Laws.Encodes.Statement (.voteAny x) := by
  intro h r hr
  simp only [Instr.wf, RU.fits, Bool.and_eq_true, decide_eq_true_eq] at h
  cases hr
  exact ⟨rfl, by simp [rawFits, fmtOf, hasExt, Src.fits.eq_1, Src.fits.eq_2, Src.fits.eq_3, Addr.a.eq_1, h] <;> omega⟩
theorem Sys2Proof.Laws.Encodes.voteAll (x : RU) : Sys2Proof.Laws.Encodes.Statement (.voteAll x) := by
  intro h r hr
  simp only [Instr.wf, RU.fits, Bool.and_eq_true, decide_eq_true_eq] at h
  cases hr
  exact ⟨rfl, by simp [rawFits, fmtOf, hasExt, Src.fits.eq_1, Src.fits.eq_2, Src.fits.eq_3, Addr.a.eq_1, h] <;> omega⟩
theorem Sys2Proof.Laws.Encodes.voteBal (x : RU) : Sys2Proof.Laws.Encodes.Statement (.voteBal x) := by
  intro h r hr
  simp only [Instr.wf, RU.fits, Bool.and_eq_true, decide_eq_true_eq] at h
  cases hr
  exact ⟨rfl, by simp [rawFits, fmtOf, hasExt, Src.fits.eq_1, Src.fits.eq_2, Src.fits.eq_3, Addr.a.eq_1, h] <;> omega⟩
theorem Sys2Proof.Laws.Encodes.elect (x : RD) : Sys2Proof.Laws.Encodes.Statement (.elect x) := by
  intro h r hr
  simp only [Instr.wf, RD.fits, Bool.and_eq_true, decide_eq_true_eq] at h
  cases hr
  exact ⟨rfl, by simp [rawFits, fmtOf, hasExt, Src.fits.eq_1, Src.fits.eq_2, Src.fits.eq_3, Addr.a.eq_1, h] <;> omega⟩
theorem Sys2Proof.Laws.Encodes.redxAdd (x : RU) : Sys2Proof.Laws.Encodes.Statement (.redxAdd x) := by
  intro h r hr
  simp only [Instr.wf, RU.fits, Bool.and_eq_true, decide_eq_true_eq] at h
  cases hr
  exact ⟨rfl, by simp [rawFits, fmtOf, hasExt, Src.fits.eq_1, Src.fits.eq_2, Src.fits.eq_3, Addr.a.eq_1, h] <;> omega⟩
theorem Sys2Proof.Laws.Encodes.redxMin (x : RU) : Sys2Proof.Laws.Encodes.Statement (.redxMin x) := by
  intro h r hr
  simp only [Instr.wf, RU.fits, Bool.and_eq_true, decide_eq_true_eq] at h
  cases hr
  exact ⟨rfl, by simp [rawFits, fmtOf, hasExt, Src.fits.eq_1, Src.fits.eq_2, Src.fits.eq_3, Addr.a.eq_1, h] <;> omega⟩
theorem Sys2Proof.Laws.Encodes.redxMax (x : RU) : Sys2Proof.Laws.Encodes.Statement (.redxMax x) := by
  intro h r hr
  simp only [Instr.wf, RU.fits, Bool.and_eq_true, decide_eq_true_eq] at h
  cases hr
  exact ⟨rfl, by simp [rawFits, fmtOf, hasExt, Src.fits.eq_1, Src.fits.eq_2, Src.fits.eq_3, Addr.a.eq_1, h] <;> omega⟩
theorem Sys2Proof.Laws.Encodes.redxMinu (x : RU) : Sys2Proof.Laws.Encodes.Statement (.redxMinu x) := by
  intro h r hr
  simp only [Instr.wf, RU.fits, Bool.and_eq_true, decide_eq_true_eq] at h
  cases hr
  exact ⟨rfl, by simp [rawFits, fmtOf, hasExt, Src.fits.eq_1, Src.fits.eq_2, Src.fits.eq_3, Addr.a.eq_1, h] <;> omega⟩
theorem Sys2Proof.Laws.Encodes.redxMaxu (x : RU) : Sys2Proof.Laws.Encodes.Statement (.redxMaxu x) := by
  intro h r hr
  simp only [Instr.wf, RU.fits, Bool.and_eq_true, decide_eq_true_eq] at h
  cases hr
  exact ⟨rfl, by simp [rawFits, fmtOf, hasExt, Src.fits.eq_1, Src.fits.eq_2, Src.fits.eq_3, Addr.a.eq_1, h] <;> omega⟩
theorem Sys2Proof.Laws.Encodes.redxAnd (x : RU) : Sys2Proof.Laws.Encodes.Statement (.redxAnd x) := by
  intro h r hr
  simp only [Instr.wf, RU.fits, Bool.and_eq_true, decide_eq_true_eq] at h
  cases hr
  exact ⟨rfl, by simp [rawFits, fmtOf, hasExt, Src.fits.eq_1, Src.fits.eq_2, Src.fits.eq_3, Addr.a.eq_1, h] <;> omega⟩
theorem Sys2Proof.Laws.Encodes.redxOr (x : RU) : Sys2Proof.Laws.Encodes.Statement (.redxOr x) := by
  intro h r hr
  simp only [Instr.wf, RU.fits, Bool.and_eq_true, decide_eq_true_eq] at h
  cases hr
  exact ⟨rfl, by simp [rawFits, fmtOf, hasExt, Src.fits.eq_1, Src.fits.eq_2, Src.fits.eq_3, Addr.a.eq_1, h] <;> omega⟩
theorem Sys2Proof.Laws.Encodes.redxFadd (x : RU) : Sys2Proof.Laws.Encodes.Statement (.redxFadd x) := by
  intro h r hr
  simp only [Instr.wf, RU.fits, Bool.and_eq_true, decide_eq_true_eq] at h
  cases hr
  exact ⟨rfl, by simp [rawFits, fmtOf, hasExt, Src.fits.eq_1, Src.fits.eq_2, Src.fits.eq_3, Addr.a.eq_1, h] <;> omega⟩
theorem Sys2Proof.Laws.Encodes.bra (x : BDisp) : Sys2Proof.Laws.Encodes.Statement (.bra x) := by
  intro h r hr
  simp only [Instr.wf, BDisp.fits, Bool.and_eq_true, decide_eq_true_eq] at h
  cases hr
  exact ⟨by simp [Raw.toInstr, ofB, sx_toPat h.2.1 h.2.2], by simp [rawFits, h, toPat_lt]⟩
theorem Sys2Proof.Laws.Encodes.brxV (x : BReg) : Sys2Proof.Laws.Encodes.Statement (.brxV x) := by
  intro h r hr
  simp only [Instr.wf, BReg.fits, Bool.and_eq_true, decide_eq_true_eq] at h
  cases hr
  refine ⟨?_, by simp [rawFits, h]; omega⟩
  show (if x.a + 0 < 128 then some (Instr.brxV ⟨x.c, x.a + 0⟩) else _) = _
  rw [if_pos (by omega)]; rfl
theorem Sys2Proof.Laws.Encodes.brxS (x : BReg) : Sys2Proof.Laws.Encodes.Statement (.brxS x) := by
  intro h r hr
  simp only [Instr.wf, BReg.fits, Bool.and_eq_true, decide_eq_true_eq] at h
  cases hr
  refine ⟨?_, by simp [rawFits, h]; omega⟩
  show (if x.a + 128 < 128 then some (Instr.brxV ⟨x.c, x.a + 128⟩) else if x.a + 128 < 192 then some (Instr.brxS ⟨x.c, x.a + 128 - 128⟩) else none) = _
  rw [if_neg (by omega), if_pos (by omega), Nat.add_sub_cancel]
theorem Sys2Proof.Laws.Encodes.call (x : BDisp) : Sys2Proof.Laws.Encodes.Statement (.call x) := by
  intro h r hr
  simp only [Instr.wf, BDisp.fits, Bool.and_eq_true, decide_eq_true_eq] at h
  cases hr
  exact ⟨by simp [Raw.toInstr, ofB, sx_toPat h.2.1 h.2.2], by simp [rawFits, h, toPat_lt]⟩
theorem Sys2Proof.Laws.Encodes.callxV (x : BReg) : Sys2Proof.Laws.Encodes.Statement (.callxV x) := by
  intro h r hr
  simp only [Instr.wf, BReg.fits, Bool.and_eq_true, decide_eq_true_eq] at h
  cases hr
  refine ⟨?_, by simp [rawFits, h]; omega⟩
  show (if x.a + 0 < 128 then some (Instr.callxV ⟨x.c, x.a + 0⟩) else _) = _
  rw [if_pos (by omega)]; rfl
theorem Sys2Proof.Laws.Encodes.callxS (x : BReg) : Sys2Proof.Laws.Encodes.Statement (.callxS x) := by
  intro h r hr
  simp only [Instr.wf, BReg.fits, Bool.and_eq_true, decide_eq_true_eq] at h
  cases hr
  refine ⟨?_, by simp [rawFits, h]; omega⟩
  show (if x.a + 128 < 128 then some (Instr.callxV ⟨x.c, x.a + 128⟩) else if x.a + 128 < 192 then some (Instr.callxS ⟨x.c, x.a + 128 - 128⟩) else none) = _
  rw [if_neg (by omega), if_pos (by omega), Nat.add_sub_cancel]
theorem Sys2Proof.Laws.Encodes.ret (x : C0) : Sys2Proof.Laws.Encodes.Statement (.ret x) := by
  intro h r hr
  simp only [Instr.wf, C0.fits, Bool.and_eq_true, decide_eq_true_eq] at h
  cases hr
  exact ⟨rfl, by simp [rawFits, h]⟩
theorem Sys2Proof.Laws.Encodes.recon (x : C0) : Sys2Proof.Laws.Encodes.Statement (.recon x) := by
  intro h r hr
  simp only [Instr.wf, C0.fits, Bool.and_eq_true, decide_eq_true_eq] at h
  cases hr
  exact ⟨rfl, by simp [rawFits, h]⟩
theorem Sys2Proof.Laws.Encodes.yield (x : C0) : Sys2Proof.Laws.Encodes.Statement (.yield x) := by
  intro h r hr
  simp only [Instr.wf, C0.fits, Bool.and_eq_true, decide_eq_true_eq] at h
  cases hr
  exact ⟨rfl, by simp [rawFits, h]⟩
theorem Sys2Proof.Laws.Encodes.exit (x : C0) : Sys2Proof.Laws.Encodes.Statement (.exit x) := by
  intro h r hr
  simp only [Instr.wf, C0.fits, Bool.and_eq_true, decide_eq_true_eq] at h
  cases hr
  exact ⟨rfl, by simp [rawFits, h]⟩
theorem Sys2Proof.Laws.Encodes.join (x : RAB) : Sys2Proof.Laws.Encodes.Statement (.join x) := by
  intro h r hr
  simp only [Instr.wf, RAB.fits, Bool.and_eq_true, decide_eq_true_eq] at h
  cases hr
  exact ⟨rfl, by simp [rawFits, fmtOf, hasExt, Src.fits.eq_1, Src.fits.eq_2, Src.fits.eq_3, Addr.a.eq_1, h] <;> omega⟩
theorem Sys2Proof.Laws.Encodes.leave (x : C0) : Sys2Proof.Laws.Encodes.Statement (.leave x) := by
  intro h r hr
  simp only [Instr.wf, C0.fits, Bool.and_eq_true, decide_eq_true_eq] at h
  cases hr
  exact ⟨rfl, by simp [rawFits, fmtOf, hasExt, Src.fits.eq_1, Src.fits.eq_2, Src.fits.eq_3, Addr.a.eq_1, h] <;> omega⟩
theorem Sys2Proof.Laws.Encodes.tinfo (x : RDB) : Sys2Proof.Laws.Encodes.Statement (.tinfo x) := by
  intro h r hr
  simp only [Instr.wf, RDB.fits, Bool.and_eq_true, decide_eq_true_eq] at h
  cases hr
  exact ⟨rfl, by simp [rawFits, fmtOf, hasExt, Src.fits.eq_1, Src.fits.eq_2, Src.fits.eq_3, Addr.a.eq_1, h] <;> omega⟩
theorem Sys2Proof.Laws.Encodes.fadd (x : RB) : Sys2Proof.Laws.Encodes.Statement (.fadd x) := by
  intro h r hr
  simp only [Instr.wf, RB.fits, Bool.and_eq_true, decide_eq_true_eq] at h
  cases hr
  exact ⟨rfl, by simp [rawFits, fmtOf, hasExt, Src.fits.eq_1, Src.fits.eq_2, Src.fits.eq_3, Addr.a.eq_1, h] <;> omega⟩
theorem Sys2Proof.Laws.Encodes.fsub (x : RB) : Sys2Proof.Laws.Encodes.Statement (.fsub x) := by
  intro h r hr
  simp only [Instr.wf, RB.fits, Bool.and_eq_true, decide_eq_true_eq] at h
  cases hr
  exact ⟨rfl, by simp [rawFits, fmtOf, hasExt, Src.fits.eq_1, Src.fits.eq_2, Src.fits.eq_3, Addr.a.eq_1, h] <;> omega⟩
theorem Sys2Proof.Laws.Encodes.fmul (x : RB) : Sys2Proof.Laws.Encodes.Statement (.fmul x) := by
  intro h r hr
  simp only [Instr.wf, RB.fits, Bool.and_eq_true, decide_eq_true_eq] at h
  cases hr
  exact ⟨rfl, by simp [rawFits, fmtOf, hasExt, Src.fits.eq_1, Src.fits.eq_2, Src.fits.eq_3, Addr.a.eq_1, h] <;> omega⟩
theorem Sys2Proof.Laws.Encodes.fmin (x : RB) : Sys2Proof.Laws.Encodes.Statement (.fmin x) := by
  intro h r hr
  simp only [Instr.wf, RB.fits, Bool.and_eq_true, decide_eq_true_eq] at h
  cases hr
  exact ⟨rfl, by simp [rawFits, fmtOf, hasExt, Src.fits.eq_1, Src.fits.eq_2, Src.fits.eq_3, Addr.a.eq_1, h] <;> omega⟩
theorem Sys2Proof.Laws.Encodes.fmax (x : RB) : Sys2Proof.Laws.Encodes.Statement (.fmax x) := by
  intro h r hr
  simp only [Instr.wf, RB.fits, Bool.and_eq_true, decide_eq_true_eq] at h
  cases hr
  exact ⟨rfl, by simp [rawFits, fmtOf, hasExt, Src.fits.eq_1, Src.fits.eq_2, Src.fits.eq_3, Addr.a.eq_1, h] <;> omega⟩
theorem Sys2Proof.Laws.Encodes.ffma (x : RX) : Sys2Proof.Laws.Encodes.Statement (.ffma x) := by
  intro h r hr
  simp only [Instr.wf, RX.fits, Bool.and_eq_true, decide_eq_true_eq] at h
  cases hr
  exact ⟨rfl, by simp [rawFits, fmtOf, hasExt, Src.fits.eq_1, Src.fits.eq_2, Src.fits.eq_3, Addr.a.eq_1, h] <;> omega⟩
theorem Sys2Proof.Laws.Encodes.ffms (x : RX) : Sys2Proof.Laws.Encodes.Statement (.ffms x) := by
  intro h r hr
  simp only [Instr.wf, RX.fits, Bool.and_eq_true, decide_eq_true_eq] at h
  cases hr
  exact ⟨rfl, by simp [rawFits, fmtOf, hasExt, Src.fits.eq_1, Src.fits.eq_2, Src.fits.eq_3, Addr.a.eq_1, h] <;> omega⟩
theorem Sys2Proof.Laws.Encodes.fnma (x : RX) : Sys2Proof.Laws.Encodes.Statement (.fnma x) := by
  intro h r hr
  simp only [Instr.wf, RX.fits, Bool.and_eq_true, decide_eq_true_eq] at h
  cases hr
  exact ⟨rfl, by simp [rawFits, fmtOf, hasExt, Src.fits.eq_1, Src.fits.eq_2, Src.fits.eq_3, Addr.a.eq_1, h] <;> omega⟩
theorem Sys2Proof.Laws.Encodes.fcmpEq (x : RB) : Sys2Proof.Laws.Encodes.Statement (.fcmpEq x) := by
  intro h r hr
  simp only [Instr.wf, RB.fits, Bool.and_eq_true, decide_eq_true_eq] at h
  cases hr
  exact ⟨rfl, by simp [rawFits, fmtOf, hasExt, Src.fits.eq_1, Src.fits.eq_2, Src.fits.eq_3, Addr.a.eq_1, h] <;> omega⟩
theorem Sys2Proof.Laws.Encodes.fcmpNe (x : RB) : Sys2Proof.Laws.Encodes.Statement (.fcmpNe x) := by
  intro h r hr
  simp only [Instr.wf, RB.fits, Bool.and_eq_true, decide_eq_true_eq] at h
  cases hr
  exact ⟨rfl, by simp [rawFits, fmtOf, hasExt, Src.fits.eq_1, Src.fits.eq_2, Src.fits.eq_3, Addr.a.eq_1, h] <;> omega⟩
theorem Sys2Proof.Laws.Encodes.fcmpLt (x : RB) : Sys2Proof.Laws.Encodes.Statement (.fcmpLt x) := by
  intro h r hr
  simp only [Instr.wf, RB.fits, Bool.and_eq_true, decide_eq_true_eq] at h
  cases hr
  exact ⟨rfl, by simp [rawFits, fmtOf, hasExt, Src.fits.eq_1, Src.fits.eq_2, Src.fits.eq_3, Addr.a.eq_1, h] <;> omega⟩
theorem Sys2Proof.Laws.Encodes.fcmpLe (x : RB) : Sys2Proof.Laws.Encodes.Statement (.fcmpLe x) := by
  intro h r hr
  simp only [Instr.wf, RB.fits, Bool.and_eq_true, decide_eq_true_eq] at h
  cases hr
  exact ⟨rfl, by simp [rawFits, fmtOf, hasExt, Src.fits.eq_1, Src.fits.eq_2, Src.fits.eq_3, Addr.a.eq_1, h] <;> omega⟩
theorem Sys2Proof.Laws.Encodes.fcmpGt (x : RB) : Sys2Proof.Laws.Encodes.Statement (.fcmpGt x) := by
  intro h r hr
  simp only [Instr.wf, RB.fits, Bool.and_eq_true, decide_eq_true_eq] at h
  cases hr
  exact ⟨rfl, by simp [rawFits, fmtOf, hasExt, Src.fits.eq_1, Src.fits.eq_2, Src.fits.eq_3, Addr.a.eq_1, h] <;> omega⟩
theorem Sys2Proof.Laws.Encodes.fcmpGe (x : RB) : Sys2Proof.Laws.Encodes.Statement (.fcmpGe x) := by
  intro h r hr
  simp only [Instr.wf, RB.fits, Bool.and_eq_true, decide_eq_true_eq] at h
  cases hr
  exact ⟨rfl, by simp [rawFits, fmtOf, hasExt, Src.fits.eq_1, Src.fits.eq_2, Src.fits.eq_3, Addr.a.eq_1, h] <;> omega⟩
theorem Sys2Proof.Laws.Encodes.fcmpUn (x : RB) : Sys2Proof.Laws.Encodes.Statement (.fcmpUn x) := by
  intro h r hr
  simp only [Instr.wf, RB.fits, Bool.and_eq_true, decide_eq_true_eq] at h
  cases hr
  exact ⟨rfl, by simp [rawFits, fmtOf, hasExt, Src.fits.eq_1, Src.fits.eq_2, Src.fits.eq_3, Addr.a.eq_1, h] <;> omega⟩
theorem Sys2Proof.Laws.Encodes.fcmpOr (x : RB) : Sys2Proof.Laws.Encodes.Statement (.fcmpOr x) := by
  intro h r hr
  simp only [Instr.wf, RB.fits, Bool.and_eq_true, decide_eq_true_eq] at h
  cases hr
  exact ⟨rfl, by simp [rawFits, fmtOf, hasExt, Src.fits.eq_1, Src.fits.eq_2, Src.fits.eq_3, Addr.a.eq_1, h] <;> omega⟩
theorem Sys2Proof.Laws.Encodes.frcp (x : RU) : Sys2Proof.Laws.Encodes.Statement (.frcp x) := by
  intro h r hr
  simp only [Instr.wf, RU.fits, Bool.and_eq_true, decide_eq_true_eq] at h
  cases hr
  exact ⟨rfl, by simp [rawFits, fmtOf, hasExt, Src.fits.eq_1, Src.fits.eq_2, Src.fits.eq_3, Addr.a.eq_1, h] <;> omega⟩
theorem Sys2Proof.Laws.Encodes.frsq (x : RU) : Sys2Proof.Laws.Encodes.Statement (.frsq x) := by
  intro h r hr
  simp only [Instr.wf, RU.fits, Bool.and_eq_true, decide_eq_true_eq] at h
  cases hr
  exact ⟨rfl, by simp [rawFits, fmtOf, hasExt, Src.fits.eq_1, Src.fits.eq_2, Src.fits.eq_3, Addr.a.eq_1, h] <;> omega⟩
theorem Sys2Proof.Laws.Encodes.fsqrt (x : RU) : Sys2Proof.Laws.Encodes.Statement (.fsqrt x) := by
  intro h r hr
  simp only [Instr.wf, RU.fits, Bool.and_eq_true, decide_eq_true_eq] at h
  cases hr
  exact ⟨rfl, by simp [rawFits, fmtOf, hasExt, Src.fits.eq_1, Src.fits.eq_2, Src.fits.eq_3, Addr.a.eq_1, h] <;> omega⟩
theorem Sys2Proof.Laws.Encodes.fexp2 (x : RU) : Sys2Proof.Laws.Encodes.Statement (.fexp2 x) := by
  intro h r hr
  simp only [Instr.wf, RU.fits, Bool.and_eq_true, decide_eq_true_eq] at h
  cases hr
  exact ⟨rfl, by simp [rawFits, fmtOf, hasExt, Src.fits.eq_1, Src.fits.eq_2, Src.fits.eq_3, Addr.a.eq_1, h] <;> omega⟩
theorem Sys2Proof.Laws.Encodes.flog2 (x : RU) : Sys2Proof.Laws.Encodes.Statement (.flog2 x) := by
  intro h r hr
  simp only [Instr.wf, RU.fits, Bool.and_eq_true, decide_eq_true_eq] at h
  cases hr
  exact ⟨rfl, by simp [rawFits, fmtOf, hasExt, Src.fits.eq_1, Src.fits.eq_2, Src.fits.eq_3, Addr.a.eq_1, h] <;> omega⟩
theorem Sys2Proof.Laws.Encodes.fsin (x : RU) : Sys2Proof.Laws.Encodes.Statement (.fsin x) := by
  intro h r hr
  simp only [Instr.wf, RU.fits, Bool.and_eq_true, decide_eq_true_eq] at h
  cases hr
  exact ⟨rfl, by simp [rawFits, fmtOf, hasExt, Src.fits.eq_1, Src.fits.eq_2, Src.fits.eq_3, Addr.a.eq_1, h] <;> omega⟩
theorem Sys2Proof.Laws.Encodes.fcos (x : RU) : Sys2Proof.Laws.Encodes.Statement (.fcos x) := by
  intro h r hr
  simp only [Instr.wf, RU.fits, Bool.and_eq_true, decide_eq_true_eq] at h
  cases hr
  exact ⟨rfl, by simp [rawFits, fmtOf, hasExt, Src.fits.eq_1, Src.fits.eq_2, Src.fits.eq_3, Addr.a.eq_1, h] <;> omega⟩
theorem Sys2Proof.Laws.Encodes.ftanh (x : RU) : Sys2Proof.Laws.Encodes.Statement (.ftanh x) := by
  intro h r hr
  simp only [Instr.wf, RU.fits, Bool.and_eq_true, decide_eq_true_eq] at h
  cases hr
  exact ⟨rfl, by simp [rawFits, fmtOf, hasExt, Src.fits.eq_1, Src.fits.eq_2, Src.fits.eq_3, Addr.a.eq_1, h] <;> omega⟩
theorem Sys2Proof.Laws.Encodes.dadd (x : RB) : Sys2Proof.Laws.Encodes.Statement (.dadd x) := by
  intro h r hr
  simp only [Instr.wf, RB.fits, Bool.and_eq_true, decide_eq_true_eq] at h
  cases hr
  exact ⟨rfl, by simp [rawFits, fmtOf, hasExt, Src.fits.eq_1, Src.fits.eq_2, Src.fits.eq_3, Addr.a.eq_1, h] <;> omega⟩
theorem Sys2Proof.Laws.Encodes.dmul (x : RB) : Sys2Proof.Laws.Encodes.Statement (.dmul x) := by
  intro h r hr
  simp only [Instr.wf, RB.fits, Bool.and_eq_true, decide_eq_true_eq] at h
  cases hr
  exact ⟨rfl, by simp [rawFits, fmtOf, hasExt, Src.fits.eq_1, Src.fits.eq_2, Src.fits.eq_3, Addr.a.eq_1, h] <;> omega⟩
theorem Sys2Proof.Laws.Encodes.dfma (x : RX) : Sys2Proof.Laws.Encodes.Statement (.dfma x) := by
  intro h r hr
  simp only [Instr.wf, RX.fits, Bool.and_eq_true, decide_eq_true_eq] at h
  cases hr
  exact ⟨rfl, by simp [rawFits, fmtOf, hasExt, Src.fits.eq_1, Src.fits.eq_2, Src.fits.eq_3, Addr.a.eq_1, h] <;> omega⟩
theorem Sys2Proof.Laws.Encodes.dmin (x : RB) : Sys2Proof.Laws.Encodes.Statement (.dmin x) := by
  intro h r hr
  simp only [Instr.wf, RB.fits, Bool.and_eq_true, decide_eq_true_eq] at h
  cases hr
  exact ⟨rfl, by simp [rawFits, fmtOf, hasExt, Src.fits.eq_1, Src.fits.eq_2, Src.fits.eq_3, Addr.a.eq_1, h] <;> omega⟩
theorem Sys2Proof.Laws.Encodes.dmax (x : RB) : Sys2Proof.Laws.Encodes.Statement (.dmax x) := by
  intro h r hr
  simp only [Instr.wf, RB.fits, Bool.and_eq_true, decide_eq_true_eq] at h
  cases hr
  exact ⟨rfl, by simp [rawFits, fmtOf, hasExt, Src.fits.eq_1, Src.fits.eq_2, Src.fits.eq_3, Addr.a.eq_1, h] <;> omega⟩
theorem Sys2Proof.Laws.Encodes.hadd2 (x : RB) : Sys2Proof.Laws.Encodes.Statement (.hadd2 x) := by
  intro h r hr
  simp only [Instr.wf, RB.fits, Bool.and_eq_true, decide_eq_true_eq] at h
  cases hr
  exact ⟨rfl, by simp [rawFits, fmtOf, hasExt, Src.fits.eq_1, Src.fits.eq_2, Src.fits.eq_3, Addr.a.eq_1, h] <;> omega⟩
theorem Sys2Proof.Laws.Encodes.hmul2 (x : RB) : Sys2Proof.Laws.Encodes.Statement (.hmul2 x) := by
  intro h r hr
  simp only [Instr.wf, RB.fits, Bool.and_eq_true, decide_eq_true_eq] at h
  cases hr
  exact ⟨rfl, by simp [rawFits, fmtOf, hasExt, Src.fits.eq_1, Src.fits.eq_2, Src.fits.eq_3, Addr.a.eq_1, h] <;> omega⟩
theorem Sys2Proof.Laws.Encodes.hfma2 (x : RX) : Sys2Proof.Laws.Encodes.Statement (.hfma2 x) := by
  intro h r hr
  simp only [Instr.wf, RX.fits, Bool.and_eq_true, decide_eq_true_eq] at h
  cases hr
  exact ⟨rfl, by simp [rawFits, fmtOf, hasExt, Src.fits.eq_1, Src.fits.eq_2, Src.fits.eq_3, Addr.a.eq_1, h] <;> omega⟩
theorem Sys2Proof.Laws.Encodes.hmin2 (x : RB) : Sys2Proof.Laws.Encodes.Statement (.hmin2 x) := by
  intro h r hr
  simp only [Instr.wf, RB.fits, Bool.and_eq_true, decide_eq_true_eq] at h
  cases hr
  exact ⟨rfl, by simp [rawFits, fmtOf, hasExt, Src.fits.eq_1, Src.fits.eq_2, Src.fits.eq_3, Addr.a.eq_1, h] <;> omega⟩
theorem Sys2Proof.Laws.Encodes.hmax2 (x : RB) : Sys2Proof.Laws.Encodes.Statement (.hmax2 x) := by
  intro h r hr
  simp only [Instr.wf, RB.fits, Bool.and_eq_true, decide_eq_true_eq] at h
  cases hr
  exact ⟨rfl, by simp [rawFits, fmtOf, hasExt, Src.fits.eq_1, Src.fits.eq_2, Src.fits.eq_3, Addr.a.eq_1, h] <;> omega⟩
theorem Sys2Proof.Laws.Encodes.badd2 (x : RB) : Sys2Proof.Laws.Encodes.Statement (.badd2 x) := by
  intro h r hr
  simp only [Instr.wf, RB.fits, Bool.and_eq_true, decide_eq_true_eq] at h
  cases hr
  exact ⟨rfl, by simp [rawFits, fmtOf, hasExt, Src.fits.eq_1, Src.fits.eq_2, Src.fits.eq_3, Addr.a.eq_1, h] <;> omega⟩
theorem Sys2Proof.Laws.Encodes.bmul2 (x : RB) : Sys2Proof.Laws.Encodes.Statement (.bmul2 x) := by
  intro h r hr
  simp only [Instr.wf, RB.fits, Bool.and_eq_true, decide_eq_true_eq] at h
  cases hr
  exact ⟨rfl, by simp [rawFits, fmtOf, hasExt, Src.fits.eq_1, Src.fits.eq_2, Src.fits.eq_3, Addr.a.eq_1, h] <;> omega⟩
theorem Sys2Proof.Laws.Encodes.bfma2 (x : RX) : Sys2Proof.Laws.Encodes.Statement (.bfma2 x) := by
  intro h r hr
  simp only [Instr.wf, RX.fits, Bool.and_eq_true, decide_eq_true_eq] at h
  cases hr
  exact ⟨rfl, by simp [rawFits, fmtOf, hasExt, Src.fits.eq_1, Src.fits.eq_2, Src.fits.eq_3, Addr.a.eq_1, h] <;> omega⟩
theorem Sys2Proof.Laws.Encodes.bdot2 (x : RB) : Sys2Proof.Laws.Encodes.Statement (.bdot2 x) := by
  intro h r hr
  simp only [Instr.wf, RB.fits, Bool.and_eq_true, decide_eq_true_eq] at h
  cases hr
  exact ⟨rfl, by simp [rawFits, fmtOf, hasExt, Src.fits.eq_1, Src.fits.eq_2, Src.fits.eq_3, Addr.a.eq_1, h] <;> omega⟩
theorem Sys2Proof.Laws.Encodes.cvt (x : RCvt) : Sys2Proof.Laws.Encodes.Statement (.cvt x) := by
  intro h r hr
  simp only [Instr.wf, RCvt.fits, Bool.and_eq_true, decide_eq_true_eq] at h
  cases hr
  exact ⟨rfl, by simp [rawFits, fmtOf, hasExt, Src.fits.eq_1, Src.fits.eq_2, Src.fits.eq_3, Addr.a.eq_1, h] <;> omega⟩
theorem Sys2Proof.Laws.Encodes.t8unpk (x : RB) : Sys2Proof.Laws.Encodes.Statement (.t8unpk x) := by
  intro h r hr
  simp only [Instr.wf, RB.fits, Bool.and_eq_true, decide_eq_true_eq] at h
  cases hr
  exact ⟨rfl, by simp [rawFits, fmtOf, hasExt, Src.fits.eq_1, Src.fits.eq_2, Src.fits.eq_3, Addr.a.eq_1, h] <;> omega⟩
theorem Sys2Proof.Laws.Encodes.t6unpk (x : RB) : Sys2Proof.Laws.Encodes.Statement (.t6unpk x) := by
  intro h r hr
  simp only [Instr.wf, RB.fits, Bool.and_eq_true, decide_eq_true_eq] at h
  cases hr
  exact ⟨rfl, by simp [rawFits, fmtOf, hasExt, Src.fits.eq_1, Src.fits.eq_2, Src.fits.eq_3, Addr.a.eq_1, h] <;> omega⟩
theorem Sys2Proof.Laws.Encodes.i4unpk (x : RB) : Sys2Proof.Laws.Encodes.Statement (.i4unpk x) := by
  intro h r hr
  simp only [Instr.wf, RB.fits, Bool.and_eq_true, decide_eq_true_eq] at h
  cases hr
  exact ⟨rfl, by simp [rawFits, fmtOf, hasExt, Src.fits.eq_1, Src.fits.eq_2, Src.fits.eq_3, Addr.a.eq_1, h] <;> omega⟩
theorem Sys2Proof.Laws.Encodes.npk (x : RB) : Sys2Proof.Laws.Encodes.Statement (.npk x) := by
  intro h r hr
  simp only [Instr.wf, RB.fits, Bool.and_eq_true, decide_eq_true_eq] at h
  cases hr
  exact ⟨rfl, by simp [rawFits, fmtOf, hasExt, Src.fits.eq_1, Src.fits.eq_2, Src.fits.eq_3, Addr.a.eq_1, h] <;> omega⟩
theorem Sys2Proof.Laws.Encodes.ldB8 (x : MMem) : Sys2Proof.Laws.Encodes.Statement (.ldB8 x) := by
  intro h r hr
  simp only [Instr.wf, MMem.fits, Bool.and_eq_true, decide_eq_true_eq] at h
  cases hr
  exact ⟨rfl, by simp [rawFits, fmtOf, hasExt, Src.fits.eq_1, Src.fits.eq_2, Src.fits.eq_3, Addr.a.eq_1, h] <;> omega⟩
theorem Sys2Proof.Laws.Encodes.ldB16 (x : MMem) : Sys2Proof.Laws.Encodes.Statement (.ldB16 x) := by
  intro h r hr
  simp only [Instr.wf, MMem.fits, Bool.and_eq_true, decide_eq_true_eq] at h
  cases hr
  exact ⟨rfl, by simp [rawFits, fmtOf, hasExt, Src.fits.eq_1, Src.fits.eq_2, Src.fits.eq_3, Addr.a.eq_1, h] <;> omega⟩
theorem Sys2Proof.Laws.Encodes.ldB32 (x : MMem) : Sys2Proof.Laws.Encodes.Statement (.ldB32 x) := by
  intro h r hr
  simp only [Instr.wf, MMem.fits, Bool.and_eq_true, decide_eq_true_eq] at h
  cases hr
  exact ⟨rfl, by simp [rawFits, fmtOf, hasExt, Src.fits.eq_1, Src.fits.eq_2, Src.fits.eq_3, Addr.a.eq_1, h] <;> omega⟩
theorem Sys2Proof.Laws.Encodes.ldB64 (x : MMem) : Sys2Proof.Laws.Encodes.Statement (.ldB64 x) := by
  intro h r hr
  simp only [Instr.wf, MMem.fits, Bool.and_eq_true, decide_eq_true_eq] at h
  cases hr
  exact ⟨rfl, by simp [rawFits, fmtOf, hasExt, Src.fits.eq_1, Src.fits.eq_2, Src.fits.eq_3, Addr.a.eq_1, h] <;> omega⟩
theorem Sys2Proof.Laws.Encodes.ldB128 (x : MMem) : Sys2Proof.Laws.Encodes.Statement (.ldB128 x) := by
  intro h r hr
  simp only [Instr.wf, MMem.fits, Bool.and_eq_true, decide_eq_true_eq] at h
  cases hr
  exact ⟨rfl, by simp [rawFits, fmtOf, hasExt, Src.fits.eq_1, Src.fits.eq_2, Src.fits.eq_3, Addr.a.eq_1, h] <;> omega⟩
theorem Sys2Proof.Laws.Encodes.ldS8 (x : MMem) : Sys2Proof.Laws.Encodes.Statement (.ldS8 x) := by
  intro h r hr
  simp only [Instr.wf, MMem.fits, Bool.and_eq_true, decide_eq_true_eq] at h
  cases hr
  exact ⟨rfl, by simp [rawFits, fmtOf, hasExt, Src.fits.eq_1, Src.fits.eq_2, Src.fits.eq_3, Addr.a.eq_1, h] <;> omega⟩
theorem Sys2Proof.Laws.Encodes.ldS16 (x : MMem) : Sys2Proof.Laws.Encodes.Statement (.ldS16 x) := by
  intro h r hr
  simp only [Instr.wf, MMem.fits, Bool.and_eq_true, decide_eq_true_eq] at h
  cases hr
  exact ⟨rfl, by simp [rawFits, fmtOf, hasExt, Src.fits.eq_1, Src.fits.eq_2, Src.fits.eq_3, Addr.a.eq_1, h] <;> omega⟩
theorem Sys2Proof.Laws.Encodes.stB8 (x : MMem) : Sys2Proof.Laws.Encodes.Statement (.stB8 x) := by
  intro h r hr
  simp only [Instr.wf, MMem.fits, Bool.and_eq_true, decide_eq_true_eq] at h
  cases hr
  exact ⟨rfl, by simp [rawFits, fmtOf, hasExt, Src.fits.eq_1, Src.fits.eq_2, Src.fits.eq_3, Addr.a.eq_1, h] <;> omega⟩
theorem Sys2Proof.Laws.Encodes.stB16 (x : MMem) : Sys2Proof.Laws.Encodes.Statement (.stB16 x) := by
  intro h r hr
  simp only [Instr.wf, MMem.fits, Bool.and_eq_true, decide_eq_true_eq] at h
  cases hr
  exact ⟨rfl, by simp [rawFits, fmtOf, hasExt, Src.fits.eq_1, Src.fits.eq_2, Src.fits.eq_3, Addr.a.eq_1, h] <;> omega⟩
theorem Sys2Proof.Laws.Encodes.stB32 (x : MMem) : Sys2Proof.Laws.Encodes.Statement (.stB32 x) := by
  intro h r hr
  simp only [Instr.wf, MMem.fits, Bool.and_eq_true, decide_eq_true_eq] at h
  cases hr
  exact ⟨rfl, by simp [rawFits, fmtOf, hasExt, Src.fits.eq_1, Src.fits.eq_2, Src.fits.eq_3, Addr.a.eq_1, h] <;> omega⟩
theorem Sys2Proof.Laws.Encodes.stB64 (x : MMem) : Sys2Proof.Laws.Encodes.Statement (.stB64 x) := by
  intro h r hr
  simp only [Instr.wf, MMem.fits, Bool.and_eq_true, decide_eq_true_eq] at h
  cases hr
  exact ⟨rfl, by simp [rawFits, fmtOf, hasExt, Src.fits.eq_1, Src.fits.eq_2, Src.fits.eq_3, Addr.a.eq_1, h] <;> omega⟩
theorem Sys2Proof.Laws.Encodes.stB128 (x : MMem) : Sys2Proof.Laws.Encodes.Statement (.stB128 x) := by
  intro h r hr
  simp only [Instr.wf, MMem.fits, Bool.and_eq_true, decide_eq_true_eq] at h
  cases hr
  exact ⟨rfl, by simp [rawFits, fmtOf, hasExt, Src.fits.eq_1, Src.fits.eq_2, Src.fits.eq_3, Addr.a.eq_1, h] <;> omega⟩
theorem Sys2Proof.Laws.Encodes.stS8 (x : MMem) : Sys2Proof.Laws.Encodes.Statement (.stS8 x) := by
  intro h r hr
  simp only [Instr.wf, MMem.fits, Bool.and_eq_true, decide_eq_true_eq] at h
  cases hr
  exact ⟨rfl, by simp [rawFits, fmtOf, hasExt, Src.fits.eq_1, Src.fits.eq_2, Src.fits.eq_3, Addr.a.eq_1, h] <;> omega⟩
theorem Sys2Proof.Laws.Encodes.stS16 (x : MMem) : Sys2Proof.Laws.Encodes.Statement (.stS16 x) := by
  intro h r hr
  simp only [Instr.wf, MMem.fits, Bool.and_eq_true, decide_eq_true_eq] at h
  cases hr
  exact ⟨rfl, by simp [rawFits, fmtOf, hasExt, Src.fits.eq_1, Src.fits.eq_2, Src.fits.eq_3, Addr.a.eq_1, h] <;> omega⟩
theorem Sys2Proof.Laws.Encodes.ldsB8 (x : MMem) : Sys2Proof.Laws.Encodes.Statement (.ldsB8 x) := by
  intro h r hr
  simp only [Instr.wf, MMem.fits, Bool.and_eq_true, decide_eq_true_eq] at h
  cases hr
  exact ⟨rfl, by simp [rawFits, fmtOf, hasExt, Src.fits.eq_1, Src.fits.eq_2, Src.fits.eq_3, Addr.a.eq_1, h] <;> omega⟩
theorem Sys2Proof.Laws.Encodes.ldsB16 (x : MMem) : Sys2Proof.Laws.Encodes.Statement (.ldsB16 x) := by
  intro h r hr
  simp only [Instr.wf, MMem.fits, Bool.and_eq_true, decide_eq_true_eq] at h
  cases hr
  exact ⟨rfl, by simp [rawFits, fmtOf, hasExt, Src.fits.eq_1, Src.fits.eq_2, Src.fits.eq_3, Addr.a.eq_1, h] <;> omega⟩
theorem Sys2Proof.Laws.Encodes.ldsB32 (x : MMem) : Sys2Proof.Laws.Encodes.Statement (.ldsB32 x) := by
  intro h r hr
  simp only [Instr.wf, MMem.fits, Bool.and_eq_true, decide_eq_true_eq] at h
  cases hr
  exact ⟨rfl, by simp [rawFits, fmtOf, hasExt, Src.fits.eq_1, Src.fits.eq_2, Src.fits.eq_3, Addr.a.eq_1, h] <;> omega⟩
theorem Sys2Proof.Laws.Encodes.ldsB64 (x : MMem) : Sys2Proof.Laws.Encodes.Statement (.ldsB64 x) := by
  intro h r hr
  simp only [Instr.wf, MMem.fits, Bool.and_eq_true, decide_eq_true_eq] at h
  cases hr
  exact ⟨rfl, by simp [rawFits, fmtOf, hasExt, Src.fits.eq_1, Src.fits.eq_2, Src.fits.eq_3, Addr.a.eq_1, h] <;> omega⟩
theorem Sys2Proof.Laws.Encodes.ldsB128 (x : MMem) : Sys2Proof.Laws.Encodes.Statement (.ldsB128 x) := by
  intro h r hr
  simp only [Instr.wf, MMem.fits, Bool.and_eq_true, decide_eq_true_eq] at h
  cases hr
  exact ⟨rfl, by simp [rawFits, fmtOf, hasExt, Src.fits.eq_1, Src.fits.eq_2, Src.fits.eq_3, Addr.a.eq_1, h] <;> omega⟩
theorem Sys2Proof.Laws.Encodes.ldsS8 (x : MMem) : Sys2Proof.Laws.Encodes.Statement (.ldsS8 x) := by
  intro h r hr
  simp only [Instr.wf, MMem.fits, Bool.and_eq_true, decide_eq_true_eq] at h
  cases hr
  exact ⟨rfl, by simp [rawFits, fmtOf, hasExt, Src.fits.eq_1, Src.fits.eq_2, Src.fits.eq_3, Addr.a.eq_1, h] <;> omega⟩
theorem Sys2Proof.Laws.Encodes.ldsS16 (x : MMem) : Sys2Proof.Laws.Encodes.Statement (.ldsS16 x) := by
  intro h r hr
  simp only [Instr.wf, MMem.fits, Bool.and_eq_true, decide_eq_true_eq] at h
  cases hr
  exact ⟨rfl, by simp [rawFits, fmtOf, hasExt, Src.fits.eq_1, Src.fits.eq_2, Src.fits.eq_3, Addr.a.eq_1, h] <;> omega⟩
theorem Sys2Proof.Laws.Encodes.stsB8 (x : MMem) : Sys2Proof.Laws.Encodes.Statement (.stsB8 x) := by
  intro h r hr
  simp only [Instr.wf, MMem.fits, Bool.and_eq_true, decide_eq_true_eq] at h
  cases hr
  exact ⟨rfl, by simp [rawFits, fmtOf, hasExt, Src.fits.eq_1, Src.fits.eq_2, Src.fits.eq_3, Addr.a.eq_1, h] <;> omega⟩
theorem Sys2Proof.Laws.Encodes.stsB16 (x : MMem) : Sys2Proof.Laws.Encodes.Statement (.stsB16 x) := by
  intro h r hr
  simp only [Instr.wf, MMem.fits, Bool.and_eq_true, decide_eq_true_eq] at h
  cases hr
  exact ⟨rfl, by simp [rawFits, fmtOf, hasExt, Src.fits.eq_1, Src.fits.eq_2, Src.fits.eq_3, Addr.a.eq_1, h] <;> omega⟩
theorem Sys2Proof.Laws.Encodes.stsB32 (x : MMem) : Sys2Proof.Laws.Encodes.Statement (.stsB32 x) := by
  intro h r hr
  simp only [Instr.wf, MMem.fits, Bool.and_eq_true, decide_eq_true_eq] at h
  cases hr
  exact ⟨rfl, by simp [rawFits, fmtOf, hasExt, Src.fits.eq_1, Src.fits.eq_2, Src.fits.eq_3, Addr.a.eq_1, h] <;> omega⟩
theorem Sys2Proof.Laws.Encodes.stsB64 (x : MMem) : Sys2Proof.Laws.Encodes.Statement (.stsB64 x) := by
  intro h r hr
  simp only [Instr.wf, MMem.fits, Bool.and_eq_true, decide_eq_true_eq] at h
  cases hr
  exact ⟨rfl, by simp [rawFits, fmtOf, hasExt, Src.fits.eq_1, Src.fits.eq_2, Src.fits.eq_3, Addr.a.eq_1, h] <;> omega⟩
theorem Sys2Proof.Laws.Encodes.stsB128 (x : MMem) : Sys2Proof.Laws.Encodes.Statement (.stsB128 x) := by
  intro h r hr
  simp only [Instr.wf, MMem.fits, Bool.and_eq_true, decide_eq_true_eq] at h
  cases hr
  exact ⟨rfl, by simp [rawFits, fmtOf, hasExt, Src.fits.eq_1, Src.fits.eq_2, Src.fits.eq_3, Addr.a.eq_1, h] <;> omega⟩
theorem Sys2Proof.Laws.Encodes.stsS8 (x : MMem) : Sys2Proof.Laws.Encodes.Statement (.stsS8 x) := by
  intro h r hr
  simp only [Instr.wf, MMem.fits, Bool.and_eq_true, decide_eq_true_eq] at h
  cases hr
  exact ⟨rfl, by simp [rawFits, fmtOf, hasExt, Src.fits.eq_1, Src.fits.eq_2, Src.fits.eq_3, Addr.a.eq_1, h] <;> omega⟩
theorem Sys2Proof.Laws.Encodes.stsS16 (x : MMem) : Sys2Proof.Laws.Encodes.Statement (.stsS16 x) := by
  intro h r hr
  simp only [Instr.wf, MMem.fits, Bool.and_eq_true, decide_eq_true_eq] at h
  cases hr
  exact ⟨rfl, by simp [rawFits, fmtOf, hasExt, Src.fits.eq_1, Src.fits.eq_2, Src.fits.eq_3, Addr.a.eq_1, h] <;> omega⟩
theorem Sys2Proof.Laws.Encodes.pref (x : MPref) : Sys2Proof.Laws.Encodes.Statement (.pref x) := by
  intro h r hr
  simp only [Instr.wf, MPref.fits, Bool.and_eq_true, decide_eq_true_eq] at h
  cases hr
  exact ⟨rfl, by simp [rawFits, fmtOf, hasExt, Src.fits.eq_1, Src.fits.eq_2, Src.fits.eq_3, Addr.a.eq_1, h] <;> omega⟩
theorem Sys2Proof.Laws.Encodes.clean (x : MAddr) : Sys2Proof.Laws.Encodes.Statement (.clean x) := by
  intro h r hr
  simp only [Instr.wf, MAddr.fits, Bool.and_eq_true, decide_eq_true_eq] at h
  cases hr
  exact ⟨rfl, by simp [rawFits, fmtOf, hasExt, Src.fits.eq_1, Src.fits.eq_2, Src.fits.eq_3, Addr.a.eq_1, h] <;> omega⟩
theorem Sys2Proof.Laws.Encodes.inval (x : MAddr) : Sys2Proof.Laws.Encodes.Statement (.inval x) := by
  intro h r hr
  simp only [Instr.wf, MAddr.fits, Bool.and_eq_true, decide_eq_true_eq] at h
  cases hr
  exact ⟨rfl, by simp [rawFits, fmtOf, hasExt, Src.fits.eq_1, Src.fits.eq_2, Src.fits.eq_3, Addr.a.eq_1, h] <;> omega⟩
theorem Sys2Proof.Laws.Encodes.tdiscard (x : MAddr) : Sys2Proof.Laws.Encodes.Statement (.tdiscard x) := by
  intro h r hr
  simp only [Instr.wf, MAddr.fits, Bool.and_eq_true, decide_eq_true_eq] at h
  cases hr
  exact ⟨rfl, by simp [rawFits, fmtOf, hasExt, Src.fits.eq_1, Src.fits.eq_2, Src.fits.eq_3, Addr.a.eq_1, h] <;> omega⟩
theorem Sys2Proof.Laws.Encodes.tdesc (x : XDesc) : Sys2Proof.Laws.Encodes.Statement (.tdesc x) := by
  obtain ⟨c, id, b, q⟩ := x
  intro h r hr
  simp only [Instr.wf, XDesc.fits, Bool.and_eq_true, decide_eq_true_eq] at h
  cases hr
  all_goals rcases id with nid | nid | wid
  all_goals simp_all [Raw.toInstr, ofX, rawFits, fmtOf, xOps, XSrc.xf, XF.src, XSrc.fits, xfOk]
  all_goals omega
theorem Sys2Proof.Laws.Encodes.tread (x : XRead) : Sys2Proof.Laws.Encodes.Statement (.tread x) := by
  obtain ⟨c, idx, d, id, q⟩ := x
  intro h r hr
  simp only [Instr.wf, XRead.fits, Bool.and_eq_true, decide_eq_true_eq] at h
  cases hr
  all_goals rcases id with nid | nid | wid
  all_goals simp_all [Raw.toInstr, ofX, rawFits, fmtOf, xOps, XSrc.xf, XF.src, XSrc.fits, xfOk]
  all_goals omega
theorem Sys2Proof.Laws.Encodes.tquery (x : XRead) : Sys2Proof.Laws.Encodes.Statement (.tquery x) := by
  obtain ⟨c, idx, d, id, q⟩ := x
  intro h r hr
  simp only [Instr.wf, XRead.fits, Bool.and_eq_true, decide_eq_true_eq] at h
  cases hr
  all_goals rcases id with nid | nid | wid
  all_goals simp_all [Raw.toInstr, ofX, rawFits, fmtOf, xOps, XSrc.xf, XF.src, XSrc.fits, xfOk]
  all_goals omega
theorem Sys2Proof.Laws.Encodes.cpy (x : XCpy) : Sys2Proof.Laws.Encodes.Statement (.cpy x) := by
  intro h r hr
  simp only [Instr.wf, XCpy.fits, Bool.and_eq_true, decide_eq_true_eq] at h
  obtain ⟨c, dir, a, w⟩ := x
  rcases w with _ | (n | n | w) <;> cases hr <;> simp_all [xcpyRaw, Raw.toInstr, ofX, rawFits, fmtOf, xOps, XSrc.xf, XF.src, XSrc.fits, xfOk] <;> omega
theorem Sys2Proof.Laws.Encodes.cpyt (x : XCpy) : Sys2Proof.Laws.Encodes.Statement (.cpyt x) := by
  intro h r hr
  simp only [Instr.wf, XCpy.fits, Bool.and_eq_true, decide_eq_true_eq] at h
  obtain ⟨c, dir, a, w⟩ := x
  rcases w with _ | (n | n | w) <;> cases hr <;> simp_all [xcpyRaw, Raw.toInstr, ofX, rawFits, fmtOf, xOps, XSrc.xf, XF.src, XSrc.fits, xfOk] <;> omega
theorem Sys2Proof.Laws.Encodes.cpyv (x : XCpyV) : Sys2Proof.Laws.Encodes.Statement (.cpyv x) := by
  obtain ⟨c, a, b, q⟩ := x
  intro h r hr
  simp only [Instr.wf, XCpyV.fits, Bool.and_eq_true, decide_eq_true_eq] at h
  cases hr
  all_goals simp_all [Raw.toInstr, ofX, rawFits, fmtOf, xOps, XSrc.xf, XF.src, XSrc.fits, xfOk]
  all_goals omega
theorem Sys2Proof.Laws.Encodes.mma (x : XM) : Sys2Proof.Laws.Encodes.Statement (.mma x) := by
  obtain ⟨c, i, cv, a, b⟩ := x
  intro h r hr
  simp only [Instr.wf, XM.fits, Bool.and_eq_true, decide_eq_true_eq] at h
  cases hr
  all_goals rcases a with na | na | wa
  all_goals rcases b with nb | nb | wb
  all_goals simp_all [Raw.toInstr, ofX, rawFits, fmtOf, xOps, XSrc.xf, XF.src, XSrc.fits, xfOk]
  all_goals omega
theorem Sys2Proof.Laws.Encodes.mmag (x : XM) : Sys2Proof.Laws.Encodes.Statement (.mmag x) := by
  obtain ⟨c, i, cv, a, b⟩ := x
  intro h r hr
  simp only [Instr.wf, XM.fits, Bool.and_eq_true, decide_eq_true_eq] at h
  cases hr
  all_goals rcases a with na | na | wa
  all_goals rcases b with nb | nb | wb
  all_goals simp_all [Raw.toInstr, ofX, rawFits, fmtOf, xOps, XSrc.xf, XF.src, XSrc.fits, xfOk]
  all_goals omega
theorem Sys2Proof.Laws.Encodes.mzero (x : XMA) : Sys2Proof.Laws.Encodes.Statement (.mzero x) := by
  obtain ⟨c, i, cv, a⟩ := x
  intro h r hr
  simp only [Instr.wf, XMA.fits, Bool.and_eq_true, decide_eq_true_eq] at h
  cases hr
  all_goals rcases a with na | na | wa
  all_goals simp_all [Raw.toInstr, ofX, rawFits, fmtOf, xOps, XSrc.xf, XF.src, XSrc.fits, xfOk]
  all_goals omega
theorem Sys2Proof.Laws.Encodes.gath (x : XMV) : Sys2Proof.Laws.Encodes.Statement (.gath x) := by
  obtain ⟨c, i, cv, a, b⟩ := x
  intro h r hr
  simp only [Instr.wf, XMV.fits, Bool.and_eq_true, decide_eq_true_eq] at h
  cases hr
  all_goals rcases b with nb | nb | wb
  all_goals simp_all [Raw.toInstr, ofX, rawFits, fmtOf, xOps, XSrc.xf, XF.src, XSrc.fits, xfOk]
  all_goals omega
theorem Sys2Proof.Laws.Encodes.tld (x : XM) : Sys2Proof.Laws.Encodes.Statement (.tld x) := by
  obtain ⟨c, i, cv, a, b⟩ := x
  intro h r hr
  simp only [Instr.wf, XM.fits, Bool.and_eq_true, decide_eq_true_eq] at h
  cases hr
  all_goals rcases a with na | na | wa
  all_goals rcases b with nb | nb | wb
  all_goals simp_all [Raw.toInstr, ofX, rawFits, fmtOf, xOps, XSrc.xf, XF.src, XSrc.fits, xfOk]
  all_goals omega
theorem Sys2Proof.Laws.Encodes.mcommit (x : XCV) : Sys2Proof.Laws.Encodes.Statement (.mcommit x) := by
  obtain ⟨c, cv⟩ := x
  intro h r hr
  simp only [Instr.wf, XCV.fits, Bool.and_eq_true, decide_eq_true_eq] at h
  cases hr
  all_goals simp_all [Raw.toInstr, ofX, rawFits, fmtOf, xOps, XSrc.xf, XF.src, XSrc.fits, xfOk]
  all_goals omega
theorem Sys2Proof.Laws.Encodes.mwaitb (x : XN) : Sys2Proof.Laws.Encodes.Statement (.mwaitb x) := by
  obtain ⟨c, n⟩ := x
  intro h r hr
  simp only [Instr.wf, XN.fits, Bool.and_eq_true, decide_eq_true_eq] at h
  cases hr
  all_goals simp_all [Raw.toInstr, ofX, rawFits, fmtOf, xOps, XSrc.xf, XF.src, XSrc.fits, xfOk]
  all_goals omega
theorem Sys2Proof.Laws.Encodes.mdrain (x : XM) : Sys2Proof.Laws.Encodes.Statement (.mdrain x) := by
  obtain ⟨c, i, cv, a, b⟩ := x
  intro h r hr
  simp only [Instr.wf, XM.fits, Bool.and_eq_true, decide_eq_true_eq] at h
  cases hr
  all_goals rcases a with na | na | wa
  all_goals rcases b with nb | nb | wb
  all_goals simp_all [Raw.toInstr, ofX, rawFits, fmtOf, xOps, XSrc.xf, XF.src, XSrc.fits, xfOk]
  all_goals omega
theorem Sys2Proof.Laws.Encodes.mdraina (x : XMQ) : Sys2Proof.Laws.Encodes.Statement (.mdraina x) := by
  obtain ⟨c, i, cv, a, b, q⟩ := x
  intro h r hr
  simp only [Instr.wf, XMQ.fits, Bool.and_eq_true, decide_eq_true_eq] at h
  cases hr
  all_goals rcases a with na | na | wa
  all_goals rcases b with nb | nb | wb
  all_goals simp_all [Raw.toInstr, ofX, rawFits, fmtOf, xOps, XSrc.xf, XF.src, XSrc.fits, xfOk]
  all_goals omega
theorem Sys2Proof.Laws.Encodes.maccr (x : XAcc) : Sys2Proof.Laws.Encodes.Statement (.maccr x) := by
  intro h r hr
  simp only [Instr.wf, XAcc.fits, Bool.and_eq_true, decide_eq_true_eq] at h
  obtain ⟨c, i, a, w⟩ := x
  rcases w with n | (n | n | w) <;> cases hr <;> simp_all [xaccRaw, Raw.toInstr, ofX, rawFits, fmtOf, xOps, XSrc.xf, XF.src, XF.asV, MIdx.fits, XSrc.fits, xfOk] <;> omega
theorem Sys2Proof.Laws.Encodes.maccw (x : XAcc) : Sys2Proof.Laws.Encodes.Statement (.maccw x) := by
  intro h r hr
  simp only [Instr.wf, XAcc.fits, Bool.and_eq_true, decide_eq_true_eq] at h
  obtain ⟨c, i, a, w⟩ := x
  rcases w with n | (n | n | w) <;> cases hr <;> simp_all [xaccRaw, Raw.toInstr, ofX, rawFits, fmtOf, xOps, XSrc.xf, XF.src, XF.asV, MIdx.fits, XSrc.fits, xfOk] <;> omega
theorem Sys2Proof.Laws.Encodes.atomAdd (x : MAtom) : Sys2Proof.Laws.Encodes.Statement (.atomAdd x) := by
  intro h r hr
  simp only [Instr.wf, MAtom.fits, Bool.and_eq_true, decide_eq_true_eq] at h
  cases hr
  exact ⟨rfl, by simp [rawFits, fmtOf, hasExt, Src.fits.eq_1, Src.fits.eq_2, Src.fits.eq_3, Addr.a.eq_1, h] <;> omega⟩
theorem Sys2Proof.Laws.Encodes.atomMin (x : MAtom) : Sys2Proof.Laws.Encodes.Statement (.atomMin x) := by
  intro h r hr
  simp only [Instr.wf, MAtom.fits, Bool.and_eq_true, decide_eq_true_eq] at h
  cases hr
  exact ⟨rfl, by simp [rawFits, fmtOf, hasExt, Src.fits.eq_1, Src.fits.eq_2, Src.fits.eq_3, Addr.a.eq_1, h] <;> omega⟩
theorem Sys2Proof.Laws.Encodes.atomMax (x : MAtom) : Sys2Proof.Laws.Encodes.Statement (.atomMax x) := by
  intro h r hr
  simp only [Instr.wf, MAtom.fits, Bool.and_eq_true, decide_eq_true_eq] at h
  cases hr
  exact ⟨rfl, by simp [rawFits, fmtOf, hasExt, Src.fits.eq_1, Src.fits.eq_2, Src.fits.eq_3, Addr.a.eq_1, h] <;> omega⟩
theorem Sys2Proof.Laws.Encodes.atomAnd (x : MAtom) : Sys2Proof.Laws.Encodes.Statement (.atomAnd x) := by
  intro h r hr
  simp only [Instr.wf, MAtom.fits, Bool.and_eq_true, decide_eq_true_eq] at h
  cases hr
  exact ⟨rfl, by simp [rawFits, fmtOf, hasExt, Src.fits.eq_1, Src.fits.eq_2, Src.fits.eq_3, Addr.a.eq_1, h] <;> omega⟩
theorem Sys2Proof.Laws.Encodes.atomOr (x : MAtom) : Sys2Proof.Laws.Encodes.Statement (.atomOr x) := by
  intro h r hr
  simp only [Instr.wf, MAtom.fits, Bool.and_eq_true, decide_eq_true_eq] at h
  cases hr
  exact ⟨rfl, by simp [rawFits, fmtOf, hasExt, Src.fits.eq_1, Src.fits.eq_2, Src.fits.eq_3, Addr.a.eq_1, h] <;> omega⟩
theorem Sys2Proof.Laws.Encodes.atomXor (x : MAtom) : Sys2Proof.Laws.Encodes.Statement (.atomXor x) := by
  intro h r hr
  simp only [Instr.wf, MAtom.fits, Bool.and_eq_true, decide_eq_true_eq] at h
  cases hr
  exact ⟨rfl, by simp [rawFits, fmtOf, hasExt, Src.fits.eq_1, Src.fits.eq_2, Src.fits.eq_3, Addr.a.eq_1, h] <;> omega⟩
theorem Sys2Proof.Laws.Encodes.atomExch (x : MAtom) : Sys2Proof.Laws.Encodes.Statement (.atomExch x) := by
  intro h r hr
  simp only [Instr.wf, MAtom.fits, Bool.and_eq_true, decide_eq_true_eq] at h
  cases hr
  exact ⟨rfl, by simp [rawFits, fmtOf, hasExt, Src.fits.eq_1, Src.fits.eq_2, Src.fits.eq_3, Addr.a.eq_1, h] <;> omega⟩
theorem Sys2Proof.Laws.Encodes.atomCas (x : MCas) : Sys2Proof.Laws.Encodes.Statement (.atomCas x) := by
  intro h r hr
  simp only [Instr.wf, MCas.fits, Bool.and_eq_true, decide_eq_true_eq] at h
  cases hr
  exact ⟨rfl, by simp [rawFits, fmtOf, hasExt, Src.fits.eq_1, Src.fits.eq_2, Src.fits.eq_3, Addr.a.eq_1, h] <;> omega⟩
theorem Sys2Proof.Laws.Encodes.atom64Add (x : MAtom) : Sys2Proof.Laws.Encodes.Statement (.atom64Add x) := by
  intro h r hr
  simp only [Instr.wf, MAtom.fits, Bool.and_eq_true, decide_eq_true_eq] at h
  cases hr
  exact ⟨rfl, by simp [rawFits, fmtOf, hasExt, Src.fits.eq_1, Src.fits.eq_2, Src.fits.eq_3, Addr.a.eq_1, h] <;> omega⟩
theorem Sys2Proof.Laws.Encodes.atom64Min (x : MAtom) : Sys2Proof.Laws.Encodes.Statement (.atom64Min x) := by
  intro h r hr
  simp only [Instr.wf, MAtom.fits, Bool.and_eq_true, decide_eq_true_eq] at h
  cases hr
  exact ⟨rfl, by simp [rawFits, fmtOf, hasExt, Src.fits.eq_1, Src.fits.eq_2, Src.fits.eq_3, Addr.a.eq_1, h] <;> omega⟩
theorem Sys2Proof.Laws.Encodes.atom64Max (x : MAtom) : Sys2Proof.Laws.Encodes.Statement (.atom64Max x) := by
  intro h r hr
  simp only [Instr.wf, MAtom.fits, Bool.and_eq_true, decide_eq_true_eq] at h
  cases hr
  exact ⟨rfl, by simp [rawFits, fmtOf, hasExt, Src.fits.eq_1, Src.fits.eq_2, Src.fits.eq_3, Addr.a.eq_1, h] <;> omega⟩
theorem Sys2Proof.Laws.Encodes.atom64And (x : MAtom) : Sys2Proof.Laws.Encodes.Statement (.atom64And x) := by
  intro h r hr
  simp only [Instr.wf, MAtom.fits, Bool.and_eq_true, decide_eq_true_eq] at h
  cases hr
  exact ⟨rfl, by simp [rawFits, fmtOf, hasExt, Src.fits.eq_1, Src.fits.eq_2, Src.fits.eq_3, Addr.a.eq_1, h] <;> omega⟩
theorem Sys2Proof.Laws.Encodes.atom64Or (x : MAtom) : Sys2Proof.Laws.Encodes.Statement (.atom64Or x) := by
  intro h r hr
  simp only [Instr.wf, MAtom.fits, Bool.and_eq_true, decide_eq_true_eq] at h
  cases hr
  exact ⟨rfl, by simp [rawFits, fmtOf, hasExt, Src.fits.eq_1, Src.fits.eq_2, Src.fits.eq_3, Addr.a.eq_1, h] <;> omega⟩
theorem Sys2Proof.Laws.Encodes.atom64Xor (x : MAtom) : Sys2Proof.Laws.Encodes.Statement (.atom64Xor x) := by
  intro h r hr
  simp only [Instr.wf, MAtom.fits, Bool.and_eq_true, decide_eq_true_eq] at h
  cases hr
  exact ⟨rfl, by simp [rawFits, fmtOf, hasExt, Src.fits.eq_1, Src.fits.eq_2, Src.fits.eq_3, Addr.a.eq_1, h] <;> omega⟩
theorem Sys2Proof.Laws.Encodes.atom64Exch (x : MAtom) : Sys2Proof.Laws.Encodes.Statement (.atom64Exch x) := by
  intro h r hr
  simp only [Instr.wf, MAtom.fits, Bool.and_eq_true, decide_eq_true_eq] at h
  cases hr
  exact ⟨rfl, by simp [rawFits, fmtOf, hasExt, Src.fits.eq_1, Src.fits.eq_2, Src.fits.eq_3, Addr.a.eq_1, h] <;> omega⟩
theorem Sys2Proof.Laws.Encodes.atom64Cas (x : MCas) : Sys2Proof.Laws.Encodes.Statement (.atom64Cas x) := by
  intro h r hr
  simp only [Instr.wf, MCas.fits, Bool.and_eq_true, decide_eq_true_eq] at h
  cases hr
  exact ⟨rfl, by simp [rawFits, fmtOf, hasExt, Src.fits.eq_1, Src.fits.eq_2, Src.fits.eq_3, Addr.a.eq_1, h] <;> omega⟩
theorem Sys2Proof.Laws.Encodes.atomsAdd (x : MAtom) : Sys2Proof.Laws.Encodes.Statement (.atomsAdd x) := by
  intro h r hr
  simp only [Instr.wf, MAtom.fits, Bool.and_eq_true, decide_eq_true_eq] at h
  cases hr
  exact ⟨rfl, by simp [rawFits, fmtOf, hasExt, Src.fits.eq_1, Src.fits.eq_2, Src.fits.eq_3, Addr.a.eq_1, h] <;> omega⟩
theorem Sys2Proof.Laws.Encodes.atomsMin (x : MAtom) : Sys2Proof.Laws.Encodes.Statement (.atomsMin x) := by
  intro h r hr
  simp only [Instr.wf, MAtom.fits, Bool.and_eq_true, decide_eq_true_eq] at h
  cases hr
  exact ⟨rfl, by simp [rawFits, fmtOf, hasExt, Src.fits.eq_1, Src.fits.eq_2, Src.fits.eq_3, Addr.a.eq_1, h] <;> omega⟩
theorem Sys2Proof.Laws.Encodes.atomsMax (x : MAtom) : Sys2Proof.Laws.Encodes.Statement (.atomsMax x) := by
  intro h r hr
  simp only [Instr.wf, MAtom.fits, Bool.and_eq_true, decide_eq_true_eq] at h
  cases hr
  exact ⟨rfl, by simp [rawFits, fmtOf, hasExt, Src.fits.eq_1, Src.fits.eq_2, Src.fits.eq_3, Addr.a.eq_1, h] <;> omega⟩
theorem Sys2Proof.Laws.Encodes.atomsAnd (x : MAtom) : Sys2Proof.Laws.Encodes.Statement (.atomsAnd x) := by
  intro h r hr
  simp only [Instr.wf, MAtom.fits, Bool.and_eq_true, decide_eq_true_eq] at h
  cases hr
  exact ⟨rfl, by simp [rawFits, fmtOf, hasExt, Src.fits.eq_1, Src.fits.eq_2, Src.fits.eq_3, Addr.a.eq_1, h] <;> omega⟩
theorem Sys2Proof.Laws.Encodes.atomsOr (x : MAtom) : Sys2Proof.Laws.Encodes.Statement (.atomsOr x) := by
  intro h r hr
  simp only [Instr.wf, MAtom.fits, Bool.and_eq_true, decide_eq_true_eq] at h
  cases hr
  exact ⟨rfl, by simp [rawFits, fmtOf, hasExt, Src.fits.eq_1, Src.fits.eq_2, Src.fits.eq_3, Addr.a.eq_1, h] <;> omega⟩
theorem Sys2Proof.Laws.Encodes.atomsXor (x : MAtom) : Sys2Proof.Laws.Encodes.Statement (.atomsXor x) := by
  intro h r hr
  simp only [Instr.wf, MAtom.fits, Bool.and_eq_true, decide_eq_true_eq] at h
  cases hr
  exact ⟨rfl, by simp [rawFits, fmtOf, hasExt, Src.fits.eq_1, Src.fits.eq_2, Src.fits.eq_3, Addr.a.eq_1, h] <;> omega⟩
theorem Sys2Proof.Laws.Encodes.atomsExch (x : MAtom) : Sys2Proof.Laws.Encodes.Statement (.atomsExch x) := by
  intro h r hr
  simp only [Instr.wf, MAtom.fits, Bool.and_eq_true, decide_eq_true_eq] at h
  cases hr
  exact ⟨rfl, by simp [rawFits, fmtOf, hasExt, Src.fits.eq_1, Src.fits.eq_2, Src.fits.eq_3, Addr.a.eq_1, h] <;> omega⟩
theorem Sys2Proof.Laws.Encodes.atomsCas (x : MCas) : Sys2Proof.Laws.Encodes.Statement (.atomsCas x) := by
  intro h r hr
  simp only [Instr.wf, MCas.fits, Bool.and_eq_true, decide_eq_true_eq] at h
  cases hr
  exact ⟨rfl, by simp [rawFits, fmtOf, hasExt, Src.fits.eq_1, Src.fits.eq_2, Src.fits.eq_3, Addr.a.eq_1, h] <;> omega⟩
theorem Sys2Proof.Laws.Encodes.atomfFadd32 (x : MAtom) : Sys2Proof.Laws.Encodes.Statement (.atomfFadd32 x) := by
  intro h r hr
  simp only [Instr.wf, MAtom.fits, Bool.and_eq_true, decide_eq_true_eq] at h
  cases hr
  exact ⟨rfl, by simp [rawFits, fmtOf, hasExt, Src.fits.eq_1, Src.fits.eq_2, Src.fits.eq_3, Addr.a.eq_1, h] <;> omega⟩
theorem Sys2Proof.Laws.Encodes.atomfFaddBf2 (x : MAtom) : Sys2Proof.Laws.Encodes.Statement (.atomfFaddBf2 x) := by
  intro h r hr
  simp only [Instr.wf, MAtom.fits, Bool.and_eq_true, decide_eq_true_eq] at h
  cases hr
  exact ⟨rfl, by simp [rawFits, fmtOf, hasExt, Src.fits.eq_1, Src.fits.eq_2, Src.fits.eq_3, Addr.a.eq_1, h] <;> omega⟩
theorem Sys2Proof.Laws.Encodes.atomfFaddH2 (x : MAtom) : Sys2Proof.Laws.Encodes.Statement (.atomfFaddH2 x) := by
  intro h r hr
  simp only [Instr.wf, MAtom.fits, Bool.and_eq_true, decide_eq_true_eq] at h
  cases hr
  exact ⟨rfl, by simp [rawFits, fmtOf, hasExt, Src.fits.eq_1, Src.fits.eq_2, Src.fits.eq_3, Addr.a.eq_1, h] <;> omega⟩
theorem Sys2Proof.Laws.Encodes.atomfFmin32 (x : MAtom) : Sys2Proof.Laws.Encodes.Statement (.atomfFmin32 x) := by
  intro h r hr
  simp only [Instr.wf, MAtom.fits, Bool.and_eq_true, decide_eq_true_eq] at h
  cases hr
  exact ⟨rfl, by simp [rawFits, fmtOf, hasExt, Src.fits.eq_1, Src.fits.eq_2, Src.fits.eq_3, Addr.a.eq_1, h] <;> omega⟩
theorem Sys2Proof.Laws.Encodes.atomfFmax32 (x : MAtom) : Sys2Proof.Laws.Encodes.Statement (.atomfFmax32 x) := by
  intro h r hr
  simp only [Instr.wf, MAtom.fits, Bool.and_eq_true, decide_eq_true_eq] at h
  cases hr
  exact ⟨rfl, by simp [rawFits, fmtOf, hasExt, Src.fits.eq_1, Src.fits.eq_2, Src.fits.eq_3, Addr.a.eq_1, h] <;> omega⟩
theorem Sys2Proof.Laws.Encodes.atomfFadd64 (x : MAtom) : Sys2Proof.Laws.Encodes.Statement (.atomfFadd64 x) := by
  intro h r hr
  simp only [Instr.wf, MAtom.fits, Bool.and_eq_true, decide_eq_true_eq] at h
  cases hr
  exact ⟨rfl, by simp [rawFits, fmtOf, hasExt, Src.fits.eq_1, Src.fits.eq_2, Src.fits.eq_3, Addr.a.eq_1, h] <;> omega⟩
theorem Sys2Proof.Laws.Encodes.chunk (x : MMem) : Sys2Proof.Laws.Encodes.Statement (.chunk x) := by
  intro h r hr
  simp only [Instr.wf, MMem.fits, Bool.and_eq_true, decide_eq_true_eq] at h
  cases hr
  exact ⟨rfl, by simp [rawFits, fmtOf, hasExt, Src.fits.eq_1, Src.fits.eq_2, Src.fits.eq_3, Addr.a.eq_1, h] <;> omega⟩
theorem Sys2Proof.Laws.Encodes.redAdd (x : MMem) : Sys2Proof.Laws.Encodes.Statement (.redAdd x) := by
  intro h r hr
  simp only [Instr.wf, MMem.fits, Bool.and_eq_true, decide_eq_true_eq] at h
  cases hr
  exact ⟨rfl, by simp [rawFits, fmtOf, hasExt, Src.fits.eq_1, Src.fits.eq_2, Src.fits.eq_3, Addr.a.eq_1, h] <;> omega⟩
theorem Sys2Proof.Laws.Encodes.redMin (x : MMem) : Sys2Proof.Laws.Encodes.Statement (.redMin x) := by
  intro h r hr
  simp only [Instr.wf, MMem.fits, Bool.and_eq_true, decide_eq_true_eq] at h
  cases hr
  exact ⟨rfl, by simp [rawFits, fmtOf, hasExt, Src.fits.eq_1, Src.fits.eq_2, Src.fits.eq_3, Addr.a.eq_1, h] <;> omega⟩
theorem Sys2Proof.Laws.Encodes.redMax (x : MMem) : Sys2Proof.Laws.Encodes.Statement (.redMax x) := by
  intro h r hr
  simp only [Instr.wf, MMem.fits, Bool.and_eq_true, decide_eq_true_eq] at h
  cases hr
  exact ⟨rfl, by simp [rawFits, fmtOf, hasExt, Src.fits.eq_1, Src.fits.eq_2, Src.fits.eq_3, Addr.a.eq_1, h] <;> omega⟩
theorem Sys2Proof.Laws.Encodes.redAnd (x : MMem) : Sys2Proof.Laws.Encodes.Statement (.redAnd x) := by
  intro h r hr
  simp only [Instr.wf, MMem.fits, Bool.and_eq_true, decide_eq_true_eq] at h
  cases hr
  exact ⟨rfl, by simp [rawFits, fmtOf, hasExt, Src.fits.eq_1, Src.fits.eq_2, Src.fits.eq_3, Addr.a.eq_1, h] <;> omega⟩
theorem Sys2Proof.Laws.Encodes.redOr (x : MMem) : Sys2Proof.Laws.Encodes.Statement (.redOr x) := by
  intro h r hr
  simp only [Instr.wf, MMem.fits, Bool.and_eq_true, decide_eq_true_eq] at h
  cases hr
  exact ⟨rfl, by simp [rawFits, fmtOf, hasExt, Src.fits.eq_1, Src.fits.eq_2, Src.fits.eq_3, Addr.a.eq_1, h] <;> omega⟩
theorem Sys2Proof.Laws.Encodes.redXor (x : MMem) : Sys2Proof.Laws.Encodes.Statement (.redXor x) := by
  intro h r hr
  simp only [Instr.wf, MMem.fits, Bool.and_eq_true, decide_eq_true_eq] at h
  cases hr
  exact ⟨rfl, by simp [rawFits, fmtOf, hasExt, Src.fits.eq_1, Src.fits.eq_2, Src.fits.eq_3, Addr.a.eq_1, h] <;> omega⟩
theorem Sys2Proof.Laws.Encodes.fence (x : MFence) : Sys2Proof.Laws.Encodes.Statement (.fence x) := by
  intro h r hr
  simp only [Instr.wf, MFence.fits, Bool.and_eq_true, decide_eq_true_eq] at h
  cases hr
  exact ⟨rfl, by simp [rawFits, fmtOf, hasExt, Src.fits.eq_1, Src.fits.eq_2, Src.fits.eq_3, Addr.a.eq_1, h] <;> omega⟩
theorem Sys2Proof.Laws.Encodes.fenceX (x : MFenceX) : Sys2Proof.Laws.Encodes.Statement (.fenceX x) := by
  intro h r hr
  simp only [Instr.wf, MFenceX.fits, Bool.and_eq_true, decide_eq_true_eq] at h
  cases hr
  exact ⟨rfl, by simp [rawFits, fmtOf, hasExt, Src.fits.eq_1, Src.fits.eq_2, Src.fits.eq_3, Addr.a.eq_1, h] <;> omega⟩
theorem Sys2Proof.Laws.Encodes.barArrive (x : SBar) : Sys2Proof.Laws.Encodes.Statement (.barArrive x) := by
  intro h r hr
  simp only [Instr.wf, SBar.fits, Bool.and_eq_true, decide_eq_true_eq] at h
  cases hr
  exact ⟨rfl, by simp [rawFits, fmtOf, hasExt, Src.fits.eq_1, Src.fits.eq_2, Src.fits.eq_3, Addr.a.eq_1, h] <;> omega⟩
theorem Sys2Proof.Laws.Encodes.barWait (x : SBar) : Sys2Proof.Laws.Encodes.Statement (.barWait x) := by
  intro h r hr
  simp only [Instr.wf, SBar.fits, Bool.and_eq_true, decide_eq_true_eq] at h
  cases hr
  exact ⟨rfl, by simp [rawFits, fmtOf, hasExt, Src.fits.eq_1, Src.fits.eq_2, Src.fits.eq_3, Addr.a.eq_1, h] <;> omega⟩
theorem Sys2Proof.Laws.Encodes.barSync (x : SBar) : Sys2Proof.Laws.Encodes.Statement (.barSync x) := by
  intro h r hr
  simp only [Instr.wf, SBar.fits, Bool.and_eq_true, decide_eq_true_eq] at h
  cases hr
  exact ⟨rfl, by simp [rawFits, fmtOf, hasExt, Src.fits.eq_1, Src.fits.eq_2, Src.fits.eq_3, Addr.a.eq_1, h] <;> omega⟩
theorem Sys2Proof.Laws.Encodes.mona (x : MMona) : Sys2Proof.Laws.Encodes.Statement (.mona x) := by
  intro h r hr
  simp only [Instr.wf, MMona.fits, Bool.and_eq_true, decide_eq_true_eq] at h
  cases hr
  exact ⟨rfl, by simp [rawFits, fmtOf, hasExt, Src.fits.eq_1, Src.fits.eq_2, Src.fits.eq_3, Addr.a.eq_1, h] <;> omega⟩
theorem Sys2Proof.Laws.Encodes.mwait (x : MMem) : Sys2Proof.Laws.Encodes.Statement (.mwait x) := by
  intro h r hr
  simp only [Instr.wf, MMem.fits, Bool.and_eq_true, decide_eq_true_eq] at h
  cases hr
  exact ⟨rfl, by simp [rawFits, fmtOf, hasExt, Src.fits.eq_1, Src.fits.eq_2, Src.fits.eq_3, Addr.a.eq_1, h] <;> omega⟩
theorem Sys2Proof.Laws.Encodes.waita (x : MMem) : Sys2Proof.Laws.Encodes.Statement (.waita x) := by
  intro h r hr
  simp only [Instr.wf, MMem.fits, Bool.and_eq_true, decide_eq_true_eq] at h
  cases hr
  exact ⟨rfl, by simp [rawFits, fmtOf, hasExt, Src.fits.eq_1, Src.fits.eq_2, Src.fits.eq_3, Addr.a.eq_1, h] <;> omega⟩
theorem Sys2Proof.Laws.Encodes.send (x : XSend) : Sys2Proof.Laws.Encodes.Statement (.send x) := by
  obtain ⟨c, a, b⟩ := x
  intro h r hr
  simp only [Instr.wf, XSend.fits, Bool.and_eq_true, decide_eq_true_eq] at h
  cases hr
  all_goals simp_all [Raw.toInstr, ofX, rawFits, fmtOf, xOps, XSrc.xf, XF.src, XSrc.fits, xfOk]
  all_goals omega
theorem Sys2Proof.Laws.Encodes.tree (x : XTree) : Sys2Proof.Laws.Encodes.Statement (.tree x) := by
  obtain ⟨c, i, a, b⟩ := x
  intro h r hr
  simp only [Instr.wf, XTree.fits, Bool.and_eq_true, decide_eq_true_eq] at h
  cases hr
  all_goals simp_all [Raw.toInstr, ofX, rawFits, fmtOf, xOps, XSrc.xf, XF.src, XSrc.fits, xfOk]
  all_goals omega
theorem Sys2Proof.Laws.Encodes.treew (x : XTree) : Sys2Proof.Laws.Encodes.Statement (.treew x) := by
  obtain ⟨c, i, a, b⟩ := x
  intro h r hr
  simp only [Instr.wf, XTree.fits, Bool.and_eq_true, decide_eq_true_eq] at h
  cases hr
  all_goals simp_all [Raw.toInstr, ofX, rawFits, fmtOf, xOps, XSrc.xf, XF.src, XSrc.fits, xfOk]
  all_goals omega
theorem Sys2Proof.Laws.Encodes.beat (x : RB1) : Sys2Proof.Laws.Encodes.Statement (.beat x) := by
  intro h r hr
  simp only [Instr.wf, RB1.fits, Bool.and_eq_true, decide_eq_true_eq] at h
  cases hr
  exact ⟨rfl, by simp [rawFits, fmtOf, hasExt, Src.fits.eq_1, Src.fits.eq_2, Src.fits.eq_3, Addr.a.eq_1, h] <;> omega⟩
theorem Sys2Proof.Laws.Encodes.beatd (x : RAB) : Sys2Proof.Laws.Encodes.Statement (.beatd x) := by
  intro h r hr
  simp only [Instr.wf, RAB.fits, Bool.and_eq_true, decide_eq_true_eq] at h
  cases hr
  exact ⟨rfl, by simp [rawFits, fmtOf, hasExt, Src.fits.eq_1, Src.fits.eq_2, Src.fits.eq_3, Addr.a.eq_1, h] <;> omega⟩
theorem Sys2Proof.Laws.Encodes.rng (x : RB) : Sys2Proof.Laws.Encodes.Statement (.rng x) := by
  intro h r hr
  simp only [Instr.wf, RB.fits, Bool.and_eq_true, decide_eq_true_eq] at h
  cases hr
  exact ⟨rfl, by simp [rawFits, fmtOf, hasExt, Src.fits.eq_1, Src.fits.eq_2, Src.fits.eq_3, Addr.a.eq_1, h] <;> omega⟩
theorem Sys2Proof.Laws.Encodes.time (x : RDB) : Sys2Proof.Laws.Encodes.Statement (.time x) := by
  intro h r hr
  simp only [Instr.wf, RDB.fits, Bool.and_eq_true, decide_eq_true_eq] at h
  cases hr
  exact ⟨rfl, by simp [rawFits, fmtOf, hasExt, Src.fits.eq_1, Src.fits.eq_2, Src.fits.eq_3, Addr.a.eq_1, h] <;> omega⟩
theorem Sys2Proof.Laws.Encodes.trap (x : RB1) : Sys2Proof.Laws.Encodes.Statement (.trap x) := by
  intro h r hr
  simp only [Instr.wf, RB1.fits, Bool.and_eq_true, decide_eq_true_eq] at h
  cases hr
  exact ⟨rfl, by simp [rawFits, fmtOf, hasExt, Src.fits.eq_1, Src.fits.eq_2, Src.fits.eq_3, Addr.a.eq_1, h] <;> omega⟩
theorem Sys2Proof.Laws.Encodes.rtt (x : C0) : Sys2Proof.Laws.Encodes.Statement (.rtt x) := by
  intro h r hr
  simp only [Instr.wf, C0.fits, Bool.and_eq_true, decide_eq_true_eq] at h
  cases hr
  exact ⟨rfl, by simp [rawFits, fmtOf, hasExt, Src.fits.eq_1, Src.fits.eq_2, Src.fits.eq_3, Addr.a.eq_1, h] <;> omega⟩
theorem Sys2Proof.Laws.Encodes.rttSkip (x : C0) : Sys2Proof.Laws.Encodes.Statement (.rttSkip x) := by
  intro h r hr
  simp only [Instr.wf, C0.fits, Bool.and_eq_true, decide_eq_true_eq] at h
  cases hr
  exact ⟨rfl, by simp [rawFits, fmtOf, hasExt, Src.fits.eq_1, Src.fits.eq_2, Src.fits.eq_3, Addr.a.eq_1, h] <;> omega⟩
theorem Sys2Proof.Laws.Encodes.lmovR (x : RB) : Sys2Proof.Laws.Encodes.Statement (.lmovR x) := by
  intro h r hr
  simp only [Instr.wf, RB.fits, Bool.and_eq_true, decide_eq_true_eq] at h
  cases hr
  exact ⟨rfl, by simp [rawFits, fmtOf, hasExt, Src.fits.eq_1, Src.fits.eq_2, Src.fits.eq_3, Addr.a.eq_1, h] <;> omega⟩
theorem Sys2Proof.Laws.Encodes.lmovW (x : RB) : Sys2Proof.Laws.Encodes.Statement (.lmovW x) := by
  intro h r hr
  simp only [Instr.wf, RB.fits, Bool.and_eq_true, decide_eq_true_eq] at h
  cases hr
  exact ⟨rfl, by simp [rawFits, fmtOf, hasExt, Src.fits.eq_1, Src.fits.eq_2, Src.fits.eq_3, Addr.a.eq_1, h] <;> omega⟩
theorem Sys2Proof.Laws.Encodes.brk (x : RB1) : Sys2Proof.Laws.Encodes.Statement (.brk x) := by
  intro h r hr
  simp only [Instr.wf, RB1.fits, Bool.and_eq_true, decide_eq_true_eq] at h
  cases hr
  exact ⟨rfl, by simp [rawFits, fmtOf, hasExt, Src.fits.eq_1, Src.fits.eq_2, Src.fits.eq_3, Addr.a.eq_1, h] <;> omega⟩
theorem Sys2Proof.Laws.Encodes.resume (x : RU) : Sys2Proof.Laws.Encodes.Statement (.resume x) := by
  intro h r hr
  simp only [Instr.wf, RU.fits, Bool.and_eq_true, decide_eq_true_eq] at h
  cases hr
  exact ⟨rfl, by simp [rawFits, fmtOf, hasExt, Src.fits.eq_1, Src.fits.eq_2, Src.fits.eq_3, Addr.a.eq_1, h] <;> omega⟩
theorem Sys2Proof.Laws.Encodes.drop (x : RU) : Sys2Proof.Laws.Encodes.Statement (.drop x) := by
  intro h r hr
  simp only [Instr.wf, RU.fits, Bool.and_eq_true, decide_eq_true_eq] at h
  cases hr
  exact ⟨rfl, by simp [rawFits, fmtOf, hasExt, Src.fits.eq_1, Src.fits.eq_2, Src.fits.eq_3, Addr.a.eq_1, h] <;> omega⟩
theorem Sys2Proof.Laws.Encodes.nop (x : C0) : Sys2Proof.Laws.Encodes.Statement (.nop x) := by
  intro h r hr
  simp only [Instr.wf, C0.fits, Bool.and_eq_true, decide_eq_true_eq] at h
  cases hr
  exact ⟨rfl, by simp [rawFits, fmtOf, hasExt, Src.fits.eq_1, Src.fits.eq_2, Src.fits.eq_3, Addr.a.eq_1, h] <;> omega⟩

/-! Steps of the device, which no word encodes -/

theorem Sys2Proof.Laws.Encodes.packetIssue (g : Nat) (n : Nat) : Sys2Proof.Laws.Encodes.Statement (.packetIssue g n) := fun _ _ h => nomatch h
theorem Sys2Proof.Laws.Encodes.countedComplete (id : Nat) : Sys2Proof.Laws.Encodes.Statement (.countedComplete id) := fun _ _ h => nomatch h
theorem Sys2Proof.Laws.Encodes.packetCacheFill (id : Nat) : Sys2Proof.Laws.Encodes.Statement (.packetCacheFill id) := fun _ _ h => nomatch h
theorem Sys2Proof.Laws.Encodes.brandFill (id : Nat) : Sys2Proof.Laws.Encodes.Statement (.brandFill id) := fun _ _ h => nomatch h
theorem Sys2Proof.Laws.Encodes.pcTableEvict (g : Nat) : Sys2Proof.Laws.Encodes.Statement (.pcTableEvict g) := fun _ _ h => nomatch h
theorem Sys2Proof.Laws.Encodes.reconRelease (g : Nat) (slot : Nat) : Sys2Proof.Laws.Encodes.Statement (.reconRelease g slot) := fun _ _ h => nomatch h
theorem Sys2Proof.Laws.Encodes.teamForm (cl : Nat) : Sys2Proof.Laws.Encodes.Statement (.teamForm cl) := fun _ _ h => nomatch h
theorem Sys2Proof.Laws.Encodes.teamFree (id : Nat) : Sys2Proof.Laws.Encodes.Statement (.teamFree id) := fun _ _ h => nomatch h
theorem Sys2Proof.Laws.Encodes.shapeSpill (g : Nat) (slot : Nat) : Sys2Proof.Laws.Encodes.Statement (.shapeSpill g slot) := fun _ _ h => nomatch h
theorem Sys2Proof.Laws.Encodes.spillReturn (g : Nat) : Sys2Proof.Laws.Encodes.Statement (.spillReturn g) := fun _ _ h => nomatch h
theorem Sys2Proof.Laws.Encodes.spillReload (g : Nat) (slot : Nat) : Sys2Proof.Laws.Encodes.Statement (.spillReload g slot) := fun _ _ h => nomatch h
theorem Sys2Proof.Laws.Encodes.qtailWrite (fn : Nat) (q : Nat) (v : W) : Sys2Proof.Laws.Encodes.Statement (.qtailWrite fn q v) := fun _ _ h => nomatch h
theorem Sys2Proof.Laws.Encodes.queueService (dq : Nat) : Sys2Proof.Laws.Encodes.Statement (.queueService dq) := fun _ _ h => nomatch h
theorem Sys2Proof.Laws.Encodes.ringWatchTimeout (dq : Nat) : Sys2Proof.Laws.Encodes.Statement (.ringWatchTimeout dq) := fun _ _ h => nomatch h
theorem Sys2Proof.Laws.Encodes.headWriteback (dq : Nat) : Sys2Proof.Laws.Encodes.Statement (.headWriteback dq) := fun _ _ h => nomatch h
theorem Sys2Proof.Laws.Encodes.headWritebackRetry (fn : Nat) (q : Nat) : Sys2Proof.Laws.Encodes.Statement (.headWritebackRetry fn q) := fun _ _ h => nomatch h
theorem Sys2Proof.Laws.Encodes.queueEnable (fn : Nat) (q : Nat) : Sys2Proof.Laws.Encodes.Statement (.queueEnable fn q) := fun _ _ h => nomatch h
theorem Sys2Proof.Laws.Encodes.queueDisable (fn : Nat) (q : Nat) : Sys2Proof.Laws.Encodes.Statement (.queueDisable fn q) := fun _ _ h => nomatch h
theorem Sys2Proof.Laws.Encodes.queueRestart (fn : Nat) (q : Nat) : Sys2Proof.Laws.Encodes.Statement (.queueRestart fn q) := fun _ _ h => nomatch h
theorem Sys2Proof.Laws.Encodes.queueRestartSkip (fn : Nat) (q : Nat) : Sys2Proof.Laws.Encodes.Statement (.queueRestartSkip fn q) := fun _ _ h => nomatch h
theorem Sys2Proof.Laws.Encodes.launchStart (key : Nat) : Sys2Proof.Laws.Encodes.Statement (.launchStart key) := fun _ _ h => nomatch h
theorem Sys2Proof.Laws.Encodes.waitwCheck (dq : Nat) : Sys2Proof.Laws.Encodes.Statement (.waitwCheck dq) := fun _ _ h => nomatch h
theorem Sys2Proof.Laws.Encodes.waitwTimeout (dq : Nat) : Sys2Proof.Laws.Encodes.Statement (.waitwTimeout dq) := fun _ _ h => nomatch h
theorem Sys2Proof.Laws.Encodes.signalStore (dq : Nat) : Sys2Proof.Laws.Encodes.Statement (.signalStore dq) := fun _ _ h => nomatch h
theorem Sys2Proof.Laws.Encodes.graphLoop (dq : Nat) : Sys2Proof.Laws.Encodes.Statement (.graphLoop dq) := fun _ _ h => nomatch h
theorem Sys2Proof.Laws.Encodes.graphEnd (dq : Nat) : Sys2Proof.Laws.Encodes.Statement (.graphEnd dq) := fun _ _ h => nomatch h
theorem Sys2Proof.Laws.Encodes.replicationReceive (r : Replica) : Sys2Proof.Laws.Encodes.Statement (.replicationReceive r) := fun _ _ h => nomatch h
theorem Sys2Proof.Laws.Encodes.startReady (key : Nat) (chip : Nat) (gen : Nat) : Sys2Proof.Laws.Encodes.Statement (.startReady key chip gen) := fun _ _ h => nomatch h
theorem Sys2Proof.Laws.Encodes.startReleaseReceive (key : Nat) (gen : Nat) (t : Nat) : Sys2Proof.Laws.Encodes.Statement (.startReleaseReceive key gen t) := fun _ _ h => nomatch h
theorem Sys2Proof.Laws.Encodes.startBarrierIssue (key : Nat) : Sys2Proof.Laws.Encodes.Statement (.startBarrierIssue key) := fun _ _ h => nomatch h
theorem Sys2Proof.Laws.Encodes.startBarrierTimeout (key : Nat) : Sys2Proof.Laws.Encodes.Statement (.startBarrierTimeout key) := fun _ _ h => nomatch h
theorem Sys2Proof.Laws.Encodes.startAbortReceive (key : Nat) (gen : Nat) : Sys2Proof.Laws.Encodes.Statement (.startAbortReceive key gen) := fun _ _ h => nomatch h
theorem Sys2Proof.Laws.Encodes.ctxCreate (fn : Nat) (ctx : Nat) : Sys2Proof.Laws.Encodes.Statement (.ctxCreate fn ctx) := fun _ _ h => nomatch h
theorem Sys2Proof.Laws.Encodes.ctxReload (fn : Nat) (ctx : Nat) : Sys2Proof.Laws.Encodes.Statement (.ctxReload fn ctx) := fun _ _ h => nomatch h
theorem Sys2Proof.Laws.Encodes.ctxDestroy (fn : Nat) (ctx : Nat) : Sys2Proof.Laws.Encodes.Statement (.ctxDestroy fn ctx) := fun _ _ h => nomatch h
theorem Sys2Proof.Laws.Encodes.ctxCmdNone (fn : Nat) (ctx : Nat) : Sys2Proof.Laws.Encodes.Statement (.ctxCmdNone fn ctx) := fun _ _ h => nomatch h
theorem Sys2Proof.Laws.Encodes.standPlace (key : Nat) : Sys2Proof.Laws.Encodes.Statement (.standPlace key) := fun _ _ h => nomatch h
theorem Sys2Proof.Laws.Encodes.partitionWrite (p : Nat) (reg : Nat) (v : W) : Sys2Proof.Laws.Encodes.Statement (.partitionWrite p reg v) := fun _ _ h => nomatch h
theorem Sys2Proof.Laws.Encodes.epochBoundary : Sys2Proof.Laws.Encodes.Statement .epochBoundary := fun _ _ h => nomatch h
theorem Sys2Proof.Laws.Encodes.chunkRequest (id : Nat) : Sys2Proof.Laws.Encodes.Statement (.chunkRequest id) := fun _ _ h => nomatch h
theorem Sys2Proof.Laws.Encodes.clusterLend (p : Nat) : Sys2Proof.Laws.Encodes.Statement (.clusterLend p) := fun _ _ h => nomatch h
theorem Sys2Proof.Laws.Encodes.clusterReclaim (gcl : Nat) : Sys2Proof.Laws.Encodes.Statement (.clusterReclaim gcl) := fun _ _ h => nomatch h
theorem Sys2Proof.Laws.Encodes.reclaimHandover (gcl : Nat) : Sys2Proof.Laws.Encodes.Statement (.reclaimHandover gcl) := fun _ _ h => nomatch h
theorem Sys2Proof.Laws.Encodes.intervalBoundary (ctx : Nat) : Sys2Proof.Laws.Encodes.Statement (.intervalBoundary ctx) := fun _ _ h => nomatch h
theorem Sys2Proof.Laws.Encodes.mergeCountReceive (chip : Nat) (ctx : Nat) (k : Nat) (count : Nat) : Sys2Proof.Laws.Encodes.Statement (.mergeCountReceive chip ctx k count) := fun _ _ h => nomatch h
theorem Sys2Proof.Laws.Encodes.mergeMinimumSend (ctx : Nat) : Sys2Proof.Laws.Encodes.Statement (.mergeMinimumSend ctx) := fun _ _ h => nomatch h
theorem Sys2Proof.Laws.Encodes.mergeResultReceive (ctx : Nat) (k : Nat) (res : Nat) : Sys2Proof.Laws.Encodes.Statement (.mergeResultReceive ctx k res) := fun _ _ h => nomatch h
theorem Sys2Proof.Laws.Encodes.loopStep (ctx : Nat) : Sys2Proof.Laws.Encodes.Statement (.loopStep ctx) := fun _ _ h => nomatch h
theorem Sys2Proof.Laws.Encodes.umpireRound : Sys2Proof.Laws.Encodes.Statement .umpireRound := fun _ _ h => nomatch h
theorem Sys2Proof.Laws.Encodes.clockStepApply (gcl : Nat) : Sys2Proof.Laws.Encodes.Statement (.clockStepApply gcl) := fun _ _ h => nomatch h
theorem Sys2Proof.Laws.Encodes.intervalWrite (fn : Nat) (ctx : Nat) (v : W) : Sys2Proof.Laws.Encodes.Statement (.intervalWrite fn ctx v) := fun _ _ h => nomatch h
theorem Sys2Proof.Laws.Encodes.loopSave (fn : Nat) (ctx : Nat) : Sys2Proof.Laws.Encodes.Statement (.loopSave fn ctx) := fun _ _ h => nomatch h
theorem Sys2Proof.Laws.Encodes.loopClear (fn : Nat) (ctx : Nat) : Sys2Proof.Laws.Encodes.Statement (.loopClear fn ctx) := fun _ _ h => nomatch h
theorem Sys2Proof.Laws.Encodes.actuatorLimitWrite (fn : Nat) (ctx : Nat) (k : Nat) (v : W) : Sys2Proof.Laws.Encodes.Statement (.actuatorLimitWrite fn ctx k v) := fun _ _ h => nomatch h
theorem Sys2Proof.Laws.Encodes.btFieldWrite (fn : Nat) (ctx : Nat) (reg : Nat) (v : W) : Sys2Proof.Laws.Encodes.Statement (.btFieldWrite fn ctx reg v) := fun _ _ h => nomatch h
theorem Sys2Proof.Laws.Encodes.storeAck (id : Nat) : Sys2Proof.Laws.Encodes.Statement (.storeAck id) := fun _ _ h => nomatch h
theorem Sys2Proof.Laws.Encodes.landingFaultPark (id : Nat) : Sys2Proof.Laws.Encodes.Statement (.landingFaultPark id) := fun _ _ h => nomatch h
theorem Sys2Proof.Laws.Encodes.holdQueueRoom (stack : Nat) : Sys2Proof.Laws.Encodes.Statement (.holdQueueRoom stack) := fun _ _ h => nomatch h
theorem Sys2Proof.Laws.Encodes.invalidatePage (fn : Nat) : Sys2Proof.Laws.Encodes.Statement (.invalidatePage fn) := fun _ _ h => nomatch h
theorem Sys2Proof.Laws.Encodes.invalidateTag (fn : Nat) : Sys2Proof.Laws.Encodes.Statement (.invalidateTag fn) := fun _ _ h => nomatch h
theorem Sys2Proof.Laws.Encodes.invalidateFunction (fn : Nat) : Sys2Proof.Laws.Encodes.Statement (.invalidateFunction fn) := fun _ _ h => nomatch h
theorem Sys2Proof.Laws.Encodes.invalidateDone (fn : Nat) : Sys2Proof.Laws.Encodes.Statement (.invalidateDone fn) := fun _ _ h => nomatch h
theorem Sys2Proof.Laws.Encodes.copyComplete (id : Nat) : Sys2Proof.Laws.Encodes.Statement (.copyComplete id) := fun _ _ h => nomatch h
theorem Sys2Proof.Laws.Encodes.ringAppend (m : RingMsg) : Sys2Proof.Laws.Encodes.Statement (.ringAppend m) := fun _ _ h => nomatch h
theorem Sys2Proof.Laws.Encodes.sendStatus (id : Nat) (status : Nat) : Sys2Proof.Laws.Encodes.Statement (.sendStatus id status) := fun _ _ h => nomatch h
theorem Sys2Proof.Laws.Encodes.treeContribution (t : TreeMsg) : Sys2Proof.Laws.Encodes.Statement (.treeContribution t) := fun _ _ h => nomatch h
theorem Sys2Proof.Laws.Encodes.matrixOpComplete (team : Nat) : Sys2Proof.Laws.Encodes.Statement (.matrixOpComplete team) := fun _ _ h => nomatch h
theorem Sys2Proof.Laws.Encodes.batchComplete (team : Nat) : Sys2Proof.Laws.Encodes.Statement (.batchComplete team) := fun _ _ h => nomatch h
theorem Sys2Proof.Laws.Encodes.operandFault (team : Nat) : Sys2Proof.Laws.Encodes.Statement (.operandFault team) := fun _ _ h => nomatch h
theorem Sys2Proof.Laws.Encodes.splitkPartArrive (id : Nat) : Sys2Proof.Laws.Encodes.Statement (.splitkPartArrive id) := fun _ _ h => nomatch h
theorem Sys2Proof.Laws.Encodes.watchTrigger (g : Nat) (slot : Nat) (lane : Nat) : Sys2Proof.Laws.Encodes.Statement (.watchTrigger g slot lane) := fun _ _ h => nomatch h
theorem Sys2Proof.Laws.Encodes.mwaitTimeout (g : Nat) (slot : Nat) (lane : Nat) : Sys2Proof.Laws.Encodes.Statement (.mwaitTimeout g slot lane) := fun _ _ h => nomatch h
theorem Sys2Proof.Laws.Encodes.hostWrite (pa : Nat) (bytes : List Byte) : Sys2Proof.Laws.Encodes.Statement (.hostWrite pa bytes) := fun _ _ h => nomatch h
theorem Sys2Proof.Laws.Encodes.hostRead (pa : Nat) (n : Nat) : Sys2Proof.Laws.Encodes.Statement (.hostRead pa n) := fun _ _ h => nomatch h
theorem Sys2Proof.Laws.Encodes.peerAccess (r : PeerReq) : Sys2Proof.Laws.Encodes.Statement (.peerAccess r) := fun _ _ h => nomatch h
theorem Sys2Proof.Laws.Encodes.trapDelivery (g : Nat) (slot : Nat) : Sys2Proof.Laws.Encodes.Statement (.trapDelivery g slot) := fun _ _ h => nomatch h
theorem Sys2Proof.Laws.Encodes.faultNotice (id : Nat) : Sys2Proof.Laws.Encodes.Statement (.faultNotice id) := fun _ _ h => nomatch h
theorem Sys2Proof.Laws.Encodes.ghostDelivery (g : Nat) (slot : Nat) : Sys2Proof.Laws.Encodes.Statement (.ghostDelivery g slot) := fun _ _ h => nomatch h
theorem Sys2Proof.Laws.Encodes.kill (key : Nat) (cause : Nat) : Sys2Proof.Laws.Encodes.Statement (.kill key cause) := fun _ _ h => nomatch h
theorem Sys2Proof.Laws.Encodes.switchOut (g : Nat) : Sys2Proof.Laws.Encodes.Statement (.switchOut g) := fun _ _ h => nomatch h
theorem Sys2Proof.Laws.Encodes.sliceEnd (g : Nat) : Sys2Proof.Laws.Encodes.Statement (.sliceEnd g) := fun _ _ h => nomatch h
theorem Sys2Proof.Laws.Encodes.budgetOverrun (g : Nat) : Sys2Proof.Laws.Encodes.Statement (.budgetOverrun g) := fun _ _ h => nomatch h
theorem Sys2Proof.Laws.Encodes.swapIn (g : Nat) : Sys2Proof.Laws.Encodes.Statement (.swapIn g) := fun _ _ h => nomatch h
theorem Sys2Proof.Laws.Encodes.saveWriteDone (g : Nat) : Sys2Proof.Laws.Encodes.Statement (.saveWriteDone g) := fun _ _ h => nomatch h
theorem Sys2Proof.Laws.Encodes.completionPoint (key : Nat) : Sys2Proof.Laws.Encodes.Statement (.completionPoint key) := fun _ _ h => nomatch h
theorem Sys2Proof.Laws.Encodes.replicaDone (key : Nat) (chip : Nat) (gen : Nat) : Sys2Proof.Laws.Encodes.Statement (.replicaDone key chip gen) := fun _ _ h => nomatch h
theorem Sys2Proof.Laws.Encodes.causeEntryClear (n : Nat) (v : W) : Sys2Proof.Laws.Encodes.Statement (.causeEntryClear n v) := fun _ _ h => nomatch h
theorem Sys2Proof.Laws.Encodes.vfInterruptInject (v : W) : Sys2Proof.Laws.Encodes.Statement (.vfInterruptInject v) := fun _ _ h => nomatch h
theorem Sys2Proof.Laws.Encodes.reportRingEnable (fn : Nat) : Sys2Proof.Laws.Encodes.Statement (.reportRingEnable fn) := fun _ _ h => nomatch h
theorem Sys2Proof.Laws.Encodes.partitionReset (v : W) : Sys2Proof.Laws.Encodes.Statement (.partitionReset v) := fun _ _ h => nomatch h
theorem Sys2Proof.Laws.Encodes.resetDrainEnd (p : Nat) : Sys2Proof.Laws.Encodes.Statement (.resetDrainEnd p) := fun _ _ h => nomatch h
theorem Sys2Proof.Laws.Encodes.vfFlr (fn : Nat) : Sys2Proof.Laws.Encodes.Statement (.vfFlr fn) := fun _ _ h => nomatch h
theorem Sys2Proof.Laws.Encodes.vfDisable : Sys2Proof.Laws.Encodes.Statement .vfDisable := fun _ _ h => nomatch h
theorem Sys2Proof.Laws.Encodes.vfEnable (n : Nat) : Sys2Proof.Laws.Encodes.Statement (.vfEnable n) := fun _ _ h => nomatch h
theorem Sys2Proof.Laws.Encodes.pfReset (conv : Bool) : Sys2Proof.Laws.Encodes.Statement (.pfReset conv) := fun _ _ h => nomatch h
theorem Sys2Proof.Laws.Encodes.guestTimeApply (f : Nat) : Sys2Proof.Laws.Encodes.Statement (.guestTimeApply f) := fun _ _ h => nomatch h
theorem Sys2Proof.Laws.Encodes.linkDown (n : Nat) : Sys2Proof.Laws.Encodes.Statement (.linkDown n) := fun _ _ h => nomatch h
theorem Sys2Proof.Laws.Encodes.linkUp (n : Nat) (lanes : Nat) : Sys2Proof.Laws.Encodes.Statement (.linkUp n lanes) := fun _ _ h => nomatch h
theorem Sys2Proof.Laws.Encodes.timebaseSync (t : DW) : Sys2Proof.Laws.Encodes.Statement (.timebaseSync t) := fun _ _ h => nomatch h
theorem Sys2Proof.Laws.Encodes.checkpointSave (v : W) : Sys2Proof.Laws.Encodes.Statement (.checkpointSave v) := fun _ _ h => nomatch h
theorem Sys2Proof.Laws.Encodes.checkpointRestore (v : W) : Sys2Proof.Laws.Encodes.Statement (.checkpointRestore v) := fun _ _ h => nomatch h
theorem Sys2Proof.Laws.Encodes.checkpointDone (err : Nat) : Sys2Proof.Laws.Encodes.Statement (.checkpointDone err) := fun _ _ h => nomatch h
theorem Sys2Proof.Laws.Encodes.expanderDown (port : Nat) : Sys2Proof.Laws.Encodes.Statement (.expanderDown port) := fun _ _ h => nomatch h
theorem Sys2Proof.Laws.Encodes.debugStop (ctx : Nat) : Sys2Proof.Laws.Encodes.Statement (.debugStop ctx) := fun _ _ h => nomatch h
theorem Sys2Proof.Laws.Encodes.debugRun (ctx : Nat) : Sys2Proof.Laws.Encodes.Statement (.debugRun ctx) := fun _ _ h => nomatch h
theorem Sys2Proof.Laws.Encodes.debugStep (ctx : Nat) : Sys2Proof.Laws.Encodes.Statement (.debugStep ctx) := fun _ _ h => nomatch h
theorem Sys2Proof.Laws.Encodes.debugRegRead (ctx : Nat) : Sys2Proof.Laws.Encodes.Statement (.debugRegRead ctx) := fun _ _ h => nomatch h
theorem Sys2Proof.Laws.Encodes.debugRegWrite (ctx : Nat) (v : W) : Sys2Proof.Laws.Encodes.Statement (.debugRegWrite ctx v) := fun _ _ h => nomatch h
theorem Sys2Proof.Laws.Encodes.debugDrainTimeout (ctx : Nat) : Sys2Proof.Laws.Encodes.Statement (.debugDrainTimeout ctx) := fun _ _ h => nomatch h
theorem Sys2Proof.Laws.Encodes.debugArm (p : Nat) (v : W) : Sys2Proof.Laws.Encodes.Statement (.debugArm p v) := fun _ _ h => nomatch h
theorem Sys2Proof.Laws.Encodes.freeze : Sys2Proof.Laws.Encodes.Statement .freeze := fun _ _ h => nomatch h
theorem Sys2Proof.Laws.Encodes.eccCorrected : Sys2Proof.Laws.Encodes.Statement .eccCorrected := fun _ _ h => nomatch h
theorem Sys2Proof.Laws.Encodes.eccUncorrectable (place : EccPlace) : Sys2Proof.Laws.Encodes.Statement (.eccUncorrectable place) := fun _ _ h => nomatch h
theorem Sys2Proof.Laws.Encodes.unitFence (kind : Nat) (unit : Nat) : Sys2Proof.Laws.Encodes.Statement (.unitFence kind unit) := fun _ _ h => nomatch h
theorem Sys2Proof.Laws.Encodes.patrolScrub : Sys2Proof.Laws.Encodes.Statement .patrolScrub := fun _ _ h => nomatch h
theorem Sys2Proof.Laws.Encodes.powerLimitCross (above : Bool) : Sys2Proof.Laws.Encodes.Statement (.powerLimitCross above) := fun _ _ h => nomatch h
theorem Sys2Proof.Laws.Encodes.thermalShutdown : Sys2Proof.Laws.Encodes.Statement .thermalShutdown := fun _ _ h => nomatch h
theorem Sys2Proof.Laws.Encodes.spdmRequest (bytes : List Byte) : Sys2Proof.Laws.Encodes.Statement (.spdmRequest bytes) := fun _ _ h => nomatch h
theorem Sys2Proof.Laws.Encodes.bringUp : Sys2Proof.Laws.Encodes.Statement .bringUp := fun _ _ h => nomatch h
theorem Sys2Proof.Laws.Encodes.registerWrite (fn : Nat) (off : Nat) (v : W) : Sys2Proof.Laws.Encodes.Statement (.registerWrite fn off v) := fun _ _ h => nomatch h
theorem Sys2Proof.Laws.Encodes.expanderUp (port : Nat) (size : Nat) : Sys2Proof.Laws.Encodes.Statement (.expanderUp port size) := fun _ _ h => nomatch h
theorem Sys2Proof.Laws.Encodes.thermalLimitReached : Sys2Proof.Laws.Encodes.Statement .thermalLimitReached := fun _ _ h => nomatch h
theorem Sys2Proof.Laws.Encodes.firmwareUpdateStaged (img : FwImage) : Sys2Proof.Laws.Encodes.Statement (.firmwareUpdateStaged img) := fun _ _ h => nomatch h
theorem Sys2Proof.Laws.Encodes.ctxCommandDone (fn : Nat) : Sys2Proof.Laws.Encodes.Statement (.ctxCommandDone fn) := fun _ _ h => nomatch h
theorem Sys2Proof.Laws.Encodes.loopSaveDone (ctx : Nat) : Sys2Proof.Laws.Encodes.Statement (.loopSaveDone ctx) := fun _ _ h => nomatch h
theorem Sys2Proof.Laws.Encodes.tdiscardDone (id : Nat) : Sys2Proof.Laws.Encodes.Statement (.tdiscardDone id) := fun _ _ h => nomatch h
theorem Sys2Proof.Laws.Encodes.landingsAnswered (id : Nat) : Sys2Proof.Laws.Encodes.Statement (.landingsAnswered id) := fun _ _ h => nomatch h

end
end

