-- ==== Sys2Proof/Laws/Decode.lean ====
section
/-! SUPPORT. Fields within their widths are read back from their words. -/
namespace Sys2Proof.Laws

theorem sx_imm {i : Int} (h : -31 ≤ i) (h' : i ≤ 31) : sx (64 + toPat i 6) 6 = i ∧ toPat i 6 < 64 ∧ toPat i 6 ≠ 32 := by
  have d : (2 ^ (6 - 1) : Nat) = 32 := rfl
  have f : (2 ^ 6 : Nat) = 64 := rfl
  simp only [sx, toPat, d, f]
  refine ⟨?_, by omega, by omega⟩
  split <;> omega

theorem src_field {b : Src} (h : b.fits = true) : b.k < 2 ∧ b.f < 128 := by
  cases b <;> simp only [Src.fits, decide_eq_true_eq] at h <;> simp only [Src.k, Src.f]
  · omega
  · omega
  · have := sx_imm h.1 h.2; omega
  · omega

theorem takeSrc_lits {b : Src} (h : b.fits = true) (ws : List W) : takeSrc b.k b.f (b.lits ++ ws) = some (b, ws) := by
  cases b with
  | v n => rfl
  | s n =>
    simp only [Src.fits, decide_eq_true_eq] at h
    simp [takeSrc, Src.k, Src.f, Src.lits, h]
  | imm i =>
    simp only [Src.fits, decide_eq_true_eq] at h
    have := sx_imm h.1 h.2
    have a : ¬ (64 + toPat i 6 < 64) := by omega
    have b : ¬ (64 + toPat i 6 = 96) := by omega
    simp [takeSrc, Src.k, Src.f, Src.lits, a, b, this.1]
  | lit w => rfl

theorem addr_field (a : Addr) : a.am < 4 := by cases a <;> simp [Addr.am]
theorem takeAddr_lits (a : Addr) (ws : List W) : takeAddr a.am a.a (a.lits ++ ws) = some (a, ws) := by cases a <;> rfl

theorem xf_field {l : Bool} {a : XF} (h : xfOk l a) : a.f < 128 := by cases a <;> simp_all [xfOk, XF.f]
theorem takeXF_lits {l : Bool} {a : XF} (h : xfOk l a) (ws : List W) : takeXF l a.f (a.lits ++ ws) = some (a, ws) := by
  cases a <;> cases l <;> simp_all [xfOk, takeXF, XF.f, XF.lits]


/-- Reading a word, or two, whose fields are known: the R format. -/
theorem fields_r (maj op c d a : Nat) (b : Src) (hf : fmtOf maj = some .r) (he : hasExt maj op = false) (hb : b.fits = true) (x : Nat) (w : W) (ex : w.toNat = x) (fx0 : bits x 31 1 = c) (fx1 : bits x 25 6 = maj) (fx2 : bits x 22 3 = op) (fx3 : bits x 21 1 = b.k) (fx4 : bits x 14 7 = d) (fx5 : bits x 7 7 = a) (fx6 : bits x 0 7 = b.f) (ws : List W) : parse (w :: (b.lits ++ ws)) = some (.r maj op c d a b, ws) := by
  simp [parse, ex, fx0, fx1, fx2, fx3, fx4, fx5, fx6, hf, he, takeSrc_lits hb]
theorem words_r (maj op c d a : Nat) (b : Src) (h : rawFits (.r maj op c d a b)) (ws : List W) : parse ((Raw.r maj op c d a b).words ++ ws) = some (.r maj op c d a b, ws) := by
  obtain ⟨hf, he, h1, h2, h3, h4, h5, hb⟩ := h
  obtain ⟨hk, hg⟩ := src_field hb
  have hw : (Raw.r maj op c d a b).words ++ ws = BitVec.ofNat 32 (c * 2 ^ 31 + maj * 2 ^ 25 + op * 2 ^ 22 + b.k * 2 ^ 21 + d * 2 ^ 14 + a * 2 ^ 7 + b.f) :: (b.lits ++ ws) := by simp [Raw.words]
  rw [hw]
  exact fields_r maj op c d a b hf he hb (c * 2 ^ 31 + maj * 2 ^ 25 + op * 2 ^ 22 + b.k * 2 ^ 21 + d * 2 ^ 14 + a * 2 ^ 7 + b.f) _ (by simp only [BitVec.toNat_ofNat]; omega) (by unfold bits; omega) (by unfold bits; omega) (by unfold bits; omega) (by unfold bits; omega) (by unfold bits; omega) (by unfold bits; omega) (by unfold bits; omega) ws

/-- Reading a word, or two, whose fields are known: the RX format. -/
theorem fields_rx (maj op c d a : Nat) (b e : Src) (pe sf df rnd : Nat) (hf : fmtOf maj = some .r) (he : hasExt maj op = true) (hb : b.fits = true) (hes : e.fits = true) (x : Nat) (w : W) (ex : w.toNat = x) (fx0 : bits x 31 1 = c) (fx1 : bits x 25 6 = maj) (fx2 : bits x 22 3 = op) (fx3 : bits x 21 1 = b.k) (fx4 : bits x 14 7 = d) (fx5 : bits x 7 7 = a) (fx6 : bits x 0 7 = b.f) (y : Nat) (v : W) (ey : v.toNat = y) (fy0 : bits y 26 6 = 0) (fy1 : bits y 7 1 = e.k) (fy2 : bits y 0 7 = e.f) (fy3 : bits y 8 7 = pe) (fy4 : bits y 15 4 = sf) (fy5 : bits y 19 4 = df) (fy6 : bits y 23 3 = rnd) (ws : List W) : parse (w :: v :: (b.lits ++ (e.lits ++ ws))) = some (.rx maj op c d a b e pe sf df rnd, ws) := by
  simp [parse, ex, fx0, fx1, fx2, fx3, fx4, fx5, fx6, ey, fy0, fy1, fy2, fy3, fy4, fy5, fy6, hf, he, takeSrc_lits hb, takeSrc_lits hes]
theorem words_rx (maj op c d a : Nat) (b e : Src) (pe sf df rnd : Nat) (h : rawFits (.rx maj op c d a b e pe sf df rnd)) (ws : List W) : parse ((Raw.rx maj op c d a b e pe sf df rnd).words ++ ws) = some (.rx maj op c d a b e pe sf df rnd, ws) := by
  obtain ⟨hf, he, h1, h2, h3, h4, h5, hb, hes, h6, h7, h8, h9⟩ := h
  obtain ⟨hk, hg⟩ := src_field hb
  obtain ⟨hk2, hg2⟩ := src_field hes
  have hw : (Raw.rx maj op c d a b e pe sf df rnd).words ++ ws = BitVec.ofNat 32 (c * 2 ^ 31 + maj * 2 ^ 25 + op * 2 ^ 22 + b.k * 2 ^ 21 + d * 2 ^ 14 + a * 2 ^ 7 + b.f) :: BitVec.ofNat 32 (rnd * 2 ^ 23 + df * 2 ^ 19 + sf * 2 ^ 15 + pe * 2 ^ 8 + e.k * 2 ^ 7 + e.f) :: (b.lits ++ (e.lits ++ ws)) := by simp [Raw.words]
  rw [hw]
  exact fields_rx maj op c d a b e pe sf df rnd hf he hb hes (c * 2 ^ 31 + maj * 2 ^ 25 + op * 2 ^ 22 + b.k * 2 ^ 21 + d * 2 ^ 14 + a * 2 ^ 7 + b.f) _ (by simp only [BitVec.toNat_ofNat]; omega) (by unfold bits; omega) (by unfold bits; omega) (by unfold bits; omega) (by unfold bits; omega) (by unfold bits; omega) (by unfold bits; omega) (by unfold bits; omega) (rnd * 2 ^ 23 + df * 2 ^ 19 + sf * 2 ^ 15 + pe * 2 ^ 8 + e.k * 2 ^ 7 + e.f) _ (by simp only [BitVec.toNat_ofNat]; omega) (by unfold bits; omega) (by unfold bits; omega) (by unfold bits; omega) (by unfold bits; omega) (by unfold bits; omega) (by unfold bits; omega) (by unfold bits; omega) ws

/-- Reading a word, or two, whose fields are known: the M format. -/
theorem fields_m (maj op c ord scp d : Nat) (addr : Addr) (hf : fmtOf maj = some .m) (x : Nat) (w : W) (ex : w.toNat = x) (fx0 : bits x 31 1 = c) (fx1 : bits x 25 6 = maj) (fx2 : bits x 22 3 = op) (fx3 : bits x 20 2 = ord) (fx4 : bits x 16 4 = scp) (fx5 : bits x 9 7 = d) (fx6 : bits x 2 7 = addr.a) (fx7 : bits x 0 2 = addr.am) (ws : List W) : parse (w :: (addr.lits ++ ws)) = some (.m maj op c ord scp d addr, ws) := by
  simp [parse, ex, fx0, fx1, fx2, fx3, fx4, fx5, fx6, fx7, hf, takeAddr_lits]
theorem words_m (maj op c ord scp d : Nat) (addr : Addr) (h : rawFits (.m maj op c ord scp d addr)) (ws : List W) : parse ((Raw.m maj op c ord scp d addr).words ++ ws) = some (.m maj op c ord scp d addr, ws) := by
  obtain ⟨hf, h1, h2, h3, h4, h5, h6, h7⟩ := h
  have hk := addr_field addr
  have hw : (Raw.m maj op c ord scp d addr).words ++ ws = BitVec.ofNat 32 (c * 2 ^ 31 + maj * 2 ^ 25 + op * 2 ^ 22 + ord * 2 ^ 20 + scp * 2 ^ 16 + d * 2 ^ 9 + addr.a * 2 ^ 2 + addr.am) :: (addr.lits ++ ws) := by simp [Raw.words]
  rw [hw]
  exact fields_m maj op c ord scp d addr hf (c * 2 ^ 31 + maj * 2 ^ 25 + op * 2 ^ 22 + ord * 2 ^ 20 + scp * 2 ^ 16 + d * 2 ^ 9 + addr.a * 2 ^ 2 + addr.am) _ (by simp only [BitVec.toNat_ofNat]; omega) (by unfold bits; omega) (by unfold bits; omega) (by unfold bits; omega) (by unfold bits; omega) (by unfold bits; omega) (by unfold bits; omega) (by unfold bits; omega) (by unfold bits; omega) ws

/-- Reading a word, or two, whose fields are known: the MA format. -/
theorem fields_ma (maj op c ord scp d : Nat) (addr : Addr) (b n : Src) (hf : fmtOf maj = some .ma) (hb : b.fits = true) (hn : n.fits = true) (x : Nat) (w : W) (ex : w.toNat = x) (fx0 : bits x 31 1 = c) (fx1 : bits x 25 6 = maj) (fx2 : bits x 22 3 = op) (fx3 : bits x 20 2 = ord) (fx4 : bits x 16 4 = scp) (fx5 : bits x 9 7 = d) (fx6 : bits x 2 7 = addr.a) (fx7 : bits x 0 2 = addr.am) (y : Nat) (v : W) (ey : v.toNat = y) (fy0 : bits y 16 16 = 0) (fy1 : bits y 7 1 = b.k) (fy2 : bits y 0 7 = b.f) (fy3 : bits y 15 1 = n.k) (fy4 : bits y 8 7 = n.f) (ws : List W) : parse (w :: (addr.lits ++ v :: (b.lits ++ (n.lits ++ ws)))) = some (.ma maj op c ord scp d addr b n, ws) := by
  simp [parse, ex, fx0, fx1, fx2, fx3, fx4, fx5, fx6, fx7, ey, fy0, fy1, fy2, fy3, fy4, hf, takeAddr_lits, takeSrc_lits hb, takeSrc_lits hn]
theorem words_ma (maj op c ord scp d : Nat) (addr : Addr) (b n : Src) (h : rawFits (.ma maj op c ord scp d addr b n)) (ws : List W) : parse ((Raw.ma maj op c ord scp d addr b n).words ++ ws) = some (.ma maj op c ord scp d addr b n, ws) := by
  obtain ⟨hf, h1, h2, h3, h4, h5, h6, h7, hb, hn⟩ := h
  have hk := addr_field addr
  obtain ⟨hkb, hgb⟩ := src_field hb
  obtain ⟨hkn, hgn⟩ := src_field hn
  have hw : (Raw.ma maj op c ord scp d addr b n).words ++ ws = BitVec.ofNat 32 (c * 2 ^ 31 + maj * 2 ^ 25 + op * 2 ^ 22 + ord * 2 ^ 20 + scp * 2 ^ 16 + d * 2 ^ 9 + addr.a * 2 ^ 2 + addr.am) :: (addr.lits ++ BitVec.ofNat 32 (n.k * 2 ^ 15 + n.f * 2 ^ 8 + b.k * 2 ^ 7 + b.f) :: (b.lits ++ (n.lits ++ ws))) := by simp [Raw.words]
  rw [hw]
  exact fields_ma maj op c ord scp d addr b n hf hb hn (c * 2 ^ 31 + maj * 2 ^ 25 + op * 2 ^ 22 + ord * 2 ^ 20 + scp * 2 ^ 16 + d * 2 ^ 9 + addr.a * 2 ^ 2 + addr.am) _ (by simp only [BitVec.toNat_ofNat]; omega) (by unfold bits; omega) (by unfold bits; omega) (by unfold bits; omega) (by unfold bits; omega) (by unfold bits; omega) (by unfold bits; omega) (by unfold bits; omega) (by unfold bits; omega) (n.k * 2 ^ 15 + n.f * 2 ^ 8 + b.k * 2 ^ 7 + b.f) _ (by simp only [BitVec.toNat_ofNat]; omega) (by unfold bits; omega) (by unfold bits; omega) (by unfold bits; omega) (by unfold bits; omega) (by unfold bits; omega) ws

/-- Reading a word, or two, whose fields are known: the BR format. -/
theorem fields_br (op c disp : Nat)  (x : Nat) (w : W) (ex : w.toNat = x) (fx0 : bits x 31 1 = c) (fx1 : bits x 25 6 = 0x1C) (fx2 : bits x 21 4 = op) (fx3 : bits x 0 21 = disp) (ws : List W) : parse (w :: ws) = some (.br op c disp, ws) := by
  simp [parse, ex, fx0, fx1, fx2, fx3, show fmtOf 0x1C = some .b from rfl]
theorem words_br (op c disp : Nat) (h : rawFits (.br op c disp)) (ws : List W) : parse ((Raw.br op c disp).words ++ ws) = some (.br op c disp, ws) := by
  obtain ⟨h1, h2, h3⟩ := h
  have hw : (Raw.br op c disp).words ++ ws = BitVec.ofNat 32 (c * 2 ^ 31 + 0x1C * 2 ^ 25 + op * 2 ^ 21 + disp) :: ws := by simp [Raw.words]
  rw [hw]
  exact fields_br op c disp  (c * 2 ^ 31 + 0x1C * 2 ^ 25 + op * 2 ^ 21 + disp) _ (by simp only [BitVec.toNat_ofNat]; omega) (by unfold bits; omega) (by unfold bits; omega) (by unfold bits; omega) (by unfold bits; omega) ws

/-- Reading a word, or two, whose fields are known: the X format. -/
theorem fields_x (maj op c idx cv q : Nat) (a b : XF) (hf : fmtOf maj = some .x) (ha : xfOk (xOps maj op q).1 a) (hb : xfOk (xOps maj op q).2 b) (x : Nat) (w : W) (ex : w.toNat = x) (fx0 : bits x 31 1 = c) (fx1 : bits x 25 6 = maj) (fx2 : bits x 21 4 = op) (fx3 : bits x 0 1 = q) (fx4 : bits x 8 7 = a.f) (fx5 : bits x 1 7 = b.f) (fx6 : bits x 18 3 = idx) (fx7 : bits x 15 3 = cv) (ws : List W) : parse (w :: (a.lits ++ (b.lits ++ ws))) = some (.x maj op c idx cv q a b, ws) := by
  simp [parse, ex, fx0, fx1, fx2, fx3, fx4, fx5, fx6, fx7, hf, takeXF_lits ha, takeXF_lits hb]
theorem words_x (maj op c idx cv q : Nat) (a b : XF) (h : rawFits (.x maj op c idx cv q a b)) (ws : List W) : parse ((Raw.x maj op c idx cv q a b).words ++ ws) = some (.x maj op c idx cv q a b, ws) := by
  obtain ⟨hf, h1, h2, h3, h4, h5, h6, ha, hb⟩ := h
  have ga := xf_field ha
  have gb := xf_field hb
  have hw : (Raw.x maj op c idx cv q a b).words ++ ws = BitVec.ofNat 32 (c * 2 ^ 31 + maj * 2 ^ 25 + op * 2 ^ 21 + idx * 2 ^ 18 + cv * 2 ^ 15 + a.f * 2 ^ 8 + b.f * 2 + q) :: (a.lits ++ (b.lits ++ ws)) := by simp [Raw.words]
  rw [hw]
  exact fields_x maj op c idx cv q a b hf ha hb (c * 2 ^ 31 + maj * 2 ^ 25 + op * 2 ^ 21 + idx * 2 ^ 18 + cv * 2 ^ 15 + a.f * 2 ^ 8 + b.f * 2 + q) _ (by simp only [BitVec.toNat_ofNat]; omega) (by unfold bits; omega) (by unfold bits; omega) (by unfold bits; omega) (by unfold bits; omega) (by unfold bits; omega) (by unfold bits; omega) (by unfold bits; omega) (by unfold bits; omega) ws

/-- Reading a word, or two, whose fields are known: the S format. -/
theorem fields_s (maj op c imm : Nat) (hf : fmtOf maj = some .s) (x : Nat) (w : W) (ex : w.toNat = x) (fx0 : bits x 31 1 = c) (fx1 : bits x 25 6 = maj) (fx2 : bits x 17 8 = op) (fx3 : bits x 0 17 = imm) (ws : List W) : parse (w :: ws) = some (.s maj op c imm, ws) := by
  simp [parse, ex, fx0, fx1, fx2, fx3, hf]
theorem words_s (maj op c imm : Nat) (h : rawFits (.s maj op c imm)) (ws : List W) : parse ((Raw.s maj op c imm).words ++ ws) = some (.s maj op c imm, ws) := by
  obtain ⟨hf, h1, h2, h3, h4⟩ := h
  have hw : (Raw.s maj op c imm).words ++ ws = BitVec.ofNat 32 (c * 2 ^ 31 + maj * 2 ^ 25 + op * 2 ^ 17 + imm) :: ws := by simp [Raw.words]
  rw [hw]
  exact fields_s maj op c imm hf (c * 2 ^ 31 + maj * 2 ^ 25 + op * 2 ^ 17 + imm) _ (by simp only [BitVec.toNat_ofNat]; omega) (by unfold bits; omega) (by unfold bits; omega) (by unfold bits; omega) (by unfold bits; omega) ws

/-- Fields within their widths are read back from their words, and the words that follow are left. -/
theorem parse_words {r : Raw} (h : rawFits r) (ws : List W) : parse (r.words ++ ws) = some (r, ws) := by
  cases r with
  | r maj op c d a b => exact words_r _ _ _ _ _ _ h ws
  | rx maj op c d a b e pe sf df rnd => exact words_rx _ _ _ _ _ _ _ _ _ _ _ h ws
  | m maj op c ord scp d addr => exact words_m _ _ _ _ _ _ _ h ws
  | ma maj op c ord scp d addr b n => exact words_ma _ _ _ _ _ _ _ _ _ h ws
  | br op c disp => exact words_br _ _ _ h ws
  | x maj op c idx cv q a b => exact words_x _ _ _ _ _ _ _ _ h ws
  | s maj op c imm => exact words_s _ _ _ _ h ws

end Sys2Proof.Laws
end

