-- ==== Sys2Proof/Laws/Store.lean ====
section
/-! SUPPORT. The sparse store: reading after a change, and rising keys kept by every change. -/
namespace Sys2Proof

variable {α : Type}

@[simp] theorem Store.find_nil (k : Nat) : Store.find k ([] : Store α) = none := rfl

theorem Store.find_put_self (k : Nat) (v : α) (m : Store α) : Store.find k (Store.put k v m) = some v := by
  induction m with
  | nil => simp [Store.put, Store.find]
  | cons h t ih =>
    obtain ⟨k', v'⟩ := h
    simp only [Store.put]
    split
    · simp [Store.find]
    · split
      · simp [Store.find]
      · simp only [Store.find, ih]
        rw [if_neg ‹_›, if_neg ‹_›]

theorem Store.find_put_other {k j : Nat} (h : j ≠ k) (v : α) (m : Store α) : Store.find j (Store.put k v m) = Store.find j m := by
  induction m with
  | nil => simp [Store.put, Store.find, h]
  | cons c t ih =>
    obtain ⟨k', v'⟩ := c
    simp only [Store.put]
    split
    · simp only [Store.find, h, if_false]
      repeat' split
      all_goals first | rfl | omega
    · split
      · subst k'
        simp [Store.find, h]
      · simp only [Store.find, ih]

/-- Reading after a put. -/
theorem Store.find_put (k j : Nat) (v : α) (m : Store α) :
    Store.find j (Store.put k v m) = if j = k then some v else Store.find j m := by
  split
  · subst j; exact Store.find_put_self k v m
  · exact Store.find_put_other ‹_› v m

/-- Reading after an adjustment at a key the store holds. -/
theorem Store.find_adjust (k j : Nat) (f : α → α) (m : Store α) :
    Store.find j (Store.adjust k f m) = if j = k then (Store.find k m).map f else Store.find j m := by
  induction m with
  | nil => simp [Store.adjust, Store.find]
  | cons c t ih =>
    obtain ⟨k', v'⟩ := c
    by_cases hk : k = k'
    · subst k'
      by_cases hj : j = k <;> simp [Store.adjust, Store.find, hj]
    · by_cases hj : j = k
      · subst j
        simp only [Store.adjust, hk, if_false, Store.find, ih, if_true]
        split <;> rfl
      · simp only [Store.adjust, hk, if_false, Store.find, ih, hj]

/-- An adjustment at a key the store holds is a put. -/
theorem Store.adjust_eq_put (k : Nat) (f : α → α) (v : α) (m : Store α) (h : Store.find k m = some v) : Store.adjust k f m = Store.put k (f v) m := by
  induction m with
  | nil => cases h
  | cons c t ih =>
    obtain ⟨k', v'⟩ := c
    simp only [Store.find] at h
    simp only [Store.adjust, Store.put]
    by_cases hk : k = k'
    · subst k'
      simp only [if_true, Option.some.injEq] at h ⊢
      rw [if_neg (Nat.lt_irrefl k), h]
    · simp only [hk, if_false] at h ⊢
      split at h
      · cases h
      · rename_i h1
        rw [if_neg h1, ih h]

/-- A weaker bound. -/
theorem Store.risesFrom_mono {lo hi : Nat} (h : lo ≤ hi) (m : Store α) (r : Store.risesFrom hi m = true) : Store.risesFrom lo m = true := by
  cases m with
  | nil => rfl
  | cons c t =>
    simp only [Store.risesFrom, Bool.and_eq_true, decide_eq_true_eq] at r ⊢
    exact ⟨by omega, r.2⟩

theorem Store.find_below {lo j : Nat} (h : j < lo) (m : Store α) (r : Store.risesFrom lo m = true) : Store.find j m = none := by
  cases m with
  | nil => rfl
  | cons c t =>
    simp only [Store.risesFrom, Bool.and_eq_true, decide_eq_true_eq] at r
    simp only [Store.find]
    rw [if_neg (by omega), if_pos (by omega)]

theorem Store.risesFrom_put {lo k : Nat} (h : lo ≤ k) (v : α) (m : Store α) (r : Store.risesFrom lo m = true) :
    Store.risesFrom lo (Store.put k v m) = true := by
  induction m generalizing lo with
  | nil => simp [Store.put, Store.risesFrom, h]
  | cons c t ih =>
    obtain ⟨k', v'⟩ := c
    simp only [Store.risesFrom, Bool.and_eq_true, decide_eq_true_eq] at r
    simp only [Store.put]
    split
    · simp only [Store.risesFrom, Bool.and_eq_true, decide_eq_true_eq]
      exact ⟨h, by omega, r.2⟩
    · split
      · subst k'
        simp only [Store.risesFrom, Bool.and_eq_true, decide_eq_true_eq]
        exact ⟨h, r.2⟩
      · simp only [Store.risesFrom, Bool.and_eq_true, decide_eq_true_eq]
        exact ⟨r.1, ih (by omega) r.2⟩

theorem Store.risesFrom_del {lo : Nat} (k : Nat) (m : Store α) (r : Store.risesFrom lo m = true) :
    Store.risesFrom lo (Store.del k m) = true := by
  induction m generalizing lo with
  | nil => exact r
  | cons c t ih =>
    obtain ⟨k', v'⟩ := c
    simp only [Store.risesFrom, Bool.and_eq_true, decide_eq_true_eq] at r
    simp only [Store.del]
    split
    · exact Store.risesFrom_mono (by omega) t r.2
    · split
      · simp only [Store.risesFrom, Bool.and_eq_true, decide_eq_true_eq]; exact r
      · simp only [Store.risesFrom, Bool.and_eq_true, decide_eq_true_eq]; exact ⟨r.1, ih r.2⟩

theorem Store.find_del {lo : Nat} (k j : Nat) (m : Store α) (r : Store.risesFrom lo m = true) :
    Store.find j (Store.del k m) = if j = k then none else Store.find j m := by
  induction m generalizing lo with
  | nil => simp [Store.del, Store.find]
  | cons c t ih =>
    obtain ⟨k', v'⟩ := c
    simp only [Store.risesFrom, Bool.and_eq_true, decide_eq_true_eq] at r
    simp only [Store.del]
    split
    · subst k'
      split
      · subst j; exact Store.find_below (by omega) t r.2
      · rename_i hj
        simp only [Store.find, hj, if_false]
        split
        · exact Store.find_below (by omega) t r.2
        · rfl
    · rename_i h1
      by_cases hj : j = k
      · subst j
        split
        · simp [Store.find, *]
        · rename_i h2
          simp only [Store.find, ih r.2, if_true]
          rw [if_neg h1, if_neg h2]
      · rw [if_neg hj]
        split
        · rfl
        · simp only [Store.find, ih r.2, hj, if_false]

theorem Store.all_put {p : Nat × α → Bool} {k : Nat} {v : α} (h : p (k, v) = true) (m : Store α) (a : m.all p = true) :
    (Store.put k v m).all p = true := by
  induction m with
  | nil => simp [Store.put, h]
  | cons c t ih =>
    obtain ⟨k', v'⟩ := c
    simp only [List.all_cons, Bool.and_eq_true] at a
    simp only [Store.put]
    split
    · simp [h, a.1]; simpa using a.2
    · split
      · simp [h]; simpa using a.2
      · simp only [List.all_cons, Bool.and_eq_true]; exact ⟨a.1, ih a.2⟩

theorem Store.all_del {p : Nat × α → Bool} (k : Nat) (m : Store α) (a : m.all p = true) : (Store.del k m).all p = true := by
  induction m with
  | nil => exact a
  | cons c t ih =>
    obtain ⟨k', v'⟩ := c
    simp only [List.all_cons, Bool.and_eq_true] at a
    simp only [Store.del]
    split
    · exact a.2
    · split
      · simp only [List.all_cons, Bool.and_eq_true]; exact a
      · simp only [List.all_cons, Bool.and_eq_true]; exact ⟨a.1, ih a.2⟩

end Sys2Proof
end

