-- ==== Sys2Proof/Laws/Memory.lean ====
section
/-! SUPPORT. Bytes of a memory: reading after writing, and the canonical form kept by every operation that changes memory (05 R5, chapter 10). -/
namespace Sys2Proof.Machine

theorem Memory.wf_rises {m : List Host.Cell} (h : Memory.wf m = true) : Store.risesFrom 0 m = true := by
  simp only [Memory.wf, Bool.and_eq_true] at h; exact h.1

theorem Memory.wf_nil : Memory.wf [] = true := rfl

/-- Writing a byte keeps the canonical form. -/
theorem Memory.wf_put (m : List Host.Cell) (a : Nat) (b : Byte) (h : Memory.wf m = true) : Memory.wf (memPut m a b) = true := by
  simp only [Memory.wf, Bool.and_eq_true] at h ⊢
  unfold memPut
  split
  · exact ⟨Store.risesFrom_del a m h.1, Store.all_del a m h.2⟩
  · rename_i hb
    exact ⟨Store.risesFrom_put (Nat.zero_le a) b m h.1, Store.all_put (by simpa using hb) m h.2⟩

/-- Writing bytes keeps the canonical form. -/
theorem Memory.wf_write (m : List Host.Cell) (a : Nat) (bs : List Byte) (h : Memory.wf m = true) : Memory.wf (memWrite m a bs) = true := by
  induction bs generalizing m a with
  | nil => exact h
  | cons b t ih => exact ih (memPut m a b) (a + 1) (Memory.wf_put m a b h)

/-- Reading a byte after writing one. -/
theorem memGet_put (m : List Host.Cell) (a j : Nat) (b : Byte) (h : Memory.wf m = true) :
    memGet (memPut m a b) j = if j = a then b else memGet m j := by
  unfold memGet memPut
  split
  · rename_i hb
    rw [Store.find_del a j m (Memory.wf_rises h)]
    split
    · simp [hb]
    · rfl
  · rw [Store.find_put]
    split <;> rfl

/-- Reading a byte after writing bytes. -/
theorem memGet_write (m : List Host.Cell) (a j : Nat) (bs : List Byte) (h : Memory.wf m = true) :
    memGet (memWrite m a bs) j = if a ≤ j ∧ j < a + bs.length then bs.getD (j - a) 0 else memGet m j := by
  induction bs generalizing m a with
  | nil =>
    rw [if_neg (by simp)]; rfl
  | cons b t ih =>
    simp only [memWrite, List.length_cons]
    rw [ih (memPut m a b) (a + 1) (Memory.wf_put m a b h), memGet_put m a j b h]
    by_cases h1 : j = a
    · subst j
      rw [if_neg (by omega), if_pos rfl, if_pos (by omega)]
      simp
    · by_cases h2 : a + 1 ≤ j ∧ j < a + 1 + t.length
      · rw [if_pos h2, if_pos (by omega)]
        have : j - a = (j - (a + 1)) + 1 := by omega
        rw [this, List.getD_cons_succ]
      · rw [if_neg h2, if_neg h1, if_neg (by omega)]

end Sys2Proof.Machine
end

