-- ==== Sys2Proof/Laws/Shape.lean ====
section
/-! SUPPORT. Masks of lanes and the shapes of V registers: what a write leaves in each live lane (06 R135 to R139). -/
namespace Sys2Proof.Machine

/-! Masks -/

@[simp] theorem inMask_and (a b : W) (l : Nat) : inMask (a &&& b) l = (inMask a l && inMask b l) := by simp [inMask]
@[simp] theorem inMask_or (a b : W) (l : Nat) : inMask (a ||| b) l = (inMask a l || inMask b l) := by simp [inMask]
theorem inMask_lt {m : W} {l : Nat} (h : inMask m l = true) : l < 32 := by
  refine Decidable.byContradiction fun hl => ?_
  simp [inMask, BitVec.getLsbD_of_ge m l (by omega)] at h
theorem inMask_not {m : W} {l : Nat} (h : l < 32) : inMask (~~~m) l = !inMask m l := by simp [inMask, h]
@[simp] theorem inMask_zero (l : Nat) : inMask 0#32 l = false := by simp [inMask]
theorem mem_lanesOf {m : W} {l : Nat} : l ∈ lanesOf m ↔ inMask m l = true := by
  simp only [lanesOf, lanes32, List.mem_filter, List.mem_range]
  exact ⟨fun h => h.2, fun h => ⟨inMask_lt h, h⟩⟩
theorem inMask_bit (k l : Nat) (h : k < 32) : inMask (bit k) l = decide (l = k) := by
  simp only [inMask, bit, Nat.mod_eq_of_lt h, BitVec.getLsbD_ofNat, Nat.testBit_two_pow]
  by_cases hl : k = l
  · subst hl; simp [h]
  · have : ¬ l = k := fun e => hl e.symm
    simp [hl, this]
theorem inMask_maskOf (ls : List Nat) (h : ∀ x ∈ ls, x < 32) (l : Nat) : inMask (maskOf ls) l = decide (l ∈ ls) := by
  have aux : ∀ (ls : List Nat) (m : W), (∀ x ∈ ls, x < 32) → inMask (ls.foldl (fun m l => m ||| bit l) m) l = (inMask m l || decide (l ∈ ls)) := by
    intro ls
    induction ls with
    | nil => intro m _; simp
    | cons x t ih =>
      intro m hx
      simp only [List.foldl_cons]
      rw [ih _ (fun y hy => hx y (List.mem_cons_of_mem _ hy)), inMask_or, inMask_bit x l (hx x List.mem_cons_self)]
      by_cases h1 : l = x <;> by_cases h2 : l ∈ t <;> simp [h1, h2]
  rw [maskOf, aux ls 0 h]; simp
theorem inMask_maskOf_filter (p : Nat → Bool) (l : Nat) : inMask (maskOf (lanes32.filter p)) l = (decide (l < 32) && p l) := by
  rw [inMask_maskOf _ (fun x hx => by simpa [lanes32] using (List.mem_filter.1 hx).1)]
  simp [lanes32, List.mem_filter]
/-- A mask of the participants that meet a condition. -/
theorem inMask_maskOf_lanes (m : W) (p : Nat → Bool) (l : Nat) : inMask (maskOf ((lanesOf m).filter p)) l = (inMask m l && p l) := by
  rw [inMask_maskOf _ (fun x hx => inMask_lt (mem_lanesOf.1 (List.mem_filter.1 hx).1))]
  rw [Bool.eq_iff_iff]
  simp [List.mem_filter, mem_lanesOf]
/-- Nothing outside a mask: every lane of the other lies in it. -/
theorem sub_of_andn {a b : W} (h : a &&& ~~~b = 0) {l : Nat} (hl : inMask a l = true) : inMask b l = true := by
  have := congrArg (fun x => inMask x l) h
  simp only [inMask_and, inMask_zero, inMask_not (inMask_lt hl), hl, Bool.true_and] at this
  simpa using this
theorem mask_ext {a b : W} (h : ∀ l, l < 32 → inMask a l = inMask b l) : a = b := by
  apply BitVec.eq_of_getLsbD_eq
  intro i hi
  exact h i hi

/-! The list of 32 lanes -/

@[simp] theorem lanes32_getD {α : Type} (f : Nat → α) (d : α) (l : Nat) (h : l < 32) : (lanes32.map f).getD l d = f l := by
  simp [lanes32, List.getD_eq_getElem?_getD, h]

/-! Shapes -/

theorem lane_mkAff (b s : W) (l : Nat) : (mkAff b s).lane l = b + BitVec.ofNat 32 l * s := by
  unfold mkAff
  split
  · rename_i h; subst h; simp [VReg.lane]
  · rfl
theorem lane_aff {r : VReg} {b s : W} (h : r.aff = some (b, s)) (l : Nat) : r.lane l = b + BitVec.ofNat 32 l * s := by
  cases r with
  | u b' => simp only [VReg.aff, Option.some.injEq, Prod.mk.injEq] at h; obtain ⟨rfl, rfl⟩ := h; simp [VReg.lane]
  | a b' s' => simp only [VReg.aff, Option.some.injEq, Prod.mk.injEq] at h; obtain ⟨rfl, rfl⟩ := h; rfl
  | g8 _ _ => cases h
  | g16 _ _ => cases h
  | gr _ => cases h

theorem add_narrow8 (b v : W) (h : -128 ≤ delta b v ∧ delta b v ≤ 127) : b + ((v - b).setWidth 8).signExtend 32 = v := by
  have : ((v - b).setWidth 8).signExtend 32 = v - b := by
    apply BitVec.eq_of_toInt_eq
    rw [BitVec.toInt_signExtend_of_le (by omega), BitVec.toInt_setWidth]
    simp only [delta] at h
    rw [Int.bmod_def] at *
    simp only [BitVec.toInt_eq_toNat_cond] at *
    have := (v - b).isLt
    split at h <;> omega
  rw [this, BitVec.add_comm]; exact BitVec.sub_add_cancel v b
theorem add_narrow16 (b v : W) (h : -32768 ≤ delta b v ∧ delta b v ≤ 32767) : b + ((v - b).setWidth 16).signExtend 32 = v := by
  have : ((v - b).setWidth 16).signExtend 32 = v - b := by
    apply BitVec.eq_of_toInt_eq
    rw [BitVec.toInt_signExtend_of_le (by omega), BitVec.toInt_setWidth]
    simp only [delta] at h
    rw [Int.bmod_def] at *
    simp only [BitVec.toInt_eq_toNat_cond] at *
    have := (v - b).isLt
    split at h <;> omega
  rw [this, BitVec.add_comm]; exact BitVec.sub_add_cancel v b

/-- The stride that lanes 0 and 1 give. -/
theorem lane_recompress (aU aA : Bool) (live : W) (vals : List W) (l : Nat) (h : inMask live l = true) :
    (recompress aU aA live vals).lane l = vals.getD l 0 := by
  have hl := inMask_lt h
  have hm := mem_lanesOf.2 h
  unfold recompress
  cases hc : lanesOf live with
  | nil => rw [hc] at hm; cases hm
  | cons l0 ls =>
    rw [hc] at hm
    simp only
    split
    · rename_i h1
      simp only [Bool.and_eq_true, List.all_eq_true, decide_eq_true_eq] at h1
      simp only [VReg.lane]; exact (h1.2 l hm).symm
    · split
      · rename_i h1
        simp only [Bool.and_eq_true, List.all_eq_true, decide_eq_true_eq] at h1
        rw [lane_mkAff]; exact (h1.2 l hm).symm
      · split
        · rename_i h1
          simp only [List.all_eq_true, decide_eq_true_eq] at h1
          simp only [VReg.lane]
          rw [lanes32_getD _ _ l hl]
          simp only [h, if_true]
          exact add_narrow8 _ _ (h1 l hm)
        · split
          · rename_i h1
            simp only [List.all_eq_true, decide_eq_true_eq] at h1
            simp only [VReg.lane]
            rw [lanes32_getD _ _ l hl]
            simp only [h, if_true]
            exact add_narrow16 _ _ (h1 l hm)
          · simp only [VReg.lane]
            rw [lanes32_getD _ _ l hl]

/-! Writing V registers -/

/-- A rule fits a value: an A result of given base and stride has the written value in every participant. -/
def ShapeRule.fits (rule : ShapeRule) (q : W) (f : Nat → W) : Prop :=
  match rule with
  | .auto => True
  | .noA => True
  | .aff b s => ∀ l, inMask q l = true → f l = b + BitVec.ofNat 32 l * s
  | .part => True

theorem wv_v_length (st : Stand) (q : W) (d : Nat) (rule : ShapeRule) (f : Nat → W) : (st.wv q d rule f).v.length = st.v.length := by
  simp [Stand.wv]
theorem wv_other (st : Stand) (q : W) (d : Nat) (rule : ShapeRule) (f : Nat → W) {n : Nat} (h : n ≠ d) :
    (st.wv q d rule f).v[n]? = st.v[n]? := by
  simp [Stand.wv, List.getElem?_set_ne (fun e : d = n => h e.symm)]
theorem rv_wv_other (st : Stand) (q : W) (d : Nat) (rule : ShapeRule) (f : Nat → W) {n : Nat} (h : n ≠ d) (l : Nat) :
    (st.wv q d rule f).rv n l = st.rv n l := by
  simp only [Stand.rv, List.getD_eq_getElem?_getD, wv_other st q d rule f h]
theorem wv_frame (st : Stand) (q : W) (d : Nat) (rule : ShapeRule) (f : Nat → W) : st.wv q d rule f = { st with v := (st.wv q d rule f).v } := rfl
@[simp] theorem wv_live (st : Stand) (q : W) (d : Nat) (rule : ShapeRule) (f : Nat → W) : (st.wv q d rule f).live = st.live := rfl

/-- What V[d] holds after a write: the written value in live participants, what was there in the other live lanes. -/
theorem rv_wv (st : Stand) (q : W) (d : Nat) (rule : ShapeRule) (f : Nat → W) (hd : d < st.v.length) (hf : rule.fits q f)
    (l : Nat) (hl : inMask st.live l = true) :
    (st.wv q d rule f).rv d l = if inMask q l then f l else st.rv d l := by
  have h32 := inMask_lt hl
  have hv : ∀ aU aA, (recompress aU aA st.live (lanes32.map fun l => if inMask q l then f l else (st.v.getD d (.u 0)).lane l)).lane l
      = if inMask q l then f l else st.rv d l := by
    intro aU aA
    rw [lane_recompress aU aA _ _ l hl, lanes32_getD _ _ l h32]
    rfl
  simp only [Stand.rv, Stand.wv, List.getD_eq_getElem?_getD, List.getElem?_set_self hd, Option.getD_some]
  split
  · rename_i hfull
    cases rule with
    | auto => exact hv _ _
    | noA => exact hv _ _
    | part => exact hv _ _
    | aff b s =>
      have hq := sub_of_andn hfull hl
      simp only [hq, if_true]
      rw [lane_mkAff, hf l hq]
  · exact hv _ _

/-! Granules -/

theorem gran_pos (r : VReg) : 1 ≤ r.gran := by cases r <;> simp [VReg.gran]
theorem gran_le (r : VReg) : r.gran ≤ 16 := by cases r <;> simp [VReg.gran]

end Sys2Proof.Machine
end

