-- ==== Sys2Proof/Laws/State.lean ====
section
/-! SUPPORT. What each small update of the state leaves in each field. -/
namespace Sys2Proof.Machine

/-! setStand -/

@[simp] theorem State.setStand_now (s : State) (key : Nat) (st : Stand) : (s.setStand key st).now = s.now := rfl
@[simp] theorem State.setStand_fort (s : State) (key : Nat) (st : Stand) : (s.setStand key st).fort = s.fort := rfl
@[simp] theorem State.setStand_forts (s : State) (key : Nat) (st : Stand) : (s.setStand key st).forts = s.forts := rfl
@[simp] theorem State.setStand_rr (s : State) (key : Nat) (st : Stand) : (s.setStand key st).rr = s.rr := rfl
@[simp] theorem State.setStand_lru (s : State) (key : Nat) (st : Stand) : (s.setStand key st).lru = s.lru := rfl
@[simp] theorem State.setStand_cyc (s : State) (key : Nat) (st : Stand) : (s.setStand key st).cyc = s.cyc := rfl
@[simp] theorem State.setStand_pkg (s : State) (key : Nat) (st : Stand) : (s.setStand key st).pkg = s.pkg := rfl
@[simp] theorem State.setStand_regs (s : State) (key : Nat) (st : Stand) : (s.setStand key st).regs = s.regs := rfl
@[simp] theorem State.setStand_fns (s : State) (key : Nat) (st : Stand) : (s.setStand key st).fns = s.fns := rfl
@[simp] theorem State.setStand_parts (s : State) (key : Nat) (st : Stand) : (s.setStand key st).parts = s.parts := rfl
@[simp] theorem State.setStand_lent (s : State) (key : Nat) (st : Stand) : (s.setStand key st).lent = s.lent := rfl
@[simp] theorem State.setStand_reclaim (s : State) (key : Nat) (st : Stand) : (s.setStand key st).reclaim = s.reclaim := rfl
@[simp] theorem State.setStand_clk (s : State) (key : Nat) (st : Stand) : (s.setStand key st).clk = s.clk := rfl
@[simp] theorem State.setStand_clkPend (s : State) (key : Nat) (st : Stand) : (s.setStand key st).clkPend = s.clkPend := rfl
@[simp] theorem State.setStand_queues (s : State) (key : Nat) (st : Stand) : (s.setStand key st).queues = s.queues := rfl
@[simp] theorem State.setStand_ctxs (s : State) (key : Nat) (st : Stand) : (s.setStand key st).ctxs = s.ctxs := rfl
@[simp] theorem State.setStand_launches (s : State) (key : Nat) (st : Stand) : (s.setStand key st).launches = s.launches := rfl
@[simp] theorem State.setStand_stands (s : State) (key : Nat) (st : Stand) : (s.setStand key st).stands = Store.put key st s.stands := rfl
@[simp] theorem State.setStand_outs (s : State) (key : Nat) (st : Stand) : (s.setStand key st).outs = s.outs := rfl
@[simp] theorem State.setStand_returning (s : State) (key : Nat) (st : Stand) : (s.setStand key st).returning = s.returning := rfl
@[simp] theorem State.setStand_switches (s : State) (key : Nat) (st : Stand) : (s.setStand key st).switches = s.switches := rfl
@[simp] theorem State.setStand_resident (s : State) (key : Nat) (st : Stand) : (s.setStand key st).resident = s.resident := rfl
@[simp] theorem State.setStand_pct (s : State) (key : Nat) (st : Stand) : (s.setStand key st).pct = s.pct := rfl
@[simp] theorem State.setStand_pcache (s : State) (key : Nat) (st : Stand) : (s.setStand key st).pcache = s.pcache := rfl
@[simp] theorem State.setStand_brand (s : State) (key : Nat) (st : Stand) : (s.setStand key st).brand = s.brand := rfl
@[simp] theorem State.setStand_misses (s : State) (key : Nat) (st : Stand) : (s.setStand key st).misses = s.misses := rfl
@[simp] theorem State.setStand_fills (s : State) (key : Nat) (st : Stand) : (s.setStand key st).fills = s.fills := rfl
@[simp] theorem State.setStand_issue (s : State) (key : Nat) (st : Stand) : (s.setStand key st).issue = s.issue := rfl
@[simp] theorem State.setStand_teams (s : State) (key : Nat) (st : Stand) : (s.setStand key st).teams = s.teams := rfl
@[simp] theorem State.setStand_joins (s : State) (key : Nat) (st : Stand) : (s.setStand key st).joins = s.joins := rfl
@[simp] theorem State.setStand_mem (s : State) (key : Nat) (st : Stand) : (s.setStand key st).mem = s.mem := rfl
@[simp] theorem State.setStand_tier (s : State) (key : Nat) (st : Stand) : (s.setStand key st).tier = s.tier := rfl
@[simp] theorem State.setStand_hostMem (s : State) (key : Nat) (st : Stand) : (s.setStand key st).hostMem = s.hostMem := rfl
@[simp] theorem State.setStand_dsh (s : State) (key : Nat) (st : Stand) : (s.setStand key st).dsh = s.dsh := rfl
@[simp] theorem State.setStand_scr (s : State) (key : Nat) (st : Stand) : (s.setStand key st).scr = s.scr := rfl
@[simp] theorem State.setStand_l1 (s : State) (key : Nat) (st : Stand) : (s.setStand key st).l1 = s.l1 := rfl
@[simp] theorem State.setStand_sec (s : State) (key : Nat) (st : Stand) : (s.setStand key st).sec = s.sec := rfl
@[simp] theorem State.setStand_l2 (s : State) (key : Nat) (st : Stand) : (s.setStand key st).l2 = s.l2 := rfl
@[simp] theorem State.setStand_poison (s : State) (key : Nat) (st : Stand) : (s.setStand key st).poison = s.poison := rfl
@[simp] theorem State.setStand_tlb (s : State) (key : Nat) (st : Stand) : (s.setStand key st).tlb = s.tlb := rfl
@[simp] theorem State.setStand_tcache (s : State) (key : Nat) (st : Stand) : (s.setStand key st).tcache = s.tcache := rfl
@[simp] theorem State.setStand_owners (s : State) (key : Nat) (st : Stand) : (s.setStand key st).owners = s.owners := rfl
@[simp] theorem State.setStand_holds (s : State) (key : Nat) (st : Stand) : (s.setStand key st).holds = s.holds := rfl
@[simp] theorem State.setStand_reqs (s : State) (key : Nat) (st : Stand) : (s.setStand key st).reqs = s.reqs := rfl
@[simp] theorem State.setStand_ops (s : State) (key : Nat) (st : Stand) : (s.setStand key st).ops = s.ops := rfl
@[simp] theorem State.setStand_cpys (s : State) (key : Nat) (st : Stand) : (s.setStand key st).cpys = s.cpys := rfl
@[simp] theorem State.setStand_walks (s : State) (key : Nat) (st : Stand) : (s.setStand key st).walks = s.walks := rfl
@[simp] theorem State.setStand_rounds (s : State) (key : Nat) (st : Stand) : (s.setStand key st).rounds = s.rounds := rfl
@[simp] theorem State.setStand_ordRecs (s : State) (key : Nat) (st : Stand) : (s.setStand key st).ordRecs = s.ordRecs := rfl
@[simp] theorem State.setStand_samples (s : State) (key : Nat) (st : Stand) : (s.setStand key st).samples = s.samples := rfl
@[simp] theorem State.setStand_inbox (s : State) (key : Nat) (st : Stand) : (s.setStand key st).inbox = s.inbox := rfl
@[simp] theorem State.setStand_outbox (s : State) (key : Nat) (st : Stand) : (s.setStand key st).outbox = s.outbox := rfl
@[simp] theorem State.setStand_turn (s : State) (key : Nat) (st : Stand) : (s.setStand key st).turn = s.turn := rfl
@[simp] theorem State.setStand_fresh (s : State) (key : Nat) (st : Stand) : (s.setStand key st).fresh = s.fresh := rfl
@[simp] theorem State.setStand_seq (s : State) (key : Nat) (st : Stand) : (s.setStand key st).seq = s.seq := rfl

/-! onStand -/

@[simp] theorem State.onStand_now (s : State) (key : Nat) (f : Stand → Stand) : (s.onStand key f).now = s.now := rfl
@[simp] theorem State.onStand_fort (s : State) (key : Nat) (f : Stand → Stand) : (s.onStand key f).fort = s.fort := rfl
@[simp] theorem State.onStand_forts (s : State) (key : Nat) (f : Stand → Stand) : (s.onStand key f).forts = s.forts := rfl
@[simp] theorem State.onStand_rr (s : State) (key : Nat) (f : Stand → Stand) : (s.onStand key f).rr = s.rr := rfl
@[simp] theorem State.onStand_lru (s : State) (key : Nat) (f : Stand → Stand) : (s.onStand key f).lru = s.lru := rfl
@[simp] theorem State.onStand_cyc (s : State) (key : Nat) (f : Stand → Stand) : (s.onStand key f).cyc = s.cyc := rfl
@[simp] theorem State.onStand_pkg (s : State) (key : Nat) (f : Stand → Stand) : (s.onStand key f).pkg = s.pkg := rfl
@[simp] theorem State.onStand_regs (s : State) (key : Nat) (f : Stand → Stand) : (s.onStand key f).regs = s.regs := rfl
@[simp] theorem State.onStand_fns (s : State) (key : Nat) (f : Stand → Stand) : (s.onStand key f).fns = s.fns := rfl
@[simp] theorem State.onStand_parts (s : State) (key : Nat) (f : Stand → Stand) : (s.onStand key f).parts = s.parts := rfl
@[simp] theorem State.onStand_lent (s : State) (key : Nat) (f : Stand → Stand) : (s.onStand key f).lent = s.lent := rfl
@[simp] theorem State.onStand_reclaim (s : State) (key : Nat) (f : Stand → Stand) : (s.onStand key f).reclaim = s.reclaim := rfl
@[simp] theorem State.onStand_clk (s : State) (key : Nat) (f : Stand → Stand) : (s.onStand key f).clk = s.clk := rfl
@[simp] theorem State.onStand_clkPend (s : State) (key : Nat) (f : Stand → Stand) : (s.onStand key f).clkPend = s.clkPend := rfl
@[simp] theorem State.onStand_queues (s : State) (key : Nat) (f : Stand → Stand) : (s.onStand key f).queues = s.queues := rfl
@[simp] theorem State.onStand_ctxs (s : State) (key : Nat) (f : Stand → Stand) : (s.onStand key f).ctxs = s.ctxs := rfl
@[simp] theorem State.onStand_launches (s : State) (key : Nat) (f : Stand → Stand) : (s.onStand key f).launches = s.launches := rfl
@[simp] theorem State.onStand_stands (s : State) (key : Nat) (f : Stand → Stand) : (s.onStand key f).stands = Store.adjust key f s.stands := rfl
@[simp] theorem State.onStand_outs (s : State) (key : Nat) (f : Stand → Stand) : (s.onStand key f).outs = s.outs := rfl
@[simp] theorem State.onStand_returning (s : State) (key : Nat) (f : Stand → Stand) : (s.onStand key f).returning = s.returning := rfl
@[simp] theorem State.onStand_switches (s : State) (key : Nat) (f : Stand → Stand) : (s.onStand key f).switches = s.switches := rfl
@[simp] theorem State.onStand_resident (s : State) (key : Nat) (f : Stand → Stand) : (s.onStand key f).resident = s.resident := rfl
@[simp] theorem State.onStand_pct (s : State) (key : Nat) (f : Stand → Stand) : (s.onStand key f).pct = s.pct := rfl
@[simp] theorem State.onStand_pcache (s : State) (key : Nat) (f : Stand → Stand) : (s.onStand key f).pcache = s.pcache := rfl
@[simp] theorem State.onStand_brand (s : State) (key : Nat) (f : Stand → Stand) : (s.onStand key f).brand = s.brand := rfl
@[simp] theorem State.onStand_misses (s : State) (key : Nat) (f : Stand → Stand) : (s.onStand key f).misses = s.misses := rfl
@[simp] theorem State.onStand_fills (s : State) (key : Nat) (f : Stand → Stand) : (s.onStand key f).fills = s.fills := rfl
@[simp] theorem State.onStand_issue (s : State) (key : Nat) (f : Stand → Stand) : (s.onStand key f).issue = s.issue := rfl
@[simp] theorem State.onStand_teams (s : State) (key : Nat) (f : Stand → Stand) : (s.onStand key f).teams = s.teams := rfl
@[simp] theorem State.onStand_joins (s : State) (key : Nat) (f : Stand → Stand) : (s.onStand key f).joins = s.joins := rfl
@[simp] theorem State.onStand_mem (s : State) (key : Nat) (f : Stand → Stand) : (s.onStand key f).mem = s.mem := rfl
@[simp] theorem State.onStand_tier (s : State) (key : Nat) (f : Stand → Stand) : (s.onStand key f).tier = s.tier := rfl
@[simp] theorem State.onStand_hostMem (s : State) (key : Nat) (f : Stand → Stand) : (s.onStand key f).hostMem = s.hostMem := rfl
@[simp] theorem State.onStand_dsh (s : State) (key : Nat) (f : Stand → Stand) : (s.onStand key f).dsh = s.dsh := rfl
@[simp] theorem State.onStand_scr (s : State) (key : Nat) (f : Stand → Stand) : (s.onStand key f).scr = s.scr := rfl
@[simp] theorem State.onStand_l1 (s : State) (key : Nat) (f : Stand → Stand) : (s.onStand key f).l1 = s.l1 := rfl
@[simp] theorem State.onStand_sec (s : State) (key : Nat) (f : Stand → Stand) : (s.onStand key f).sec = s.sec := rfl
@[simp] theorem State.onStand_l2 (s : State) (key : Nat) (f : Stand → Stand) : (s.onStand key f).l2 = s.l2 := rfl
@[simp] theorem State.onStand_poison (s : State) (key : Nat) (f : Stand → Stand) : (s.onStand key f).poison = s.poison := rfl
@[simp] theorem State.onStand_tlb (s : State) (key : Nat) (f : Stand → Stand) : (s.onStand key f).tlb = s.tlb := rfl
@[simp] theorem State.onStand_tcache (s : State) (key : Nat) (f : Stand → Stand) : (s.onStand key f).tcache = s.tcache := rfl
@[simp] theorem State.onStand_owners (s : State) (key : Nat) (f : Stand → Stand) : (s.onStand key f).owners = s.owners := rfl
@[simp] theorem State.onStand_holds (s : State) (key : Nat) (f : Stand → Stand) : (s.onStand key f).holds = s.holds := rfl
@[simp] theorem State.onStand_reqs (s : State) (key : Nat) (f : Stand → Stand) : (s.onStand key f).reqs = s.reqs := rfl
@[simp] theorem State.onStand_ops (s : State) (key : Nat) (f : Stand → Stand) : (s.onStand key f).ops = s.ops := rfl
@[simp] theorem State.onStand_cpys (s : State) (key : Nat) (f : Stand → Stand) : (s.onStand key f).cpys = s.cpys := rfl
@[simp] theorem State.onStand_walks (s : State) (key : Nat) (f : Stand → Stand) : (s.onStand key f).walks = s.walks := rfl
@[simp] theorem State.onStand_rounds (s : State) (key : Nat) (f : Stand → Stand) : (s.onStand key f).rounds = s.rounds := rfl
@[simp] theorem State.onStand_ordRecs (s : State) (key : Nat) (f : Stand → Stand) : (s.onStand key f).ordRecs = s.ordRecs := rfl
@[simp] theorem State.onStand_samples (s : State) (key : Nat) (f : Stand → Stand) : (s.onStand key f).samples = s.samples := rfl
@[simp] theorem State.onStand_inbox (s : State) (key : Nat) (f : Stand → Stand) : (s.onStand key f).inbox = s.inbox := rfl
@[simp] theorem State.onStand_outbox (s : State) (key : Nat) (f : Stand → Stand) : (s.onStand key f).outbox = s.outbox := rfl
@[simp] theorem State.onStand_turn (s : State) (key : Nat) (f : Stand → Stand) : (s.onStand key f).turn = s.turn := rfl
@[simp] theorem State.onStand_fresh (s : State) (key : Nat) (f : Stand → Stand) : (s.onStand key f).fresh = s.fresh := rfl
@[simp] theorem State.onStand_seq (s : State) (key : Nat) (f : Stand → Stand) : (s.onStand key f).seq = s.seq := rfl

/-! onLaunch -/

@[simp] theorem State.onLaunch_now (s : State) (k : Nat) (f : Launch → Launch) : (s.onLaunch k f).now = s.now := rfl
@[simp] theorem State.onLaunch_fort (s : State) (k : Nat) (f : Launch → Launch) : (s.onLaunch k f).fort = s.fort := rfl
@[simp] theorem State.onLaunch_forts (s : State) (k : Nat) (f : Launch → Launch) : (s.onLaunch k f).forts = s.forts := rfl
@[simp] theorem State.onLaunch_rr (s : State) (k : Nat) (f : Launch → Launch) : (s.onLaunch k f).rr = s.rr := rfl
@[simp] theorem State.onLaunch_lru (s : State) (k : Nat) (f : Launch → Launch) : (s.onLaunch k f).lru = s.lru := rfl
@[simp] theorem State.onLaunch_cyc (s : State) (k : Nat) (f : Launch → Launch) : (s.onLaunch k f).cyc = s.cyc := rfl
@[simp] theorem State.onLaunch_pkg (s : State) (k : Nat) (f : Launch → Launch) : (s.onLaunch k f).pkg = s.pkg := rfl
@[simp] theorem State.onLaunch_regs (s : State) (k : Nat) (f : Launch → Launch) : (s.onLaunch k f).regs = s.regs := rfl
@[simp] theorem State.onLaunch_fns (s : State) (k : Nat) (f : Launch → Launch) : (s.onLaunch k f).fns = s.fns := rfl
@[simp] theorem State.onLaunch_parts (s : State) (k : Nat) (f : Launch → Launch) : (s.onLaunch k f).parts = s.parts := rfl
@[simp] theorem State.onLaunch_lent (s : State) (k : Nat) (f : Launch → Launch) : (s.onLaunch k f).lent = s.lent := rfl
@[simp] theorem State.onLaunch_reclaim (s : State) (k : Nat) (f : Launch → Launch) : (s.onLaunch k f).reclaim = s.reclaim := rfl
@[simp] theorem State.onLaunch_clk (s : State) (k : Nat) (f : Launch → Launch) : (s.onLaunch k f).clk = s.clk := rfl
@[simp] theorem State.onLaunch_clkPend (s : State) (k : Nat) (f : Launch → Launch) : (s.onLaunch k f).clkPend = s.clkPend := rfl
@[simp] theorem State.onLaunch_queues (s : State) (k : Nat) (f : Launch → Launch) : (s.onLaunch k f).queues = s.queues := rfl
@[simp] theorem State.onLaunch_ctxs (s : State) (k : Nat) (f : Launch → Launch) : (s.onLaunch k f).ctxs = s.ctxs := rfl
@[simp] theorem State.onLaunch_launches (s : State) (k : Nat) (f : Launch → Launch) : (s.onLaunch k f).launches = Store.adjust k f s.launches := rfl
@[simp] theorem State.onLaunch_stands (s : State) (k : Nat) (f : Launch → Launch) : (s.onLaunch k f).stands = s.stands := rfl
@[simp] theorem State.onLaunch_outs (s : State) (k : Nat) (f : Launch → Launch) : (s.onLaunch k f).outs = s.outs := rfl
@[simp] theorem State.onLaunch_returning (s : State) (k : Nat) (f : Launch → Launch) : (s.onLaunch k f).returning = s.returning := rfl
@[simp] theorem State.onLaunch_switches (s : State) (k : Nat) (f : Launch → Launch) : (s.onLaunch k f).switches = s.switches := rfl
@[simp] theorem State.onLaunch_resident (s : State) (k : Nat) (f : Launch → Launch) : (s.onLaunch k f).resident = s.resident := rfl
@[simp] theorem State.onLaunch_pct (s : State) (k : Nat) (f : Launch → Launch) : (s.onLaunch k f).pct = s.pct := rfl
@[simp] theorem State.onLaunch_pcache (s : State) (k : Nat) (f : Launch → Launch) : (s.onLaunch k f).pcache = s.pcache := rfl
@[simp] theorem State.onLaunch_brand (s : State) (k : Nat) (f : Launch → Launch) : (s.onLaunch k f).brand = s.brand := rfl
@[simp] theorem State.onLaunch_misses (s : State) (k : Nat) (f : Launch → Launch) : (s.onLaunch k f).misses = s.misses := rfl
@[simp] theorem State.onLaunch_fills (s : State) (k : Nat) (f : Launch → Launch) : (s.onLaunch k f).fills = s.fills := rfl
@[simp] theorem State.onLaunch_issue (s : State) (k : Nat) (f : Launch → Launch) : (s.onLaunch k f).issue = s.issue := rfl
@[simp] theorem State.onLaunch_teams (s : State) (k : Nat) (f : Launch → Launch) : (s.onLaunch k f).teams = s.teams := rfl
@[simp] theorem State.onLaunch_joins (s : State) (k : Nat) (f : Launch → Launch) : (s.onLaunch k f).joins = s.joins := rfl
@[simp] theorem State.onLaunch_mem (s : State) (k : Nat) (f : Launch → Launch) : (s.onLaunch k f).mem = s.mem := rfl
@[simp] theorem State.onLaunch_tier (s : State) (k : Nat) (f : Launch → Launch) : (s.onLaunch k f).tier = s.tier := rfl
@[simp] theorem State.onLaunch_hostMem (s : State) (k : Nat) (f : Launch → Launch) : (s.onLaunch k f).hostMem = s.hostMem := rfl
@[simp] theorem State.onLaunch_dsh (s : State) (k : Nat) (f : Launch → Launch) : (s.onLaunch k f).dsh = s.dsh := rfl
@[simp] theorem State.onLaunch_scr (s : State) (k : Nat) (f : Launch → Launch) : (s.onLaunch k f).scr = s.scr := rfl
@[simp] theorem State.onLaunch_l1 (s : State) (k : Nat) (f : Launch → Launch) : (s.onLaunch k f).l1 = s.l1 := rfl
@[simp] theorem State.onLaunch_sec (s : State) (k : Nat) (f : Launch → Launch) : (s.onLaunch k f).sec = s.sec := rfl
@[simp] theorem State.onLaunch_l2 (s : State) (k : Nat) (f : Launch → Launch) : (s.onLaunch k f).l2 = s.l2 := rfl
@[simp] theorem State.onLaunch_poison (s : State) (k : Nat) (f : Launch → Launch) : (s.onLaunch k f).poison = s.poison := rfl
@[simp] theorem State.onLaunch_tlb (s : State) (k : Nat) (f : Launch → Launch) : (s.onLaunch k f).tlb = s.tlb := rfl
@[simp] theorem State.onLaunch_tcache (s : State) (k : Nat) (f : Launch → Launch) : (s.onLaunch k f).tcache = s.tcache := rfl
@[simp] theorem State.onLaunch_owners (s : State) (k : Nat) (f : Launch → Launch) : (s.onLaunch k f).owners = s.owners := rfl
@[simp] theorem State.onLaunch_holds (s : State) (k : Nat) (f : Launch → Launch) : (s.onLaunch k f).holds = s.holds := rfl
@[simp] theorem State.onLaunch_reqs (s : State) (k : Nat) (f : Launch → Launch) : (s.onLaunch k f).reqs = s.reqs := rfl
@[simp] theorem State.onLaunch_ops (s : State) (k : Nat) (f : Launch → Launch) : (s.onLaunch k f).ops = s.ops := rfl
@[simp] theorem State.onLaunch_cpys (s : State) (k : Nat) (f : Launch → Launch) : (s.onLaunch k f).cpys = s.cpys := rfl
@[simp] theorem State.onLaunch_walks (s : State) (k : Nat) (f : Launch → Launch) : (s.onLaunch k f).walks = s.walks := rfl
@[simp] theorem State.onLaunch_rounds (s : State) (k : Nat) (f : Launch → Launch) : (s.onLaunch k f).rounds = s.rounds := rfl
@[simp] theorem State.onLaunch_ordRecs (s : State) (k : Nat) (f : Launch → Launch) : (s.onLaunch k f).ordRecs = s.ordRecs := rfl
@[simp] theorem State.onLaunch_samples (s : State) (k : Nat) (f : Launch → Launch) : (s.onLaunch k f).samples = s.samples := rfl
@[simp] theorem State.onLaunch_inbox (s : State) (k : Nat) (f : Launch → Launch) : (s.onLaunch k f).inbox = s.inbox := rfl
@[simp] theorem State.onLaunch_outbox (s : State) (k : Nat) (f : Launch → Launch) : (s.onLaunch k f).outbox = s.outbox := rfl
@[simp] theorem State.onLaunch_turn (s : State) (k : Nat) (f : Launch → Launch) : (s.onLaunch k f).turn = s.turn := rfl
@[simp] theorem State.onLaunch_fresh (s : State) (k : Nat) (f : Launch → Launch) : (s.onLaunch k f).fresh = s.fresh := rfl
@[simp] theorem State.onLaunch_seq (s : State) (k : Nat) (f : Launch → Launch) : (s.onLaunch k f).seq = s.seq := rfl

/-! onCtx -/

@[simp] theorem State.onCtx_now (s : State) (k : Nat) (f : Ctx → Ctx) : (s.onCtx k f).now = s.now := rfl
@[simp] theorem State.onCtx_fort (s : State) (k : Nat) (f : Ctx → Ctx) : (s.onCtx k f).fort = s.fort := rfl
@[simp] theorem State.onCtx_forts (s : State) (k : Nat) (f : Ctx → Ctx) : (s.onCtx k f).forts = s.forts := rfl
@[simp] theorem State.onCtx_rr (s : State) (k : Nat) (f : Ctx → Ctx) : (s.onCtx k f).rr = s.rr := rfl
@[simp] theorem State.onCtx_lru (s : State) (k : Nat) (f : Ctx → Ctx) : (s.onCtx k f).lru = s.lru := rfl
@[simp] theorem State.onCtx_cyc (s : State) (k : Nat) (f : Ctx → Ctx) : (s.onCtx k f).cyc = s.cyc := rfl
@[simp] theorem State.onCtx_pkg (s : State) (k : Nat) (f : Ctx → Ctx) : (s.onCtx k f).pkg = s.pkg := rfl
@[simp] theorem State.onCtx_regs (s : State) (k : Nat) (f : Ctx → Ctx) : (s.onCtx k f).regs = s.regs := rfl
@[simp] theorem State.onCtx_fns (s : State) (k : Nat) (f : Ctx → Ctx) : (s.onCtx k f).fns = s.fns := rfl
@[simp] theorem State.onCtx_parts (s : State) (k : Nat) (f : Ctx → Ctx) : (s.onCtx k f).parts = s.parts := rfl
@[simp] theorem State.onCtx_lent (s : State) (k : Nat) (f : Ctx → Ctx) : (s.onCtx k f).lent = s.lent := rfl
@[simp] theorem State.onCtx_reclaim (s : State) (k : Nat) (f : Ctx → Ctx) : (s.onCtx k f).reclaim = s.reclaim := rfl
@[simp] theorem State.onCtx_clk (s : State) (k : Nat) (f : Ctx → Ctx) : (s.onCtx k f).clk = s.clk := rfl
@[simp] theorem State.onCtx_clkPend (s : State) (k : Nat) (f : Ctx → Ctx) : (s.onCtx k f).clkPend = s.clkPend := rfl
@[simp] theorem State.onCtx_queues (s : State) (k : Nat) (f : Ctx → Ctx) : (s.onCtx k f).queues = s.queues := rfl
@[simp] theorem State.onCtx_ctxs (s : State) (k : Nat) (f : Ctx → Ctx) : (s.onCtx k f).ctxs = Store.adjust k f s.ctxs := rfl
@[simp] theorem State.onCtx_launches (s : State) (k : Nat) (f : Ctx → Ctx) : (s.onCtx k f).launches = s.launches := rfl
@[simp] theorem State.onCtx_stands (s : State) (k : Nat) (f : Ctx → Ctx) : (s.onCtx k f).stands = s.stands := rfl
@[simp] theorem State.onCtx_outs (s : State) (k : Nat) (f : Ctx → Ctx) : (s.onCtx k f).outs = s.outs := rfl
@[simp] theorem State.onCtx_returning (s : State) (k : Nat) (f : Ctx → Ctx) : (s.onCtx k f).returning = s.returning := rfl
@[simp] theorem State.onCtx_switches (s : State) (k : Nat) (f : Ctx → Ctx) : (s.onCtx k f).switches = s.switches := rfl
@[simp] theorem State.onCtx_resident (s : State) (k : Nat) (f : Ctx → Ctx) : (s.onCtx k f).resident = s.resident := rfl
@[simp] theorem State.onCtx_pct (s : State) (k : Nat) (f : Ctx → Ctx) : (s.onCtx k f).pct = s.pct := rfl
@[simp] theorem State.onCtx_pcache (s : State) (k : Nat) (f : Ctx → Ctx) : (s.onCtx k f).pcache = s.pcache := rfl
@[simp] theorem State.onCtx_brand (s : State) (k : Nat) (f : Ctx → Ctx) : (s.onCtx k f).brand = s.brand := rfl
@[simp] theorem State.onCtx_misses (s : State) (k : Nat) (f : Ctx → Ctx) : (s.onCtx k f).misses = s.misses := rfl
@[simp] theorem State.onCtx_fills (s : State) (k : Nat) (f : Ctx → Ctx) : (s.onCtx k f).fills = s.fills := rfl
@[simp] theorem State.onCtx_issue (s : State) (k : Nat) (f : Ctx → Ctx) : (s.onCtx k f).issue = s.issue := rfl
@[simp] theorem State.onCtx_teams (s : State) (k : Nat) (f : Ctx → Ctx) : (s.onCtx k f).teams = s.teams := rfl
@[simp] theorem State.onCtx_joins (s : State) (k : Nat) (f : Ctx → Ctx) : (s.onCtx k f).joins = s.joins := rfl
@[simp] theorem State.onCtx_mem (s : State) (k : Nat) (f : Ctx → Ctx) : (s.onCtx k f).mem = s.mem := rfl
@[simp] theorem State.onCtx_tier (s : State) (k : Nat) (f : Ctx → Ctx) : (s.onCtx k f).tier = s.tier := rfl
@[simp] theorem State.onCtx_hostMem (s : State) (k : Nat) (f : Ctx → Ctx) : (s.onCtx k f).hostMem = s.hostMem := rfl
@[simp] theorem State.onCtx_dsh (s : State) (k : Nat) (f : Ctx → Ctx) : (s.onCtx k f).dsh = s.dsh := rfl
@[simp] theorem State.onCtx_scr (s : State) (k : Nat) (f : Ctx → Ctx) : (s.onCtx k f).scr = s.scr := rfl
@[simp] theorem State.onCtx_l1 (s : State) (k : Nat) (f : Ctx → Ctx) : (s.onCtx k f).l1 = s.l1 := rfl
@[simp] theorem State.onCtx_sec (s : State) (k : Nat) (f : Ctx → Ctx) : (s.onCtx k f).sec = s.sec := rfl
@[simp] theorem State.onCtx_l2 (s : State) (k : Nat) (f : Ctx → Ctx) : (s.onCtx k f).l2 = s.l2 := rfl
@[simp] theorem State.onCtx_poison (s : State) (k : Nat) (f : Ctx → Ctx) : (s.onCtx k f).poison = s.poison := rfl
@[simp] theorem State.onCtx_tlb (s : State) (k : Nat) (f : Ctx → Ctx) : (s.onCtx k f).tlb = s.tlb := rfl
@[simp] theorem State.onCtx_tcache (s : State) (k : Nat) (f : Ctx → Ctx) : (s.onCtx k f).tcache = s.tcache := rfl
@[simp] theorem State.onCtx_owners (s : State) (k : Nat) (f : Ctx → Ctx) : (s.onCtx k f).owners = s.owners := rfl
@[simp] theorem State.onCtx_holds (s : State) (k : Nat) (f : Ctx → Ctx) : (s.onCtx k f).holds = s.holds := rfl
@[simp] theorem State.onCtx_reqs (s : State) (k : Nat) (f : Ctx → Ctx) : (s.onCtx k f).reqs = s.reqs := rfl
@[simp] theorem State.onCtx_ops (s : State) (k : Nat) (f : Ctx → Ctx) : (s.onCtx k f).ops = s.ops := rfl
@[simp] theorem State.onCtx_cpys (s : State) (k : Nat) (f : Ctx → Ctx) : (s.onCtx k f).cpys = s.cpys := rfl
@[simp] theorem State.onCtx_walks (s : State) (k : Nat) (f : Ctx → Ctx) : (s.onCtx k f).walks = s.walks := rfl
@[simp] theorem State.onCtx_rounds (s : State) (k : Nat) (f : Ctx → Ctx) : (s.onCtx k f).rounds = s.rounds := rfl
@[simp] theorem State.onCtx_ordRecs (s : State) (k : Nat) (f : Ctx → Ctx) : (s.onCtx k f).ordRecs = s.ordRecs := rfl
@[simp] theorem State.onCtx_samples (s : State) (k : Nat) (f : Ctx → Ctx) : (s.onCtx k f).samples = s.samples := rfl
@[simp] theorem State.onCtx_inbox (s : State) (k : Nat) (f : Ctx → Ctx) : (s.onCtx k f).inbox = s.inbox := rfl
@[simp] theorem State.onCtx_outbox (s : State) (k : Nat) (f : Ctx → Ctx) : (s.onCtx k f).outbox = s.outbox := rfl
@[simp] theorem State.onCtx_turn (s : State) (k : Nat) (f : Ctx → Ctx) : (s.onCtx k f).turn = s.turn := rfl
@[simp] theorem State.onCtx_fresh (s : State) (k : Nat) (f : Ctx → Ctx) : (s.onCtx k f).fresh = s.fresh := rfl
@[simp] theorem State.onCtx_seq (s : State) (k : Nat) (f : Ctx → Ctx) : (s.onCtx k f).seq = s.seq := rfl

/-! onTeam -/

@[simp] theorem State.onTeam_now (s : State) (k : Nat) (f : Team → Team) : (s.onTeam k f).now = s.now := rfl
@[simp] theorem State.onTeam_fort (s : State) (k : Nat) (f : Team → Team) : (s.onTeam k f).fort = s.fort := rfl
@[simp] theorem State.onTeam_forts (s : State) (k : Nat) (f : Team → Team) : (s.onTeam k f).forts = s.forts := rfl
@[simp] theorem State.onTeam_rr (s : State) (k : Nat) (f : Team → Team) : (s.onTeam k f).rr = s.rr := rfl
@[simp] theorem State.onTeam_lru (s : State) (k : Nat) (f : Team → Team) : (s.onTeam k f).lru = s.lru := rfl
@[simp] theorem State.onTeam_cyc (s : State) (k : Nat) (f : Team → Team) : (s.onTeam k f).cyc = s.cyc := rfl
@[simp] theorem State.onTeam_pkg (s : State) (k : Nat) (f : Team → Team) : (s.onTeam k f).pkg = s.pkg := rfl
@[simp] theorem State.onTeam_regs (s : State) (k : Nat) (f : Team → Team) : (s.onTeam k f).regs = s.regs := rfl
@[simp] theorem State.onTeam_fns (s : State) (k : Nat) (f : Team → Team) : (s.onTeam k f).fns = s.fns := rfl
@[simp] theorem State.onTeam_parts (s : State) (k : Nat) (f : Team → Team) : (s.onTeam k f).parts = s.parts := rfl
@[simp] theorem State.onTeam_lent (s : State) (k : Nat) (f : Team → Team) : (s.onTeam k f).lent = s.lent := rfl
@[simp] theorem State.onTeam_reclaim (s : State) (k : Nat) (f : Team → Team) : (s.onTeam k f).reclaim = s.reclaim := rfl
@[simp] theorem State.onTeam_clk (s : State) (k : Nat) (f : Team → Team) : (s.onTeam k f).clk = s.clk := rfl
@[simp] theorem State.onTeam_clkPend (s : State) (k : Nat) (f : Team → Team) : (s.onTeam k f).clkPend = s.clkPend := rfl
@[simp] theorem State.onTeam_queues (s : State) (k : Nat) (f : Team → Team) : (s.onTeam k f).queues = s.queues := rfl
@[simp] theorem State.onTeam_ctxs (s : State) (k : Nat) (f : Team → Team) : (s.onTeam k f).ctxs = s.ctxs := rfl
@[simp] theorem State.onTeam_launches (s : State) (k : Nat) (f : Team → Team) : (s.onTeam k f).launches = s.launches := rfl
@[simp] theorem State.onTeam_stands (s : State) (k : Nat) (f : Team → Team) : (s.onTeam k f).stands = s.stands := rfl
@[simp] theorem State.onTeam_outs (s : State) (k : Nat) (f : Team → Team) : (s.onTeam k f).outs = s.outs := rfl
@[simp] theorem State.onTeam_returning (s : State) (k : Nat) (f : Team → Team) : (s.onTeam k f).returning = s.returning := rfl
@[simp] theorem State.onTeam_switches (s : State) (k : Nat) (f : Team → Team) : (s.onTeam k f).switches = s.switches := rfl
@[simp] theorem State.onTeam_resident (s : State) (k : Nat) (f : Team → Team) : (s.onTeam k f).resident = s.resident := rfl
@[simp] theorem State.onTeam_pct (s : State) (k : Nat) (f : Team → Team) : (s.onTeam k f).pct = s.pct := rfl
@[simp] theorem State.onTeam_pcache (s : State) (k : Nat) (f : Team → Team) : (s.onTeam k f).pcache = s.pcache := rfl
@[simp] theorem State.onTeam_brand (s : State) (k : Nat) (f : Team → Team) : (s.onTeam k f).brand = s.brand := rfl
@[simp] theorem State.onTeam_misses (s : State) (k : Nat) (f : Team → Team) : (s.onTeam k f).misses = s.misses := rfl
@[simp] theorem State.onTeam_fills (s : State) (k : Nat) (f : Team → Team) : (s.onTeam k f).fills = s.fills := rfl
@[simp] theorem State.onTeam_issue (s : State) (k : Nat) (f : Team → Team) : (s.onTeam k f).issue = s.issue := rfl
@[simp] theorem State.onTeam_teams (s : State) (k : Nat) (f : Team → Team) : (s.onTeam k f).teams = Store.adjust k f s.teams := rfl
@[simp] theorem State.onTeam_joins (s : State) (k : Nat) (f : Team → Team) : (s.onTeam k f).joins = s.joins := rfl
@[simp] theorem State.onTeam_mem (s : State) (k : Nat) (f : Team → Team) : (s.onTeam k f).mem = s.mem := rfl
@[simp] theorem State.onTeam_tier (s : State) (k : Nat) (f : Team → Team) : (s.onTeam k f).tier = s.tier := rfl
@[simp] theorem State.onTeam_hostMem (s : State) (k : Nat) (f : Team → Team) : (s.onTeam k f).hostMem = s.hostMem := rfl
@[simp] theorem State.onTeam_dsh (s : State) (k : Nat) (f : Team → Team) : (s.onTeam k f).dsh = s.dsh := rfl
@[simp] theorem State.onTeam_scr (s : State) (k : Nat) (f : Team → Team) : (s.onTeam k f).scr = s.scr := rfl
@[simp] theorem State.onTeam_l1 (s : State) (k : Nat) (f : Team → Team) : (s.onTeam k f).l1 = s.l1 := rfl
@[simp] theorem State.onTeam_sec (s : State) (k : Nat) (f : Team → Team) : (s.onTeam k f).sec = s.sec := rfl
@[simp] theorem State.onTeam_l2 (s : State) (k : Nat) (f : Team → Team) : (s.onTeam k f).l2 = s.l2 := rfl
@[simp] theorem State.onTeam_poison (s : State) (k : Nat) (f : Team → Team) : (s.onTeam k f).poison = s.poison := rfl
@[simp] theorem State.onTeam_tlb (s : State) (k : Nat) (f : Team → Team) : (s.onTeam k f).tlb = s.tlb := rfl
@[simp] theorem State.onTeam_tcache (s : State) (k : Nat) (f : Team → Team) : (s.onTeam k f).tcache = s.tcache := rfl
@[simp] theorem State.onTeam_owners (s : State) (k : Nat) (f : Team → Team) : (s.onTeam k f).owners = s.owners := rfl
@[simp] theorem State.onTeam_holds (s : State) (k : Nat) (f : Team → Team) : (s.onTeam k f).holds = s.holds := rfl
@[simp] theorem State.onTeam_reqs (s : State) (k : Nat) (f : Team → Team) : (s.onTeam k f).reqs = s.reqs := rfl
@[simp] theorem State.onTeam_ops (s : State) (k : Nat) (f : Team → Team) : (s.onTeam k f).ops = s.ops := rfl
@[simp] theorem State.onTeam_cpys (s : State) (k : Nat) (f : Team → Team) : (s.onTeam k f).cpys = s.cpys := rfl
@[simp] theorem State.onTeam_walks (s : State) (k : Nat) (f : Team → Team) : (s.onTeam k f).walks = s.walks := rfl
@[simp] theorem State.onTeam_rounds (s : State) (k : Nat) (f : Team → Team) : (s.onTeam k f).rounds = s.rounds := rfl
@[simp] theorem State.onTeam_ordRecs (s : State) (k : Nat) (f : Team → Team) : (s.onTeam k f).ordRecs = s.ordRecs := rfl
@[simp] theorem State.onTeam_samples (s : State) (k : Nat) (f : Team → Team) : (s.onTeam k f).samples = s.samples := rfl
@[simp] theorem State.onTeam_inbox (s : State) (k : Nat) (f : Team → Team) : (s.onTeam k f).inbox = s.inbox := rfl
@[simp] theorem State.onTeam_outbox (s : State) (k : Nat) (f : Team → Team) : (s.onTeam k f).outbox = s.outbox := rfl
@[simp] theorem State.onTeam_turn (s : State) (k : Nat) (f : Team → Team) : (s.onTeam k f).turn = s.turn := rfl
@[simp] theorem State.onTeam_fresh (s : State) (k : Nat) (f : Team → Team) : (s.onTeam k f).fresh = s.fresh := rfl
@[simp] theorem State.onTeam_seq (s : State) (k : Nat) (f : Team → Team) : (s.onTeam k f).seq = s.seq := rfl

/-! dropLanes -/

@[simp] theorem State.dropLanes_now (s : State) (key : Nat) (hdl : Bool) (q : W) : (s.dropLanes key hdl q).now = s.now := rfl
@[simp] theorem State.dropLanes_fort (s : State) (key : Nat) (hdl : Bool) (q : W) : (s.dropLanes key hdl q).fort = s.fort := rfl
@[simp] theorem State.dropLanes_forts (s : State) (key : Nat) (hdl : Bool) (q : W) : (s.dropLanes key hdl q).forts = s.forts := rfl
@[simp] theorem State.dropLanes_rr (s : State) (key : Nat) (hdl : Bool) (q : W) : (s.dropLanes key hdl q).rr = s.rr := rfl
@[simp] theorem State.dropLanes_lru (s : State) (key : Nat) (hdl : Bool) (q : W) : (s.dropLanes key hdl q).lru = s.lru := rfl
@[simp] theorem State.dropLanes_cyc (s : State) (key : Nat) (hdl : Bool) (q : W) : (s.dropLanes key hdl q).cyc = s.cyc := rfl
@[simp] theorem State.dropLanes_pkg (s : State) (key : Nat) (hdl : Bool) (q : W) : (s.dropLanes key hdl q).pkg = s.pkg := rfl
@[simp] theorem State.dropLanes_regs (s : State) (key : Nat) (hdl : Bool) (q : W) : (s.dropLanes key hdl q).regs = s.regs := rfl
@[simp] theorem State.dropLanes_fns (s : State) (key : Nat) (hdl : Bool) (q : W) : (s.dropLanes key hdl q).fns = s.fns := rfl
@[simp] theorem State.dropLanes_parts (s : State) (key : Nat) (hdl : Bool) (q : W) : (s.dropLanes key hdl q).parts = s.parts := rfl
@[simp] theorem State.dropLanes_lent (s : State) (key : Nat) (hdl : Bool) (q : W) : (s.dropLanes key hdl q).lent = s.lent := rfl
@[simp] theorem State.dropLanes_reclaim (s : State) (key : Nat) (hdl : Bool) (q : W) : (s.dropLanes key hdl q).reclaim = s.reclaim := rfl
@[simp] theorem State.dropLanes_clk (s : State) (key : Nat) (hdl : Bool) (q : W) : (s.dropLanes key hdl q).clk = s.clk := rfl
@[simp] theorem State.dropLanes_clkPend (s : State) (key : Nat) (hdl : Bool) (q : W) : (s.dropLanes key hdl q).clkPend = s.clkPend := rfl
@[simp] theorem State.dropLanes_queues (s : State) (key : Nat) (hdl : Bool) (q : W) : (s.dropLanes key hdl q).queues = s.queues := rfl
@[simp] theorem State.dropLanes_ctxs (s : State) (key : Nat) (hdl : Bool) (q : W) : (s.dropLanes key hdl q).ctxs = s.ctxs := rfl
@[simp] theorem State.dropLanes_launches (s : State) (key : Nat) (hdl : Bool) (q : W) : (s.dropLanes key hdl q).launches = s.launches := rfl
@[simp] theorem State.dropLanes_stands (s : State) (key : Nat) (hdl : Bool) (q : W) : (s.dropLanes key hdl q).stands = s.stands := rfl
@[simp] theorem State.dropLanes_outs (s : State) (key : Nat) (hdl : Bool) (q : W) : (s.dropLanes key hdl q).outs = s.outs := rfl
@[simp] theorem State.dropLanes_returning (s : State) (key : Nat) (hdl : Bool) (q : W) : (s.dropLanes key hdl q).returning = s.returning := rfl
@[simp] theorem State.dropLanes_switches (s : State) (key : Nat) (hdl : Bool) (q : W) : (s.dropLanes key hdl q).switches = s.switches := rfl
@[simp] theorem State.dropLanes_resident (s : State) (key : Nat) (hdl : Bool) (q : W) : (s.dropLanes key hdl q).resident = s.resident := rfl
@[simp] theorem State.dropLanes_pct (s : State) (key : Nat) (hdl : Bool) (q : W) : (s.dropLanes key hdl q).pct = s.pct := rfl
@[simp] theorem State.dropLanes_pcache (s : State) (key : Nat) (hdl : Bool) (q : W) : (s.dropLanes key hdl q).pcache = s.pcache := rfl
@[simp] theorem State.dropLanes_brand (s : State) (key : Nat) (hdl : Bool) (q : W) : (s.dropLanes key hdl q).brand = s.brand := rfl
@[simp] theorem State.dropLanes_misses (s : State) (key : Nat) (hdl : Bool) (q : W) : (s.dropLanes key hdl q).misses = s.misses := rfl
@[simp] theorem State.dropLanes_fills (s : State) (key : Nat) (hdl : Bool) (q : W) : (s.dropLanes key hdl q).fills = s.fills := rfl
@[simp] theorem State.dropLanes_issue (s : State) (key : Nat) (hdl : Bool) (q : W) : (s.dropLanes key hdl q).issue = s.issue.map (Squad.drop key hdl q) := rfl
@[simp] theorem State.dropLanes_teams (s : State) (key : Nat) (hdl : Bool) (q : W) : (s.dropLanes key hdl q).teams = s.teams := rfl
@[simp] theorem State.dropLanes_joins (s : State) (key : Nat) (hdl : Bool) (q : W) : (s.dropLanes key hdl q).joins = s.joins := rfl
@[simp] theorem State.dropLanes_mem (s : State) (key : Nat) (hdl : Bool) (q : W) : (s.dropLanes key hdl q).mem = s.mem := rfl
@[simp] theorem State.dropLanes_tier (s : State) (key : Nat) (hdl : Bool) (q : W) : (s.dropLanes key hdl q).tier = s.tier := rfl
@[simp] theorem State.dropLanes_hostMem (s : State) (key : Nat) (hdl : Bool) (q : W) : (s.dropLanes key hdl q).hostMem = s.hostMem := rfl
@[simp] theorem State.dropLanes_dsh (s : State) (key : Nat) (hdl : Bool) (q : W) : (s.dropLanes key hdl q).dsh = s.dsh := rfl
@[simp] theorem State.dropLanes_scr (s : State) (key : Nat) (hdl : Bool) (q : W) : (s.dropLanes key hdl q).scr = s.scr := rfl
@[simp] theorem State.dropLanes_l1 (s : State) (key : Nat) (hdl : Bool) (q : W) : (s.dropLanes key hdl q).l1 = s.l1 := rfl
@[simp] theorem State.dropLanes_sec (s : State) (key : Nat) (hdl : Bool) (q : W) : (s.dropLanes key hdl q).sec = s.sec := rfl
@[simp] theorem State.dropLanes_l2 (s : State) (key : Nat) (hdl : Bool) (q : W) : (s.dropLanes key hdl q).l2 = s.l2 := rfl
@[simp] theorem State.dropLanes_poison (s : State) (key : Nat) (hdl : Bool) (q : W) : (s.dropLanes key hdl q).poison = s.poison := rfl
@[simp] theorem State.dropLanes_tlb (s : State) (key : Nat) (hdl : Bool) (q : W) : (s.dropLanes key hdl q).tlb = s.tlb := rfl
@[simp] theorem State.dropLanes_tcache (s : State) (key : Nat) (hdl : Bool) (q : W) : (s.dropLanes key hdl q).tcache = s.tcache := rfl
@[simp] theorem State.dropLanes_owners (s : State) (key : Nat) (hdl : Bool) (q : W) : (s.dropLanes key hdl q).owners = s.owners := rfl
@[simp] theorem State.dropLanes_holds (s : State) (key : Nat) (hdl : Bool) (q : W) : (s.dropLanes key hdl q).holds = s.holds := rfl
@[simp] theorem State.dropLanes_reqs (s : State) (key : Nat) (hdl : Bool) (q : W) : (s.dropLanes key hdl q).reqs = s.reqs := rfl
@[simp] theorem State.dropLanes_ops (s : State) (key : Nat) (hdl : Bool) (q : W) : (s.dropLanes key hdl q).ops = s.ops := rfl
@[simp] theorem State.dropLanes_cpys (s : State) (key : Nat) (hdl : Bool) (q : W) : (s.dropLanes key hdl q).cpys = s.cpys := rfl
@[simp] theorem State.dropLanes_walks (s : State) (key : Nat) (hdl : Bool) (q : W) : (s.dropLanes key hdl q).walks = s.walks := rfl
@[simp] theorem State.dropLanes_rounds (s : State) (key : Nat) (hdl : Bool) (q : W) : (s.dropLanes key hdl q).rounds = s.rounds := rfl
@[simp] theorem State.dropLanes_ordRecs (s : State) (key : Nat) (hdl : Bool) (q : W) : (s.dropLanes key hdl q).ordRecs = s.ordRecs := rfl
@[simp] theorem State.dropLanes_samples (s : State) (key : Nat) (hdl : Bool) (q : W) : (s.dropLanes key hdl q).samples = s.samples := rfl
@[simp] theorem State.dropLanes_inbox (s : State) (key : Nat) (hdl : Bool) (q : W) : (s.dropLanes key hdl q).inbox = s.inbox := rfl
@[simp] theorem State.dropLanes_outbox (s : State) (key : Nat) (hdl : Bool) (q : W) : (s.dropLanes key hdl q).outbox = s.outbox := rfl
@[simp] theorem State.dropLanes_turn (s : State) (key : Nat) (hdl : Bool) (q : W) : (s.dropLanes key hdl q).turn = s.turn := rfl
@[simp] theorem State.dropLanes_fresh (s : State) (key : Nat) (hdl : Bool) (q : W) : (s.dropLanes key hdl q).fresh = s.fresh := rfl
@[simp] theorem State.dropLanes_seq (s : State) (key : Nat) (hdl : Bool) (q : W) : (s.dropLanes key hdl q).seq = s.seq := rfl

/-! post -/

@[simp] theorem State.post_now (s : State) (e : Ev) : (s.post e).now = s.now := rfl
@[simp] theorem State.post_fort (s : State) (e : Ev) : (s.post e).fort = s.fort := rfl
@[simp] theorem State.post_forts (s : State) (e : Ev) : (s.post e).forts = s.forts := rfl
@[simp] theorem State.post_rr (s : State) (e : Ev) : (s.post e).rr = s.rr := rfl
@[simp] theorem State.post_lru (s : State) (e : Ev) : (s.post e).lru = s.lru := rfl
@[simp] theorem State.post_cyc (s : State) (e : Ev) : (s.post e).cyc = s.cyc := rfl
@[simp] theorem State.post_pkg (s : State) (e : Ev) : (s.post e).pkg = s.pkg := rfl
@[simp] theorem State.post_regs (s : State) (e : Ev) : (s.post e).regs = s.regs := rfl
@[simp] theorem State.post_fns (s : State) (e : Ev) : (s.post e).fns = s.fns := rfl
@[simp] theorem State.post_parts (s : State) (e : Ev) : (s.post e).parts = s.parts := rfl
@[simp] theorem State.post_lent (s : State) (e : Ev) : (s.post e).lent = s.lent := rfl
@[simp] theorem State.post_reclaim (s : State) (e : Ev) : (s.post e).reclaim = s.reclaim := rfl
@[simp] theorem State.post_clk (s : State) (e : Ev) : (s.post e).clk = s.clk := rfl
@[simp] theorem State.post_clkPend (s : State) (e : Ev) : (s.post e).clkPend = s.clkPend := rfl
@[simp] theorem State.post_queues (s : State) (e : Ev) : (s.post e).queues = s.queues := rfl
@[simp] theorem State.post_ctxs (s : State) (e : Ev) : (s.post e).ctxs = s.ctxs := rfl
@[simp] theorem State.post_launches (s : State) (e : Ev) : (s.post e).launches = s.launches := rfl
@[simp] theorem State.post_stands (s : State) (e : Ev) : (s.post e).stands = s.stands := rfl
@[simp] theorem State.post_outs (s : State) (e : Ev) : (s.post e).outs = s.outs := rfl
@[simp] theorem State.post_returning (s : State) (e : Ev) : (s.post e).returning = s.returning := rfl
@[simp] theorem State.post_switches (s : State) (e : Ev) : (s.post e).switches = s.switches := rfl
@[simp] theorem State.post_resident (s : State) (e : Ev) : (s.post e).resident = s.resident := rfl
@[simp] theorem State.post_pct (s : State) (e : Ev) : (s.post e).pct = s.pct := rfl
@[simp] theorem State.post_pcache (s : State) (e : Ev) : (s.post e).pcache = s.pcache := rfl
@[simp] theorem State.post_brand (s : State) (e : Ev) : (s.post e).brand = s.brand := rfl
@[simp] theorem State.post_misses (s : State) (e : Ev) : (s.post e).misses = s.misses := rfl
@[simp] theorem State.post_fills (s : State) (e : Ev) : (s.post e).fills = s.fills := rfl
@[simp] theorem State.post_issue (s : State) (e : Ev) : (s.post e).issue = s.issue := rfl
@[simp] theorem State.post_teams (s : State) (e : Ev) : (s.post e).teams = s.teams := rfl
@[simp] theorem State.post_joins (s : State) (e : Ev) : (s.post e).joins = s.joins := rfl
@[simp] theorem State.post_mem (s : State) (e : Ev) : (s.post e).mem = s.mem := rfl
@[simp] theorem State.post_tier (s : State) (e : Ev) : (s.post e).tier = s.tier := rfl
@[simp] theorem State.post_hostMem (s : State) (e : Ev) : (s.post e).hostMem = s.hostMem := rfl
@[simp] theorem State.post_dsh (s : State) (e : Ev) : (s.post e).dsh = s.dsh := rfl
@[simp] theorem State.post_scr (s : State) (e : Ev) : (s.post e).scr = s.scr := rfl
@[simp] theorem State.post_l1 (s : State) (e : Ev) : (s.post e).l1 = s.l1 := rfl
@[simp] theorem State.post_sec (s : State) (e : Ev) : (s.post e).sec = s.sec := rfl
@[simp] theorem State.post_l2 (s : State) (e : Ev) : (s.post e).l2 = s.l2 := rfl
@[simp] theorem State.post_poison (s : State) (e : Ev) : (s.post e).poison = s.poison := rfl
@[simp] theorem State.post_tlb (s : State) (e : Ev) : (s.post e).tlb = s.tlb := rfl
@[simp] theorem State.post_tcache (s : State) (e : Ev) : (s.post e).tcache = s.tcache := rfl
@[simp] theorem State.post_owners (s : State) (e : Ev) : (s.post e).owners = s.owners := rfl
@[simp] theorem State.post_holds (s : State) (e : Ev) : (s.post e).holds = s.holds := rfl
@[simp] theorem State.post_reqs (s : State) (e : Ev) : (s.post e).reqs = s.reqs := rfl
@[simp] theorem State.post_ops (s : State) (e : Ev) : (s.post e).ops = s.ops := rfl
@[simp] theorem State.post_cpys (s : State) (e : Ev) : (s.post e).cpys = s.cpys := rfl
@[simp] theorem State.post_walks (s : State) (e : Ev) : (s.post e).walks = s.walks := rfl
@[simp] theorem State.post_rounds (s : State) (e : Ev) : (s.post e).rounds = s.rounds := rfl
@[simp] theorem State.post_ordRecs (s : State) (e : Ev) : (s.post e).ordRecs = s.ordRecs := rfl
@[simp] theorem State.post_samples (s : State) (e : Ev) : (s.post e).samples = s.samples := rfl
@[simp] theorem State.post_inbox (s : State) (e : Ev) : (s.post e).inbox = s.inbox ++ [e] := rfl
@[simp] theorem State.post_outbox (s : State) (e : Ev) : (s.post e).outbox = s.outbox := rfl
@[simp] theorem State.post_turn (s : State) (e : Ev) : (s.post e).turn = s.turn := rfl
@[simp] theorem State.post_fresh (s : State) (e : Ev) : (s.post e).fresh = s.fresh := rfl
@[simp] theorem State.post_seq (s : State) (e : Ev) : (s.post e).seq = s.seq := rfl

/-! postFirst -/

@[simp] theorem State.postFirst_now (s : State) (e : Ev) : (s.postFirst e).now = s.now := rfl
@[simp] theorem State.postFirst_fort (s : State) (e : Ev) : (s.postFirst e).fort = s.fort := rfl
@[simp] theorem State.postFirst_forts (s : State) (e : Ev) : (s.postFirst e).forts = s.forts := rfl
@[simp] theorem State.postFirst_rr (s : State) (e : Ev) : (s.postFirst e).rr = s.rr := rfl
@[simp] theorem State.postFirst_lru (s : State) (e : Ev) : (s.postFirst e).lru = s.lru := rfl
@[simp] theorem State.postFirst_cyc (s : State) (e : Ev) : (s.postFirst e).cyc = s.cyc := rfl
@[simp] theorem State.postFirst_pkg (s : State) (e : Ev) : (s.postFirst e).pkg = s.pkg := rfl
@[simp] theorem State.postFirst_regs (s : State) (e : Ev) : (s.postFirst e).regs = s.regs := rfl
@[simp] theorem State.postFirst_fns (s : State) (e : Ev) : (s.postFirst e).fns = s.fns := rfl
@[simp] theorem State.postFirst_parts (s : State) (e : Ev) : (s.postFirst e).parts = s.parts := rfl
@[simp] theorem State.postFirst_lent (s : State) (e : Ev) : (s.postFirst e).lent = s.lent := rfl
@[simp] theorem State.postFirst_reclaim (s : State) (e : Ev) : (s.postFirst e).reclaim = s.reclaim := rfl
@[simp] theorem State.postFirst_clk (s : State) (e : Ev) : (s.postFirst e).clk = s.clk := rfl
@[simp] theorem State.postFirst_clkPend (s : State) (e : Ev) : (s.postFirst e).clkPend = s.clkPend := rfl
@[simp] theorem State.postFirst_queues (s : State) (e : Ev) : (s.postFirst e).queues = s.queues := rfl
@[simp] theorem State.postFirst_ctxs (s : State) (e : Ev) : (s.postFirst e).ctxs = s.ctxs := rfl
@[simp] theorem State.postFirst_launches (s : State) (e : Ev) : (s.postFirst e).launches = s.launches := rfl
@[simp] theorem State.postFirst_stands (s : State) (e : Ev) : (s.postFirst e).stands = s.stands := rfl
@[simp] theorem State.postFirst_outs (s : State) (e : Ev) : (s.postFirst e).outs = s.outs := rfl
@[simp] theorem State.postFirst_returning (s : State) (e : Ev) : (s.postFirst e).returning = s.returning := rfl
@[simp] theorem State.postFirst_switches (s : State) (e : Ev) : (s.postFirst e).switches = s.switches := rfl
@[simp] theorem State.postFirst_resident (s : State) (e : Ev) : (s.postFirst e).resident = s.resident := rfl
@[simp] theorem State.postFirst_pct (s : State) (e : Ev) : (s.postFirst e).pct = s.pct := rfl
@[simp] theorem State.postFirst_pcache (s : State) (e : Ev) : (s.postFirst e).pcache = s.pcache := rfl
@[simp] theorem State.postFirst_brand (s : State) (e : Ev) : (s.postFirst e).brand = s.brand := rfl
@[simp] theorem State.postFirst_misses (s : State) (e : Ev) : (s.postFirst e).misses = s.misses := rfl
@[simp] theorem State.postFirst_fills (s : State) (e : Ev) : (s.postFirst e).fills = s.fills := rfl
@[simp] theorem State.postFirst_issue (s : State) (e : Ev) : (s.postFirst e).issue = s.issue := rfl
@[simp] theorem State.postFirst_teams (s : State) (e : Ev) : (s.postFirst e).teams = s.teams := rfl
@[simp] theorem State.postFirst_joins (s : State) (e : Ev) : (s.postFirst e).joins = s.joins := rfl
@[simp] theorem State.postFirst_mem (s : State) (e : Ev) : (s.postFirst e).mem = s.mem := rfl
@[simp] theorem State.postFirst_tier (s : State) (e : Ev) : (s.postFirst e).tier = s.tier := rfl
@[simp] theorem State.postFirst_hostMem (s : State) (e : Ev) : (s.postFirst e).hostMem = s.hostMem := rfl
@[simp] theorem State.postFirst_dsh (s : State) (e : Ev) : (s.postFirst e).dsh = s.dsh := rfl
@[simp] theorem State.postFirst_scr (s : State) (e : Ev) : (s.postFirst e).scr = s.scr := rfl
@[simp] theorem State.postFirst_l1 (s : State) (e : Ev) : (s.postFirst e).l1 = s.l1 := rfl
@[simp] theorem State.postFirst_sec (s : State) (e : Ev) : (s.postFirst e).sec = s.sec := rfl
@[simp] theorem State.postFirst_l2 (s : State) (e : Ev) : (s.postFirst e).l2 = s.l2 := rfl
@[simp] theorem State.postFirst_poison (s : State) (e : Ev) : (s.postFirst e).poison = s.poison := rfl
@[simp] theorem State.postFirst_tlb (s : State) (e : Ev) : (s.postFirst e).tlb = s.tlb := rfl
@[simp] theorem State.postFirst_tcache (s : State) (e : Ev) : (s.postFirst e).tcache = s.tcache := rfl
@[simp] theorem State.postFirst_owners (s : State) (e : Ev) : (s.postFirst e).owners = s.owners := rfl
@[simp] theorem State.postFirst_holds (s : State) (e : Ev) : (s.postFirst e).holds = s.holds := rfl
@[simp] theorem State.postFirst_reqs (s : State) (e : Ev) : (s.postFirst e).reqs = s.reqs := rfl
@[simp] theorem State.postFirst_ops (s : State) (e : Ev) : (s.postFirst e).ops = s.ops := rfl
@[simp] theorem State.postFirst_cpys (s : State) (e : Ev) : (s.postFirst e).cpys = s.cpys := rfl
@[simp] theorem State.postFirst_walks (s : State) (e : Ev) : (s.postFirst e).walks = s.walks := rfl
@[simp] theorem State.postFirst_rounds (s : State) (e : Ev) : (s.postFirst e).rounds = s.rounds := rfl
@[simp] theorem State.postFirst_ordRecs (s : State) (e : Ev) : (s.postFirst e).ordRecs = s.ordRecs := rfl
@[simp] theorem State.postFirst_samples (s : State) (e : Ev) : (s.postFirst e).samples = s.samples := rfl
@[simp] theorem State.postFirst_inbox (s : State) (e : Ev) : (s.postFirst e).inbox = e :: s.inbox := rfl
@[simp] theorem State.postFirst_outbox (s : State) (e : Ev) : (s.postFirst e).outbox = s.outbox := rfl
@[simp] theorem State.postFirst_turn (s : State) (e : Ev) : (s.postFirst e).turn = s.turn := rfl
@[simp] theorem State.postFirst_fresh (s : State) (e : Ev) : (s.postFirst e).fresh = s.fresh := rfl
@[simp] theorem State.postFirst_seq (s : State) (e : Ev) : (s.postFirst e).seq = s.seq := rfl

/-! again -/

@[simp] theorem State.again_now (s : State) : (s.again).now = s.now := by unfold State.again; split <;> rfl
@[simp] theorem State.again_fort (s : State) : (s.again).fort = s.fort := by unfold State.again; split <;> rfl
@[simp] theorem State.again_forts (s : State) : (s.again).forts = s.forts := by unfold State.again; split <;> rfl
@[simp] theorem State.again_rr (s : State) : (s.again).rr = s.rr := by unfold State.again; split <;> rfl
@[simp] theorem State.again_lru (s : State) : (s.again).lru = s.lru := by unfold State.again; split <;> rfl
@[simp] theorem State.again_cyc (s : State) : (s.again).cyc = s.cyc := by unfold State.again; split <;> rfl
@[simp] theorem State.again_pkg (s : State) : (s.again).pkg = s.pkg := by unfold State.again; split <;> rfl
@[simp] theorem State.again_regs (s : State) : (s.again).regs = s.regs := by unfold State.again; split <;> rfl
@[simp] theorem State.again_fns (s : State) : (s.again).fns = s.fns := by unfold State.again; split <;> rfl
@[simp] theorem State.again_parts (s : State) : (s.again).parts = s.parts := by unfold State.again; split <;> rfl
@[simp] theorem State.again_lent (s : State) : (s.again).lent = s.lent := by unfold State.again; split <;> rfl
@[simp] theorem State.again_reclaim (s : State) : (s.again).reclaim = s.reclaim := by unfold State.again; split <;> rfl
@[simp] theorem State.again_clk (s : State) : (s.again).clk = s.clk := by unfold State.again; split <;> rfl
@[simp] theorem State.again_clkPend (s : State) : (s.again).clkPend = s.clkPend := by unfold State.again; split <;> rfl
@[simp] theorem State.again_queues (s : State) : (s.again).queues = s.queues := by unfold State.again; split <;> rfl
@[simp] theorem State.again_ctxs (s : State) : (s.again).ctxs = s.ctxs := by unfold State.again; split <;> rfl
@[simp] theorem State.again_launches (s : State) : (s.again).launches = s.launches := by unfold State.again; split <;> rfl
@[simp] theorem State.again_stands (s : State) : (s.again).stands = s.stands := by unfold State.again; split <;> rfl
@[simp] theorem State.again_outs (s : State) : (s.again).outs = s.outs := by unfold State.again; split <;> rfl
@[simp] theorem State.again_returning (s : State) : (s.again).returning = s.returning := by unfold State.again; split <;> rfl
@[simp] theorem State.again_switches (s : State) : (s.again).switches = s.switches := by unfold State.again; split <;> rfl
@[simp] theorem State.again_resident (s : State) : (s.again).resident = s.resident := by unfold State.again; split <;> rfl
@[simp] theorem State.again_pct (s : State) : (s.again).pct = s.pct := by unfold State.again; split <;> rfl
@[simp] theorem State.again_pcache (s : State) : (s.again).pcache = s.pcache := by unfold State.again; split <;> rfl
@[simp] theorem State.again_brand (s : State) : (s.again).brand = s.brand := by unfold State.again; split <;> rfl
@[simp] theorem State.again_misses (s : State) : (s.again).misses = s.misses := by unfold State.again; split <;> rfl
@[simp] theorem State.again_fills (s : State) : (s.again).fills = s.fills := by unfold State.again; split <;> rfl
@[simp] theorem State.again_teams (s : State) : (s.again).teams = s.teams := by unfold State.again; split <;> rfl
@[simp] theorem State.again_joins (s : State) : (s.again).joins = s.joins := by unfold State.again; split <;> rfl
@[simp] theorem State.again_mem (s : State) : (s.again).mem = s.mem := by unfold State.again; split <;> rfl
@[simp] theorem State.again_tier (s : State) : (s.again).tier = s.tier := by unfold State.again; split <;> rfl
@[simp] theorem State.again_hostMem (s : State) : (s.again).hostMem = s.hostMem := by unfold State.again; split <;> rfl
@[simp] theorem State.again_dsh (s : State) : (s.again).dsh = s.dsh := by unfold State.again; split <;> rfl
@[simp] theorem State.again_scr (s : State) : (s.again).scr = s.scr := by unfold State.again; split <;> rfl
@[simp] theorem State.again_l1 (s : State) : (s.again).l1 = s.l1 := by unfold State.again; split <;> rfl
@[simp] theorem State.again_sec (s : State) : (s.again).sec = s.sec := by unfold State.again; split <;> rfl
@[simp] theorem State.again_l2 (s : State) : (s.again).l2 = s.l2 := by unfold State.again; split <;> rfl
@[simp] theorem State.again_poison (s : State) : (s.again).poison = s.poison := by unfold State.again; split <;> rfl
@[simp] theorem State.again_tlb (s : State) : (s.again).tlb = s.tlb := by unfold State.again; split <;> rfl
@[simp] theorem State.again_tcache (s : State) : (s.again).tcache = s.tcache := by unfold State.again; split <;> rfl
@[simp] theorem State.again_owners (s : State) : (s.again).owners = s.owners := by unfold State.again; split <;> rfl
@[simp] theorem State.again_holds (s : State) : (s.again).holds = s.holds := by unfold State.again; split <;> rfl
@[simp] theorem State.again_reqs (s : State) : (s.again).reqs = s.reqs := by unfold State.again; split <;> rfl
@[simp] theorem State.again_ops (s : State) : (s.again).ops = s.ops := by unfold State.again; split <;> rfl
@[simp] theorem State.again_cpys (s : State) : (s.again).cpys = s.cpys := by unfold State.again; split <;> rfl
@[simp] theorem State.again_walks (s : State) : (s.again).walks = s.walks := by unfold State.again; split <;> rfl
@[simp] theorem State.again_rounds (s : State) : (s.again).rounds = s.rounds := by unfold State.again; split <;> rfl
@[simp] theorem State.again_ordRecs (s : State) : (s.again).ordRecs = s.ordRecs := by unfold State.again; split <;> rfl
@[simp] theorem State.again_samples (s : State) : (s.again).samples = s.samples := by unfold State.again; split <;> rfl
@[simp] theorem State.again_inbox (s : State) : (s.again).inbox = s.inbox := by unfold State.again; split <;> rfl
@[simp] theorem State.again_outbox (s : State) : (s.again).outbox = s.outbox := by unfold State.again; split <;> rfl
@[simp] theorem State.again_turn (s : State) : (s.again).turn = s.turn := by unfold State.again; split <;> rfl
@[simp] theorem State.again_fresh (s : State) : (s.again).fresh = s.fresh := by unfold State.again; split <;> rfl
@[simp] theorem State.again_seq (s : State) : (s.again).seq = s.seq := by unfold State.again; split <;> rfl

/-! count -/

@[simp] theorem State.count_now (s : State) (g c ev n : Nat) : (s.count g c ev n).now = s.now := by unfold State.count; split <;> rfl
@[simp] theorem State.count_fort (s : State) (g c ev n : Nat) : (s.count g c ev n).fort = s.fort := by unfold State.count; split <;> rfl
@[simp] theorem State.count_forts (s : State) (g c ev n : Nat) : (s.count g c ev n).forts = s.forts := by unfold State.count; split <;> rfl
@[simp] theorem State.count_rr (s : State) (g c ev n : Nat) : (s.count g c ev n).rr = s.rr := by unfold State.count; split <;> rfl
@[simp] theorem State.count_lru (s : State) (g c ev n : Nat) : (s.count g c ev n).lru = s.lru := by unfold State.count; split <;> rfl
@[simp] theorem State.count_cyc (s : State) (g c ev n : Nat) : (s.count g c ev n).cyc = s.cyc := by unfold State.count; split <;> rfl
@[simp] theorem State.count_pkg (s : State) (g c ev n : Nat) : (s.count g c ev n).pkg = s.pkg := by unfold State.count; split <;> rfl
@[simp] theorem State.count_fns (s : State) (g c ev n : Nat) : (s.count g c ev n).fns = s.fns := by unfold State.count; split <;> rfl
@[simp] theorem State.count_parts (s : State) (g c ev n : Nat) : (s.count g c ev n).parts = s.parts := by unfold State.count; split <;> rfl
@[simp] theorem State.count_lent (s : State) (g c ev n : Nat) : (s.count g c ev n).lent = s.lent := by unfold State.count; split <;> rfl
@[simp] theorem State.count_reclaim (s : State) (g c ev n : Nat) : (s.count g c ev n).reclaim = s.reclaim := by unfold State.count; split <;> rfl
@[simp] theorem State.count_clk (s : State) (g c ev n : Nat) : (s.count g c ev n).clk = s.clk := by unfold State.count; split <;> rfl
@[simp] theorem State.count_clkPend (s : State) (g c ev n : Nat) : (s.count g c ev n).clkPend = s.clkPend := by unfold State.count; split <;> rfl
@[simp] theorem State.count_queues (s : State) (g c ev n : Nat) : (s.count g c ev n).queues = s.queues := by unfold State.count; split <;> rfl
@[simp] theorem State.count_ctxs (s : State) (g c ev n : Nat) : (s.count g c ev n).ctxs = s.ctxs := by unfold State.count; split <;> rfl
@[simp] theorem State.count_launches (s : State) (g c ev n : Nat) : (s.count g c ev n).launches = s.launches := by unfold State.count; split <;> rfl
@[simp] theorem State.count_stands (s : State) (g c ev n : Nat) : (s.count g c ev n).stands = s.stands := by unfold State.count; split <;> rfl
@[simp] theorem State.count_outs (s : State) (g c ev n : Nat) : (s.count g c ev n).outs = s.outs := by unfold State.count; split <;> rfl
@[simp] theorem State.count_returning (s : State) (g c ev n : Nat) : (s.count g c ev n).returning = s.returning := by unfold State.count; split <;> rfl
@[simp] theorem State.count_switches (s : State) (g c ev n : Nat) : (s.count g c ev n).switches = s.switches := by unfold State.count; split <;> rfl
@[simp] theorem State.count_resident (s : State) (g c ev n : Nat) : (s.count g c ev n).resident = s.resident := by unfold State.count; split <;> rfl
@[simp] theorem State.count_pct (s : State) (g c ev n : Nat) : (s.count g c ev n).pct = s.pct := by unfold State.count; split <;> rfl
@[simp] theorem State.count_pcache (s : State) (g c ev n : Nat) : (s.count g c ev n).pcache = s.pcache := by unfold State.count; split <;> rfl
@[simp] theorem State.count_brand (s : State) (g c ev n : Nat) : (s.count g c ev n).brand = s.brand := by unfold State.count; split <;> rfl
@[simp] theorem State.count_misses (s : State) (g c ev n : Nat) : (s.count g c ev n).misses = s.misses := by unfold State.count; split <;> rfl
@[simp] theorem State.count_fills (s : State) (g c ev n : Nat) : (s.count g c ev n).fills = s.fills := by unfold State.count; split <;> rfl
@[simp] theorem State.count_issue (s : State) (g c ev n : Nat) : (s.count g c ev n).issue = s.issue := by unfold State.count; split <;> rfl
@[simp] theorem State.count_teams (s : State) (g c ev n : Nat) : (s.count g c ev n).teams = s.teams := by unfold State.count; split <;> rfl
@[simp] theorem State.count_joins (s : State) (g c ev n : Nat) : (s.count g c ev n).joins = s.joins := by unfold State.count; split <;> rfl
@[simp] theorem State.count_mem (s : State) (g c ev n : Nat) : (s.count g c ev n).mem = s.mem := by unfold State.count; split <;> rfl
@[simp] theorem State.count_tier (s : State) (g c ev n : Nat) : (s.count g c ev n).tier = s.tier := by unfold State.count; split <;> rfl
@[simp] theorem State.count_hostMem (s : State) (g c ev n : Nat) : (s.count g c ev n).hostMem = s.hostMem := by unfold State.count; split <;> rfl
@[simp] theorem State.count_dsh (s : State) (g c ev n : Nat) : (s.count g c ev n).dsh = s.dsh := by unfold State.count; split <;> rfl
@[simp] theorem State.count_scr (s : State) (g c ev n : Nat) : (s.count g c ev n).scr = s.scr := by unfold State.count; split <;> rfl
@[simp] theorem State.count_l1 (s : State) (g c ev n : Nat) : (s.count g c ev n).l1 = s.l1 := by unfold State.count; split <;> rfl
@[simp] theorem State.count_sec (s : State) (g c ev n : Nat) : (s.count g c ev n).sec = s.sec := by unfold State.count; split <;> rfl
@[simp] theorem State.count_l2 (s : State) (g c ev n : Nat) : (s.count g c ev n).l2 = s.l2 := by unfold State.count; split <;> rfl
@[simp] theorem State.count_poison (s : State) (g c ev n : Nat) : (s.count g c ev n).poison = s.poison := by unfold State.count; split <;> rfl
@[simp] theorem State.count_tlb (s : State) (g c ev n : Nat) : (s.count g c ev n).tlb = s.tlb := by unfold State.count; split <;> rfl
@[simp] theorem State.count_tcache (s : State) (g c ev n : Nat) : (s.count g c ev n).tcache = s.tcache := by unfold State.count; split <;> rfl
@[simp] theorem State.count_owners (s : State) (g c ev n : Nat) : (s.count g c ev n).owners = s.owners := by unfold State.count; split <;> rfl
@[simp] theorem State.count_holds (s : State) (g c ev n : Nat) : (s.count g c ev n).holds = s.holds := by unfold State.count; split <;> rfl
@[simp] theorem State.count_reqs (s : State) (g c ev n : Nat) : (s.count g c ev n).reqs = s.reqs := by unfold State.count; split <;> rfl
@[simp] theorem State.count_ops (s : State) (g c ev n : Nat) : (s.count g c ev n).ops = s.ops := by unfold State.count; split <;> rfl
@[simp] theorem State.count_cpys (s : State) (g c ev n : Nat) : (s.count g c ev n).cpys = s.cpys := by unfold State.count; split <;> rfl
@[simp] theorem State.count_walks (s : State) (g c ev n : Nat) : (s.count g c ev n).walks = s.walks := by unfold State.count; split <;> rfl
@[simp] theorem State.count_rounds (s : State) (g c ev n : Nat) : (s.count g c ev n).rounds = s.rounds := by unfold State.count; split <;> rfl
@[simp] theorem State.count_ordRecs (s : State) (g c ev n : Nat) : (s.count g c ev n).ordRecs = s.ordRecs := by unfold State.count; split <;> rfl
@[simp] theorem State.count_samples (s : State) (g c ev n : Nat) : (s.count g c ev n).samples = s.samples := by unfold State.count; split <;> rfl
@[simp] theorem State.count_inbox (s : State) (g c ev n : Nat) : (s.count g c ev n).inbox = s.inbox := by unfold State.count; split <;> rfl
@[simp] theorem State.count_outbox (s : State) (g c ev n : Nat) : (s.count g c ev n).outbox = s.outbox := by unfold State.count; split <;> rfl
@[simp] theorem State.count_turn (s : State) (g c ev n : Nat) : (s.count g c ev n).turn = s.turn := by unfold State.count; split <;> rfl
@[simp] theorem State.count_fresh (s : State) (g c ev n : Nat) : (s.count g c ev n).fresh = s.fresh := by unfold State.count; split <;> rfl
@[simp] theorem State.count_seq (s : State) (g c ev n : Nat) : (s.count g c ev n).seq = s.seq := by unfold State.count; split <;> rfl

/-! Reading a stand, a launch, a team after an update -/

@[simp] theorem State.stand_setStand (s : State) (key j : Nat) (st : Stand) :
    (s.setStand key st).stand j = if j = key then some st else s.stand j := Store.find_put key j st s.stands
@[simp] theorem State.stand_onStand (s : State) (key j : Nat) (f : Stand → Stand) :
    (s.onStand key f).stand j = if j = key then (s.stand key).map f else s.stand j := Store.find_adjust key j f s.stands
@[simp] theorem State.launch_onLaunch (s : State) (k j : Nat) (f : Launch → Launch) :
    (s.onLaunch k f).launch j = if j = k then (s.launch k).map f else s.launch j := Store.find_adjust k j f s.launches
@[simp] theorem State.team_onTeam (s : State) (k j : Nat) (f : Team → Team) :
    (s.onTeam k f).team j = if j = k then (s.team k).map f else s.team j := Store.find_adjust k j f s.teams
@[simp] theorem State.launch_setStand (s : State) (key j : Nat) (st : Stand) : (s.setStand key st).launch j = s.launch j := rfl
@[simp] theorem State.launch_onStand (s : State) (key j : Nat) (f : Stand → Stand) : (s.onStand key f).launch j = s.launch j := rfl
@[simp] theorem State.stand_onLaunch (s : State) (k j : Nat) (f : Launch → Launch) : (s.onLaunch k f).stand j = s.stand j := rfl
@[simp] theorem State.stand_dropLanes (s : State) (key j : Nat) (hdl : Bool) (q : W) : (s.dropLanes key hdl q).stand j = s.stand j := rfl
@[simp] theorem State.launch_dropLanes (s : State) (key j : Nat) (hdl : Bool) (q : W) : (s.dropLanes key hdl q).launch j = s.launch j := rfl
@[simp] theorem State.stand_count (s : State) (g c ev n j : Nat) : (s.count g c ev n).stand j = s.stand j := by simp [State.stand]
@[simp] theorem State.launch_count (s : State) (g c ev n j : Nat) : (s.count g c ev n).launch j = s.launch j := by simp [State.launch]

end Sys2Proof.Machine
end

