-- ==== Sys2Proof/Laws/Squad.lean ====
section
/-! SUPPORT. What a slot of a squad does to the stands that take part: one lemma for every instruction that works within the registers of a stand (06 R140, R144). -/
namespace Sys2Proof.Machine

/-! Environments -/

theorem standKey_inj {g a b : Nat} (ha : a < 32) (hb : b < 32) (h : standKey g a = standKey g b) : a = b := by
  simp only [standKey, ha, hb, if_true] at h; omega
theorem standKey_div {g a : Nat} (ha : a < 32) : standKey g a / 32 = g := by simp only [standKey, ha, if_true]; omega

theorem env_spec {s : State} {sq : Squad} {m : Nat × W} {e : Env} (h : s.env sq m = some e) :
    e.sq = sq ∧ e.slot = m.1 ∧ e.key = standKey sq.g m.1 ∧ e.m = m.2 ∧ s.stand e.key = some e.raw ∧ s.launch sq.launch = some e.l ∧
      e.st = e.raw.seen sq.hdl ∧ e.q = m.2 &&& e.st.guard sq.ctrl sq.k := by
  unfold State.env at h
  split at h
  · cases h; exact ⟨rfl, rfl, rfl, rfl, by assumption, by assumption, rfl, rfl⟩
  · cases h

/-- The environment of a member depends on its own stand and on its launch alone. -/
theorem env_congr {s t : State} {sq : Squad} {m : Nat × W} (h1 : t.stand (standKey sq.g m.1) = s.stand (standKey sq.g m.1))
    (h2 : t.launch sq.launch = s.launch sq.launch) : t.env sq m = s.env sq m := by
  unfold State.env; rw [h1, h2]

theorem each_cons {s : State} {sq : Squad} {rest : List Squad} (f : Env → State → State) (h : s.issue = sq :: rest) :
    s.each f = sq.mem.foldl (fun s m => match s.env sq m with | some e => if e.q = 0 then s else f e s | none => s) s := by
  unfold State.each; split
  · rename_i hn; rw [hn] at h; cases h
  · rename_i hc; rw [hc] at h; cases h; rfl

/-! Granules of a stand and of the pool (R141) -/

theorem foldl_add (l : List Nat) (a : Nat) : l.foldl (· + ·) a = a + l.sum := by
  induction l generalizing a with
  | nil => rfl
  | cons x t ih => simp only [List.foldl_cons, ih, List.sum_cons]; omega

theorem sum_mapIdx_set (v : List VReg) (d : Nat) (r : VReg) (f : Nat → VReg → Nat) (hf : ∀ i r, f i r ≤ 16) :
    ((v.set d r).mapIdx f).sum ≤ (v.mapIdx f).sum + 16 := by
  induction v generalizing d f with
  | nil => simp
  | cons x t ih =>
    cases d with
    | zero =>
      simp only [List.set_cons_zero, List.mapIdx_cons, List.sum_cons]
      have := hf 0 r
      omega
    | succ k =>
      simp only [List.set_cons_succ, List.mapIdx_cons, List.sum_cons]
      have := ih k (fun i => f (i + 1)) (fun i r => hf (i + 1) r)
      omega

/-- A register that changes its shape takes at most 16 granules more. -/
theorem hold_set (st : Stand) (d : Nat) (r : VReg) : Stand.hold { st with v := st.v.set d r } ≤ st.hold + 16 := by
  unfold Stand.hold
  cases st.place with
  | spilled => simp
  | resident =>
    simp only [foldl_add, Nat.zero_add]
    exact sum_mapIdx_set st.v d r _ (fun i r => by split <;> simp [gran_le])

/-- Granules that a write to what a squad's code sees can take: as many as the write itself takes, or none in a handler in mode 0. -/
theorem hold_back (raw : Stand) (hdl : Bool) (w : Stand) (n : Nat) (h : w.hold ≤ (raw.seen hdl).hold + n) :
    (raw.back hdl w).hold ≤ raw.hold + n := by
  unfold Stand.back Stand.seen at *
  cases hh : raw.h with
  | none => simp only [hh] at h ⊢; exact h
  | some x =>
    simp only [hh] at h ⊢
    split
    · exact Nat.le_add_right raw.hold n
    · rename_i hc; rw [if_neg hc] at h; exact h

theorem back_grant (raw : Stand) (hdl : Bool) (w : Stand) (h : w.grant = (raw.seen hdl).grant) : (raw.back hdl w).grant = raw.grant := by
  unfold Stand.back Stand.seen at *
  cases hh : raw.h with
  | none => simp only [hh] at h ⊢; exact h
  | some x =>
    simp only [hh] at h ⊢
    split
    · rfl
    · rename_i hc; rw [if_neg hc] at h; exact h
/-- Spending what is kept for a stand changes nothing that it holds. -/
theorem spent_hold (st old : Stand) (q : W) : (st.spent old q).hold = st.hold := by
  unfold Stand.spent; split
  · rfl
  · split <;> rfl
theorem spent_grant (st old : Stand) (q : W) : (st.spent old q).grant.1 ≤ st.grant.1 := by
  unfold Stand.spent; split
  · exact Nat.le_refl _
  · split
    · exact Nat.zero_le _
    · exact Nat.le_refl _

theorem sum_hold_put (s : Store Stand) (key g : Nat) (old w : Stand) (h : Store.find key s = some old) (n : Nat) (hw : w.hold + w.grant.1 ≤ old.hold + old.grant.1 + n) :
    (((Store.put key w s).filter fun e => decide (e.1 / 32 = g)).map fun e => e.2.hold + e.2.grant.1).sum
      ≤ ((s.filter fun e => decide (e.1 / 32 = g)).map fun e => e.2.hold + e.2.grant.1).sum + n := by
  induction s with
  | nil => cases h
  | cons c t ih =>
    obtain ⟨k', v'⟩ := c
    simp only [Store.find] at h
    simp only [Store.put]
    split at h
    · rename_i hk
      subst hk
      cases h
      simp only [Nat.lt_irrefl, if_false, if_true, List.filter_cons]
      split <;> simp_all; omega
    · split at h
      · cases h
      · rename_i h1 h2
        simp only [h1, h2, if_false, List.filter_cons]
        have := ih h
        split
        · simp only [List.map_cons, List.sum_cons]; omega
        · exact this

/-- A stand's write takes from the pool no more than it adds to the stand. -/
theorem freePool_setStand (s : State) (key g : Nat) (old w : Stand) (h : s.stand key = some old) (n : Nat) (hw : w.hold + w.grant.1 ≤ old.hold + old.grant.1 + n) :
    s.freePool g ≤ (s.setStand key w).freePool g + n := by
  unfold State.freePool State.standsOn
  simp only [State.setStand_stands, State.setStand_outs, foldl_add, Nat.zero_add]
  have := sum_hold_put s.stands key g old w h n hw
  omega

/-! Counters -/

theorem count_same (s : State) (g c ev n : Nat) : ∃ pmc, s.count g c ev n = { s with regs := { s.regs with pmc := pmc } } := by
  unfold State.count
  split
  · exact ⟨s.regs.pmc, rfl⟩
  · unfold PfRegs.count
    split
    · exact ⟨s.regs.pmc, rfl⟩
    · simp only
      split
      · exact ⟨s.regs.pmc, rfl⟩
      · exact ⟨_, rfl⟩
theorem countScalar_same (s : State) (e : Env) (i : Instr) : ∃ pmc, s.countScalar e i = { s with regs := { s.regs with pmc := pmc } } := by
  unfold State.countScalar
  split
  · exact ⟨s.regs.pmc, rfl⟩
  · split
    · exact ⟨s.regs.pmc, rfl⟩
    · exact count_same _ _ _ _ _

theorem SameOutside.refl (s : State) : SameOutside s s := ⟨s.stands, s.regs.pmc, rfl⟩
theorem SameOutside.trans {s t u : State} (h : SameOutside s t) (k : SameOutside t u) : SameOutside s u := by
  obtain ⟨a, b, rfl⟩ := h
  obtain ⟨c, d, rfl⟩ := k
  exact ⟨c, d, rfl⟩

/-- One stand's part of an instruction that works within registers: its new registers are in place, and nothing waits. -/
theorem commit_spec (s : State) (e : Env) (i : Instr) (w : Stand) (n : Nat) (h : s.stand e.key = some e.raw)
    (hs : e.st = e.raw.seen e.sq.hdl) (hw : w.hold ≤ e.st.hold + n) (hp : n ≤ s.freePool e.sq.g) :
    ∃ pmc, (s.commit e w []).countScalar e i = { s.setStand e.key ((e.raw.back e.sq.hdl w).spent e.raw e.q) with regs := { s.regs with pmc := pmc } } := by
  have hb := hold_back e.raw e.sq.hdl w n (by rw [← hs]; exact hw)
  have hc : s.commit e w [] = s.setStand e.key ((e.raw.back e.sq.hdl w).spent e.raw e.q) := by
    have hl : s.lacks e.sq.g e.raw (e.raw.back e.sq.hdl w) = false := decide_eq_false (by omega)
    simp only [State.commit, hl, Bool.false_eq_true, if_false]
    rfl
  rw [hc]
  obtain ⟨pmc, hk⟩ := countScalar_same (s.setStand e.key ((e.raw.back e.sq.hdl w).spent e.raw e.q)) e i
  exact ⟨pmc, hk⟩

/-- The stands of a squad change one after another, each as the slot found it. -/
theorem fold_members (s : State) (sq : Squad) (n : Nat) (f : Env → State → State) (w : Env → Stand)
    (hf : ∀ e t, Takes s sq e → t.stand e.key = some e.raw → n ≤ t.freePool sq.g → SameOutside s t →
      ∃ pmc, f e t = { t.setStand e.key (w e) with regs := { t.regs with pmc := pmc } })
    (hg : ∀ e, Takes s sq e → (w e).hold + (w e).grant.1 ≤ e.raw.hold + e.raw.grant.1 + n)
    (mem : List (Nat × W)) (hsub : ∀ m ∈ mem, m ∈ sq.mem) (hn : (mem.map fun m => m.1).Nodup) (h32 : ∀ m ∈ mem, m.1 < 32)
    (t : State) (ht : SameOutside s t) (hst : ∀ m ∈ mem, t.stand (standKey sq.g m.1) = s.stand (standKey sq.g m.1))
    (hp : n * mem.length ≤ t.freePool sq.g) :
    let u := mem.foldl (fun s m => match s.env sq m with | some e => if e.q = 0 then s else f e s | none => s) t
    SameOutside s u ∧ (∀ m ∈ mem, ∀ e, s.env sq m = some e → e.q ≠ 0 → u.stand e.key = some (w e)) ∧
      (∀ key, (∀ m ∈ mem, ∀ e, s.env sq m = some e → e.q ≠ 0 → e.key ≠ key) → u.stand key = t.stand key) := by
  induction mem generalizing t with
  | nil => exact ⟨ht, by simp, fun _ _ => rfl⟩
  | cons m ms ih =>
    simp only [List.foldl_cons]
    simp only [List.map_cons, List.nodup_cons] at hn
    have hl : t.launch sq.launch = s.launch sq.launch := by
      obtain ⟨a, b, rfl⟩ := ht; rfl
    rw [env_congr (hst m List.mem_cons_self) hl]
    have hlen : n * (m :: ms).length = n * ms.length + n := by simp [Nat.mul_add]
    have hne : ∀ k ∈ ms, standKey sq.g k.1 ≠ standKey sq.g m.1 := fun k hk e =>
      hn.1 (List.mem_map.2 ⟨k, hk, standKey_inj (h32 k (List.mem_cons_of_mem _ hk)) (h32 m List.mem_cons_self) e⟩)
    cases he : s.env sq m with
    | none =>
      obtain ⟨h1, h2, h3⟩ := ih (fun k hk => hsub k (List.mem_cons_of_mem _ hk)) hn.2 (fun k hk => h32 k (List.mem_cons_of_mem _ hk)) t ht
        (fun k hk => hst k (List.mem_cons_of_mem _ hk)) (by omega)
      refine ⟨h1, ?_, ?_⟩
      · intro k hk e hke hq
        rcases List.mem_cons.1 hk with rfl | hk
        · rw [he] at hke; cases hke
        · exact h2 k hk e hke hq
      · intro key hkey
        exact h3 key (fun k hk => hkey k (List.mem_cons_of_mem _ hk))
    | some e =>
      simp only
      by_cases hq : e.q = 0
      · rw [if_pos hq]
        obtain ⟨h1, h2, h3⟩ := ih (fun k hk => hsub k (List.mem_cons_of_mem _ hk)) hn.2 (fun k hk => h32 k (List.mem_cons_of_mem _ hk)) t ht
          (fun k hk => hst k (List.mem_cons_of_mem _ hk)) (by omega)
        refine ⟨h1, ?_, ?_⟩
        · intro k hk e' hke hq'
          rcases List.mem_cons.1 hk with rfl | hk
          · rw [he] at hke; cases hke; exact absurd hq hq'
          · exact h2 k hk e' hke hq'
        · intro key hkey
          exact h3 key (fun k hk => hkey k (List.mem_cons_of_mem _ hk))
      · rw [if_neg hq]
        obtain ⟨hsq, -, hk, -, hraw, -, -, -⟩ := env_spec he
        have htk : Takes s sq e := ⟨m, hsub m List.mem_cons_self, he, hq⟩
        have hraw' : t.stand e.key = some e.raw := by rw [← hraw, hk]; exact hst m List.mem_cons_self
        obtain ⟨pmc, hfe⟩ := hf e t htk hraw' (by omega) ht
        have hfp := freePool_setStand t e.key sq.g e.raw (w e) hraw' n (hg e htk)
        obtain ⟨h1, h2, h3⟩ := ih (fun k hk => hsub k (List.mem_cons_of_mem _ hk)) hn.2 (fun k hk => h32 k (List.mem_cons_of_mem _ hk)) (f e t)
          (ht.trans (by rw [hfe]; exact ⟨_, pmc, rfl⟩))
          (fun k hk' => by
            rw [hfe, ← hst k (List.mem_cons_of_mem _ hk')]
            show (t.setStand e.key (w e)).stand _ = _
            rw [State.stand_setStand, if_neg (by rw [hk]; exact hne k hk')])
          (by
            rw [hfe]
            show n * ms.length ≤ (t.setStand e.key (w e)).freePool sq.g
            omega)
        refine ⟨h1, ?_, ?_⟩
        · intro k hk' e' hke hq'
          rcases List.mem_cons.1 hk' with rfl | hk'
          · rw [he] at hke; cases hke
            rw [h3 e.key ?_, hfe]
            · show (t.setStand e.key (w e)).stand _ = _
              rw [State.stand_setStand, if_pos rfl]
            · intro k hk2 e2 he2 _
              rw [(env_spec he2).2.2.1, hk]; exact hne k hk2
          · exact h2 k hk' e' hke hq'
        · intro key hkey
          rw [h3 key (fun k hk => hkey k (List.mem_cons_of_mem _ hk)), hfe]
          show (t.setStand e.key (w e)).stand _ = _
          rw [State.stand_setStand, if_neg (fun x => hkey m List.mem_cons_self e he hq x.symm)]

/-- What an instruction that works within registers does, when nothing makes it wait and no lane raises a cause. -/
theorem regOp_does (s : State) (sq : Squad) (i : Instr) (body : Body) (n : Nat) (hx : Executes s sq) (hc : Clear s sq i n)
    (hr : ∀ e, Takes s sq e → (body e).2 = []) (hw : ∀ e, Takes s sq e → (body e).1.hold ≤ e.st.hold + n)
    (hgr : ∀ e, Takes s sq e → (body e).1.grant = e.st.grant := by intros; rfl) :
    ∃ t, regOp i body s = .next t ∧ Does s sq t fun e w => w = (body e).1 := by
  refine ⟨_, rfl, ?_⟩
  obtain ⟨hi, hnd, h32⟩ := hx
  cases hs : s.issue with
  | nil => rw [hs] at hi; cases hi
  | cons q rest =>
    rw [hs] at hi
    simp only [List.head?_cons, Option.some.injEq] at hi
    subst hi
    unfold State.on
    rw [each_cons _ hs]
    have key := fold_members s q n
      (fun e s => if e.shut i then s.take e.key true e.sq.launch (e.delivery 0 0 6 .here (raiseAll e.q 6))
        else if (e.raw.outRegs i.regs).isEmpty then (s.commit e (body e).1 (body e).2).countScalar e i
        else s.parkGran e 0 (e.raw.outRegs i.regs))
      (fun e => (e.raw.back q.hdl (body e).1).spent e.raw e.q)
      (by
        intro e t he ht hp _
        obtain ⟨h1, h2⟩ := hc.2 e he
        have hr' := hr e he
        obtain ⟨m, -, hm, -⟩ := id he
        have hs := env_spec hm
        simp only [h1, h2, hr']
        simp only [Bool.false_eq_true, if_false, List.isEmpty_nil, if_true]
        have := commit_spec t e i (body e).1 n ht (by rw [hs.1]; exact hs.2.2.2.2.2.2.1) (hw e he) (by rw [hs.1]; exact hp)
        rw [hs.1] at this
        exact this)
      (by
        intro e he
        obtain ⟨m, -, hm, -⟩ := id he
        have hs := env_spec hm
        have h1 := hold_back e.raw q.hdl (body e).1 n (by rw [← hs.2.2.2.2.2.2.1]; exact hw e he)
        have h2 := back_grant e.raw q.hdl (body e).1 (by rw [← hs.2.2.2.2.2.2.1]; exact hgr e he)
        have h3 := spent_grant (e.raw.back q.hdl (body e).1) e.raw e.q
        rw [h2] at h3
        rw [spent_hold]
        omega)
      q.mem (fun _ h => h) hnd h32 s (SameOutside.refl s) (fun _ _ => rfl) hc.1
    obtain ⟨k1, k2, k3⟩ := key
    refine ⟨k1, ?_, ?_⟩
    · rintro e ⟨m, hm, he, hq⟩
      exact ⟨(body e).1, k2 m hm e he hq, rfl⟩
    · intro key hk
      exact k3 key (fun m hm e he hq => hk e ⟨m, hm, he, hq⟩)

/-- A weaker description. -/
theorem Does.weaken {s : State} {sq : Squad} {t : State} {P Q : Env → Stand → Prop} (h : Does s sq t P) (k : ∀ e w, Takes s sq e → P e w → Q e w) :
    Does s sq t Q :=
  ⟨h.1, fun e he => (h.2.1 e he).imp fun w hw => ⟨hw.1, k e w he hw.2⟩, h.2.2⟩

end Sys2Proof.Machine
end

