-- ==== Sys2Proof/Laws/Moves.lean ====
section
/-! SUPPORT. Slots that send their participants elsewhere: the threads change, the lanes leave the squad (07 R169, 06 R128). -/
namespace Sys2Proof.Machine

/-! Lanes that leave squads -/

theorem drop_drop (key : Nat) (hdl : Bool) (a b : W) (sq : Squad) : Squad.drop key hdl b (Squad.drop key hdl a sq) = Squad.drop key hdl (a ||| b) sq := by
  unfold Squad.drop
  by_cases h : sq.hdl = hdl ∧ sq.g = gOf key
  · rw [if_pos h, if_pos h, if_pos h]
    simp only [Squad.mk.injEq, true_and, and_true]
    induction sq.mem with
    | nil => rfl
    | cons m t ih =>
      simp only [List.map_cons, List.filter_cons]
      by_cases hm : m.1 = slotOf key
      · simp only [hm, if_true]
        have hab : m.2 &&& ~~~(a ||| b) = m.2 &&& ~~~a &&& ~~~b := by
          apply mask_ext; intro l hl
          simp only [inMask_and, inMask_not hl, inMask_or, Bool.not_or, Bool.and_assoc]
        by_cases h1 : m.2 &&& ~~~a = 0
        · have h2 : m.2 &&& ~~~(a ||| b) = 0 := by rw [hab, h1]; simp
          simp only [h1, h2, ne_eq, not_true_eq_false, decide_false, Bool.false_eq_true, if_false]
          exact ih
        · simp only [ne_eq, h1, not_false_eq_true, decide_true, if_true, List.map_cons, List.filter_cons, hab, ih]
      · simp only [hm, if_false]
        by_cases h1 : m.2 = 0
        · simp only [h1, ne_eq, not_true_eq_false, decide_false, Bool.false_eq_true, if_false]
          exact ih
        · simp only [ne_eq, h1, not_false_eq_true, decide_true, if_true, List.map_cons, List.filter_cons, hm, if_false, ih]
  · rw [if_neg h, if_neg h, if_neg h]

/-- Lanes that leave one after another leave together. -/
theorem foldl_drop (key : Nat) (hdl : Bool) (ls : List Nat) (a : W) (is : List Squad) :
    ls.foldl (fun is l => is.map (Squad.drop key hdl (bit l))) (is.map (Squad.drop key hdl a)) = is.map (Squad.drop key hdl (ls.foldl (fun m l => m ||| bit l) a)) := by
  induction ls generalizing a with
  | nil => rfl
  | cons l t ih =>
    simp only [List.foldl_cons]
    rw [List.map_map]
    have : (Squad.drop key hdl (bit l) ∘ Squad.drop key hdl a) = Squad.drop key hdl (a ||| bit l) := by
      funext sq; exact drop_drop key hdl a (bit l) sq
    rw [this, ih]

theorem maskOf_lanesOf (q : W) : maskOf (lanesOf q) = q := by
  apply mask_ext; intro l hl
  rw [inMask_maskOf _ (fun x hx => inMask_lt (mem_lanesOf.1 hx))]
  by_cases h : inMask q l = true
  · simp [mem_lanesOf, h]
  · simp [mem_lanesOf, h]

theorem lanesOf_ne_nil {q : W} (h : q ≠ 0) : lanesOf q ≠ [] := by
  intro hn
  apply h
  have := maskOf_lanesOf q
  rw [hn] at this
  exact this.symm

/-- The lanes of a mask that is not empty, one after another. -/
theorem foldl_drop_lanes (key : Nat) (hdl : Bool) (q : W) (hq : q ≠ 0) (is : List Squad) :
    (lanesOf q).foldl (fun is l => is.map (Squad.drop key hdl (bit l))) is = is.map (Squad.drop key hdl q) := by
  have hm := maskOf_lanesOf q
  cases h : lanesOf q with
  | nil => exact absurd h (lanesOf_ne_nil hq)
  | cons l t =>
    rw [h] at hm
    simp only [List.foldl_cons]
    rw [foldl_drop]
    rw [← hm]
    simp [maskOf]

theorem lanesOf_bit {l : Nat} (h : l < 32) : lanesOf (bit l) = [l] :=
  (by decide : ∀ l, l < 32 → lanesOf (bit l) = [l]) l h

/-! One stand -/

theorem onStand_eq (s : State) (key : Nat) (f : Stand → Stand) (st : Stand) (h : s.stand key = some st) : s.onStand key f = s.setStand key (f st) := by
  unfold State.onStand State.setStand
  rw [Store.adjust_eq_put key f st s.stands h]
theorem onStand_onStand (s : State) (key : Nat) (f g : Stand → Stand) (st : Stand) (h : s.stand key = some st) :
    (s.onStand key f).onStand key g = s.onStand key fun x => g (f x) := by
  rw [onStand_eq _ key g (f st) (by rw [State.stand_onStand, if_pos rfl, h]; rfl), onStand_eq s key f st h, onStand_eq s key _ st h]
  unfold State.setStand
  simp only
  congr 1
  have : ∀ (m : Store Stand), Store.put key (g (f st)) (Store.put key (f st) m) = Store.put key (g (f st)) m := by
    intro m
    induction m with
    | nil => simp [Store.put]
    | cons c t ih =>
      obtain ⟨k', v'⟩ := c
      simp only [Store.put]
      split
      · simp [Store.put]
      · split
        · simp [Store.put]
        · simp only [Store.put, *, if_false]
  exact this s.stands
@[simp] theorem dropLanes_onStand (s : State) (key j : Nat) (hdl : Bool) (q : W) (f : Stand → Stand) :
    (s.onStand j f).dropLanes key hdl q = (s.dropLanes key hdl q).onStand j f := rfl

/-- Lanes that go one after another: their threads change each in its turn, and they have left the squads together. -/
theorem lanes_go (key : Nat) (hdl : Bool) (f : Nat → Thread → Thread) (q : W) (hq : q ≠ 0) (t : State) (st : Stand) (h : t.stand key = some st) :
    (lanesOf q).foldl (fun s l => (s.dropLanes key hdl (bit l)).onTs key hdl (bit l) (f l)) t
      = { t.setStand key ((lanesOf q).foldl (fun st l => st.onT hdl l (f l)) st) with issue := t.issue.map (Squad.drop key hdl q) } := by
  have aux : ∀ (ls : List Nat) (t : State) (st : Stand), (∀ l ∈ ls, l < 32) → t.stand key = some st →
      ls.foldl (fun s l => (s.dropLanes key hdl (bit l)).onTs key hdl (bit l) (f l)) t
        = { t.onStand key fun st => ls.foldl (fun st l => st.onT hdl l (f l)) st with issue := ls.foldl (fun is l => is.map (Squad.drop key hdl (bit l))) t.issue } := by
    intro ls
    induction ls with
    | nil =>
      intro t st _ h
      simp only [List.foldl_nil]
      rw [onStand_eq t key _ st h]
      unfold State.setStand
      have : ∀ (m : Store Stand), Store.find key m = some st → Store.put key st m = m := by
        intro m
        induction m with
        | nil => intro h; cases h
        | cons c t ih =>
          obtain ⟨k', v'⟩ := c
          intro h
          simp only [Store.find] at h
          simp only [Store.put]
          by_cases hk : key = k'
          · subst k'
            simp only [if_true, Option.some.injEq] at h
            rw [if_neg (Nat.lt_irrefl key), if_pos rfl, h]
          · simp only [hk, if_false] at h ⊢
            split at h
            · cases h
            · rename_i h1
              rw [if_neg h1, ih h]
      rw [this t.stands h]
    | cons l ls ih =>
      intro t st hl h
      simp only [List.foldl_cons]
      have h1 : ((t.dropLanes key hdl (bit l)).onTs key hdl (bit l) (f l)) = (t.dropLanes key hdl (bit l)).onStand key fun st => st.onT hdl l (f l) := by
        unfold State.onTs Stand.onTs
        rw [lanesOf_bit (hl l List.mem_cons_self)]
        rfl
      rw [h1, ih _ (st.onT hdl l (f l)) (fun x hx => hl x (List.mem_cons_of_mem _ hx)) (by rw [State.stand_onStand, if_pos rfl, State.stand_dropLanes, h]; rfl)]
      rw [onStand_onStand _ key _ _ st (by rw [State.stand_dropLanes, h])]
      rfl
  rw [aux (lanesOf q) t st (fun l hl => inMask_lt (mem_lanesOf.1 hl)) h, foldl_drop_lanes key hdl q hq, onStand_eq t key _ st h]

/-! Every stand of a squad in its turn -/

/-- Each stand that takes part changes to w and its lanes leave the squad: a step for one stand gives the slot for all. -/
theorem each_sends (s : State) (sq : Squad) (f : Env → State → State) (gone : Env → W) (w : Env → Stand) (hx : Executes s sq)
    (hf : ∀ e t, Takes s sq e → t.stand e.key = some e.raw → t.launch sq.launch = s.launch sq.launch → t.cyc = s.cyc →
      ∃ pmc, f e t = { t.setStand e.key (w e) with issue := t.issue.map (Squad.drop e.key sq.hdl (gone e)), regs := { t.regs with pmc := pmc } }) :
    Sends s sq (s.each f) gone w := by
  obtain ⟨hi, hnd, h32⟩ := hx
  cases hs : s.issue with
  | nil => rw [hs] at hi; cases hi
  | cons q rest =>
    rw [hs] at hi
    simp only [List.head?_cons, Option.some.injEq] at hi
    subst hi
    have key : ∀ (mem : List (Nat × W)) (t : State), (∀ m ∈ mem, m ∈ q.mem) → (mem.map fun m => m.1).Nodup → (∀ m ∈ mem, m.1 < 32) →
        (∀ m ∈ mem, t.stand (standKey q.g m.1) = s.stand (standKey q.g m.1)) → t.launch q.launch = s.launch q.launch → t.cyc = s.cyc →
        let u := mem.foldl (fun s m => match s.env q m with | some e => if e.q = 0 then s else f e s | none => s) t
        (∃ sts pmc, u = { t with stands := sts, issue := ((mem.filterMap (s.env q)).filter fun e => decide (e.q ≠ 0)).foldl (fun is e => is.map (Squad.drop e.key q.hdl (gone e))) t.issue, regs := { t.regs with pmc := pmc } }) ∧
        (∀ m ∈ mem, ∀ e, s.env q m = some e → e.q ≠ 0 → u.stand e.key = some (w e)) ∧
        (∀ key, (∀ m ∈ mem, ∀ e, s.env q m = some e → e.q ≠ 0 → e.key ≠ key) → u.stand key = t.stand key) := by
      intro mem
      induction mem with
      | nil => intro t _ _ _ _ _ _; exact ⟨⟨t.stands, t.regs.pmc, rfl⟩, by simp, fun _ _ => rfl⟩
      | cons m ms ih =>
        intro t hsub hn hlt hst hl hc
        simp only [List.foldl_cons]
        simp only [List.map_cons, List.nodup_cons] at hn
        have hsub' : ∀ k ∈ ms, k ∈ q.mem := fun k hk => hsub k (List.mem_cons_of_mem _ hk)
        have hlt' : ∀ k ∈ ms, k.1 < 32 := fun k hk => hlt k (List.mem_cons_of_mem _ hk)
        rw [env_congr (hst m List.mem_cons_self) hl]
        have hne : ∀ k ∈ ms, standKey q.g k.1 ≠ standKey q.g m.1 := fun k hk e =>
          hn.1 (List.mem_map.2 ⟨k, hk, standKey_inj (hlt' k hk) (hlt m List.mem_cons_self) e⟩)
        cases he : s.env q m with
        | none =>
          obtain ⟨h1, h2, h3⟩ := ih t hsub' hn.2 hlt' (fun k hk => hst k (List.mem_cons_of_mem _ hk)) hl hc
          refine ⟨?_, ?_, ?_⟩
          · simpa only [List.filterMap_cons, he] using h1
          · intro k hk e hke hq
            rcases List.mem_cons.1 hk with rfl | hk
            · rw [he] at hke; cases hke
            · exact h2 k hk e hke hq
          · intro key hkey
            exact h3 key (fun k hk => hkey k (List.mem_cons_of_mem _ hk))
        | some e =>
          simp only
          by_cases hq : e.q = 0
          · rw [if_pos hq]
            obtain ⟨h1, h2, h3⟩ := ih t hsub' hn.2 hlt' (fun k hk => hst k (List.mem_cons_of_mem _ hk)) hl hc
            refine ⟨?_, ?_, ?_⟩
            · simpa [List.filterMap_cons, he, List.filter_cons, hq] using h1
            · intro k hk e' hke hq'
              rcases List.mem_cons.1 hk with rfl | hk
              · rw [he] at hke; cases hke; exact absurd hq hq'
              · exact h2 k hk e' hke hq'
            · intro key hkey
              exact h3 key (fun k hk => hkey k (List.mem_cons_of_mem _ hk))
          · rw [if_neg hq]
            obtain ⟨-, -, hk, -, hraw, -, -, -⟩ := env_spec he
            have htk : Takes s q e := ⟨m, hsub m List.mem_cons_self, he, hq⟩
            have hraw' : t.stand e.key = some e.raw := by rw [← hraw, hk]; exact hst m List.mem_cons_self
            obtain ⟨pmc, hfe⟩ := hf e t htk hraw' hl hc
            have hfs : ∀ j, (f e t).stand j = if j = e.key then some (w e) else t.stand j := by
              intro j; rw [hfe]; exact State.stand_setStand t e.key j (w e)
            obtain ⟨h1, h2, h3⟩ := ih (f e t) hsub' hn.2 hlt'
              (fun k hk' => by
                rw [hfs, if_neg (by rw [hk]; exact hne k hk')]; exact hst k (List.mem_cons_of_mem _ hk'))
              (by rw [hfe]; exact hl) (by rw [hfe]; exact hc)
            refine ⟨?_, ?_, ?_⟩
            · obtain ⟨sts, pmc2, h1⟩ := h1
              refine ⟨sts, pmc2, ?_⟩
              have hcons : (((m :: ms).filterMap (s.env q)).filter fun e => decide (e.q ≠ 0)) = e :: ((ms.filterMap (s.env q)).filter fun e => decide (e.q ≠ 0)) := by
                rw [List.filterMap_cons, he]
                exact List.filter_cons_of_pos (by simpa using hq)
              rw [hcons, h1, hfe]
              rfl
            · intro k hk' e' hke hq'
              rcases List.mem_cons.1 hk' with rfl | hk'
              · rw [he] at hke; cases hke
                rw [h3 e.key ?_, hfs, if_pos rfl]
                intro k hk2 e2 he2 _
                rw [(env_spec he2).2.2.1, hk]; exact hne k hk2
              · exact h2 k hk' e' hke hq'
            · intro key hkey
              rw [h3 key (fun k hk => hkey k (List.mem_cons_of_mem _ hk)), hfs, if_neg (fun x => hkey m List.mem_cons_self e he hq x.symm)]
    obtain ⟨k1, k2, k3⟩ := key q.mem s (fun _ h => h) hnd h32 (fun _ _ => rfl) rfl rfl
    rw [each_cons _ hs]
    refine ⟨?_, ?_, ?_⟩
    · obtain ⟨sts, pmc, h⟩ := k1
      refine ⟨sts, pmc, ?_⟩
      have hl : s.envs = ((q.mem.filterMap (s.env q)).filter fun e => decide (e.q ≠ 0)) := by unfold State.envs; rw [hs]
      unfold leftBy
      rw [hl]
      exact h
    · rintro e ⟨m, hm, he, hq⟩
      exact k2 m hm e he hq
    · intro key hk
      exact k3 key (fun m hm e he hq => hk e ⟨m, hm, he, hq⟩)

/-- The same under the checks of State.on, when nothing makes a stand wait. -/
theorem on_sends (s : State) (sq : Squad) (i : Instr) (n : Nat) (f : Env → State → State) (gone : Env → W) (w : Env → Stand) (hx : Executes s sq) (hc : Clear s sq i n)
    (hf : ∀ e t, Takes s sq e → t.stand e.key = some e.raw → t.launch sq.launch = s.launch sq.launch → t.cyc = s.cyc →
      ∃ pmc, f e t = { t.setStand e.key (w e) with issue := t.issue.map (Squad.drop e.key sq.hdl (gone e)), regs := { t.regs with pmc := pmc } }) :
    Sends s sq (s.on i f) gone w := by
  unfold State.on
  refine each_sends s sq _ gone w hx ?_
  intro e t he h1 h2 h3
  obtain ⟨c1, c2⟩ := hc.2 e he
  obtain ⟨pmc, h⟩ := hf e t he h1 h2 h3
  simp only [c1, c2, Bool.false_eq_true, if_false, List.isEmpty_nil, if_true]
  obtain ⟨pmc2, h4⟩ := countScalar_same (f e t) e i
  exact ⟨pmc2, by rw [h4, h]⟩

end Sys2Proof.Machine
end

