-- ==== Sys2Proof/Laws/Solo.lean ====
section
/-! SUPPORT. The shared operations on a squad of one stand: each, on, the gate, the ordering, the checks and the requests of an access. -/
namespace Sys2Proof.Machine

theorem SameButCounters.refl (s : State) : SameButCounters s s := ⟨s.regs.pmc, s.lru, rfl⟩

theorem SameButCounters.trans {s t u : State} (h : SameButCounters s t) (k : SameButCounters t u) : SameButCounters s u := by
  obtain ⟨a, b, rfl⟩ := h
  obtain ⟨c, d, rfl⟩ := k
  exact ⟨c, d, rfl⟩
theorem count_spec (s : State) (g c ev n : Nat) : SameButCounters s (s.count g c ev n) := by
  unfold State.count PfRegs.count
  split
  · exact .refl s
  · split
    · exact .refl s
    · dsimp only
      split
      · exact .refl s
      · exact ⟨_, s.lru, rfl⟩

theorem countScalar_spec (s : State) (e : Env) (i : Instr) : SameButCounters s (s.countScalar e i) := by
  unfold State.countScalar
  split
  · exact .refl s
  · split
    · exact .refl s
    · exact count_spec ..

theorem Solo.cons {s : State} {sq : Squad} {e : Env} {i : Instr} (h : Solo s sq e i) : ∃ rest, s.issue = sq :: rest := by
  obtain ⟨h, -⟩ := h
  cases hi : s.issue with
  | nil => rw [hi] at h; cases h
  | cons a t => rw [hi] at h; cases h; exact ⟨t, rfl⟩

theorem Solo.env_sq {s : State} {sq : Squad} {e : Env} {i : Instr} (h : Solo s sq e i) : e.sq = sq := by
  obtain ⟨-, ⟨m, -, -, he⟩, -⟩ := h
  exact (env_spec he).1

theorem Solo.each {s : State} {sq : Squad} {e : Env} {i : Instr} (h : Solo s sq e i) (f : Env → State → State) : s.each f = f e s := by
  obtain ⟨rest, hr⟩ := h.cons
  obtain ⟨-, ⟨m, hm, -, he⟩, hq, -, -⟩ := h
  rw [each_cons f hr, hm]
  simpa [he] using fun h0 => absurd h0 hq

theorem Solo.envs {s : State} {sq : Squad} {e : Env} {i : Instr} (h : Solo s sq e i) : s.envs = [e] := by
  obtain ⟨rest, hr⟩ := h.cons
  obtain ⟨-, ⟨m, hm, -, he⟩, hq, -, -⟩ := h
  simpa [State.envs, hr, hm, he] using hq

theorem Solo.on {s : State} {sq : Squad} {e : Env} {i : Instr} (h : Solo s sq e i) (f : Env → State → State) :
    s.on i f = (f e s).countScalar e i := by
  unfold State.on
  rw [h.each]
  obtain ⟨-, -, -, h1, h2⟩ := h
  simp [h1, h2]

theorem Solo.on_same {s : State} {sq : Squad} {e : Env} {i : Instr} (h : Solo s sq e i) (f : Env → State → State) :
    SameButCounters (f e s) (s.on i f) := by
  rw [h.on]; exact countScalar_spec ..

/-- A step that leaves the executing squads, the stands and the launches leaves the slot as it was. -/
theorem Solo.congr {s t : State} {sq : Squad} {e : Env} {i : Instr} (h : Solo s sq e i) (h1 : t.issue = s.issue) (h2 : t.stands = s.stands)
    (h3 : t.launches = s.launches) : Solo t sq e i := by
  obtain ⟨a, ⟨m, hm, hl, he⟩, hq, b, c⟩ := h
  refine ⟨by rw [h1]; exact a, ⟨m, hm, hl, ?_⟩, hq, b, c⟩
  rw [← he]
  exact env_congr (by simp [State.stand, h2]) (by simp [State.launch, h3])

/-- Using entries of a brand table changes their order of use alone (R230). -/
theorem use_spec (s : State) (g c : Nat) (xs : List Nat) : ∃ lru, s.use g c xs = { s with lru := lru } := by
  unfold State.use
  induction xs generalizing s with
  | nil => exact ⟨s.lru, rfl⟩
  | cons x t ih =>
    have h1 : ∃ lru, s.brandUse g c (s.normal x) = { s with lru := lru } := by
      unfold State.brandUse; split
      · exact ⟨_, rfl⟩
      · exact ⟨s.lru, rfl⟩
    obtain ⟨l1, h1⟩ := h1
    rw [List.foldl_cons, h1]
    obtain ⟨l2, h2⟩ := ih { s with lru := l1 }
    exact ⟨l2, h2⟩

/-- The gate lets a slot go on whose pages all have an entry; their entries have been used. -/
theorem Solo.gate {s : State} {sq : Squad} {e : Env} {i : Instr} (h : Solo s sq e i) (addrs : Env → List Nat) (go : State → Res)
    (ha : ∀ a ∈ addrs e, s.noBrand e a = false) : ∃ lru, s.gate addrs go = go { s with lru := lru } := by
  obtain ⟨lru, hu⟩ := use_spec s e.sq.g e.ctx (addrs e)
  refine ⟨lru, ?_⟩
  unfold State.gate
  rw [h.envs]
  have : (addrs e).filter (s.noBrand e) = [] := by
    rw [List.filter_eq_nil_iff]
    intro a hm
    simp [ha a hm]
  simp [this, hu]

theorem Env.may_noBrand {e : Env} {s : State} {a n : Nat} {need : Need} (h : e.may s a n need) : s.noBrand e a = false := by
  obtain ⟨-, -, h⟩ := h
  unfold State.noBrand
  rcases h with h | ⟨b, h, -⟩ <;> simp [h]

theorem Env.may_pre {e : Env} {s : State} {a n : Nat} {need : Need} (h : e.may s a n need) (ok : Nat → Bool) (hk : ok (region (s.normal a)) = true) :
    s.pre e a n ok = none := by
  obtain ⟨h1, h2, -⟩ := h
  simp [State.pre, h1, h2, hk]

theorem Env.may_perm {e : Env} {s : State} {a n : Nat} {need : Need} (h : e.may s a n need) : s.perm e a need = none := by
  obtain ⟨-, -, h⟩ := h
  unfold State.perm
  rcases h with h | ⟨b, h, hb⟩
  · simp [h]
  · simp [h, hb]

theorem Env.may_chk {e : Env} {s : State} {a n : Nat} {need : Need} (h : e.may s a n need) (ok : Nat → Bool) (hk : ok (region (s.normal a)) = true) :
    s.chk e a n need ok = none := by
  rw [State.chk, Env.may_pre h ok hk]; exact Env.may_perm h
theorem Env.may_chkB {e : Env} {s : State} {a n : Nat} {need : Need} (h : e.may s a n need) (ok : Nat → Bool) (hk : ok (region (s.normal a)) = true)
    (hb : s.bellOf e.ctx a = none) : s.chkB e a n need ok = none := by
  rw [State.chkB, Env.may_pre h ok hk, hb]; exact Env.may_perm h
theorem Env.may_chkL {e : Env} {s : State} {a n : Nat} {need : Need} (h : e.may s a n need) (hb : n = 4 ∨ s.bellOf e.ctx a = none) :
    s.chkL e a n need anyRegion = none := by
  unfold State.chkL
  split
  · exact Env.may_chk h _ rfl
  · exact Env.may_chkB h _ rfl (hb.resolve_left ‹_›)

theorem endLeases_spec (s : State) (g sc : Nat) : ∃ l1 sec, s.endLeases g sc = { s with l1 := l1, sec := sec } := by
  unfold State.endLeases
  split <;> split <;> exact ⟨_, _, rfl⟩
theorem acquired_spec (s : State) (e : Env) (o : Order) : ∃ l1 sec, s.acquired e o = { s with l1 := l1, sec := sec } := by
  unfold State.acquired
  split
  · exact endLeases_spec ..
  · exact ⟨_, _, rfl⟩

@[simp] theorem lateAt_nil (s : State) (e : Env) : s.lateAt e [] = s := rfl
theorem Solo.ordered {s : State} {sq : Squad} {e : Env} {i : Instr} (h : Solo s sq e i) (o : Order) (go : State → Res) (hf : e.free s o) :
    s.ordered o go = go (s.acquired e o) := by
  obtain ⟨h1, h2⟩ := hf
  have hlate : (if o.rel then s.envs.foldl (fun s e => if e.sq.hdl then s else s.lateAt e ((lanesOf e.q).filter fun l => (s.parkedOf e.sq.g e.slot l).isSome)) s else s) = s := by
    rw [h.envs]
    split
    · rename_i hr
      simp only [List.foldl_cons, List.foldl_nil]
      split
      · rfl
      · rename_i hh
        have : (lanesOf e.q).filter (fun l => (s.parkedOf e.sq.g e.slot l).isSome) = [] := by
          rw [List.filter_eq_nil_iff]
          intro l hl
          simp [(h1 l (mem_lanesOf.1 hl)).2 hr (by simpa using hh)]
        rw [this, lateAt_nil]
    · rfl
  have hw : (s.envs.any fun e => (lanesOf e.q).any (s.blocked o e)) = false := by
    rw [h.envs]
    simp only [List.any_cons, List.any_nil, Bool.or_false]
    rw [List.any_eq_false]
    intro l hl
    simp [(h1 l (mem_lanesOf.1 hl)).1]
  have hp : (o.rel && s.envs.any fun e => s.pendWait e.sq.g o.scope s.markOf e.sq.hdl) = false := by
    rw [h.envs]
    cases hr : o.rel with
    | false => rfl
    | true => simp [h2 hr]
  unfold State.ordered
  simp only [hlate, hw, hp, Bool.or_false, Bool.false_eq_true, if_false]
  rw [h.envs]
  rfl

theorem Env.split_ok (e : Env) (addr : Nat → Nat) (f : Nat → Option Nat) (h : ∀ l, inMask e.q l = true → f l = none) : e.split addr f = (e.q, []) := by
  unfold Env.split
  have h1 : (lanesOf e.q).filter (fun l => (f l).isNone) = lanesOf e.q := by
    rw [List.filter_eq_self]
    intro l hl
    simp [h l (mem_lanesOf.1 hl)]
  have h2 : (lanesOf e.q).filterMap (fun l => (f l).map fun c => ({ lane := l, cause := c, addr := BitVec.ofNat 64 (addr l) } : Raise)) = [] := by
    rw [List.filterMap_eq_nil_iff]
    intro l hl
    simp [h l (mem_lanesOf.1 hl)]
  rw [h1, h2, maskOf_lanesOf]

@[simp] theorem raise_nil (s : State) (e : Env) (acc : Nat) (ret : RetAt) : s.raise e acc ret [] = s := rfl

/-- A slot of one stand has its effect, and the counters may count. -/
theorem Solo.next {s u : State} {sq : Squad} {e : Env} {i : Instr} (h : Solo s sq e i) (f : Env → State → State) (hu : f e s = u) :
    ∃ t, (Host.Outcome.next (s.on i f) : Res) = .next t ∧ SameButCounters u t :=
  ⟨_, rfl, hu ▸ h.on_same f⟩
/-- The same after an acquire has ended its leases. -/
theorem Solo.next_acquired {s u : State} {sq : Squad} {e : Env} {i : Instr} (h : Solo s sq e i) (o : Order) (f : Env → State → State)
    (hu : f e (s.acquired e o) = u) : ∃ t, (Host.Outcome.next ((s.acquired e o).on i f) : Res) = .next t ∧ SameButCounters u t := by
  obtain ⟨l1, sec, ha⟩ := acquired_spec s e o
  exact Solo.next (by rw [ha]; exact h.congr rfl rfl rfl) f hu

/-- A counted operation in all participants. -/
theorem startOp_all (s : State) (e : Env) (kind : OpKind) (d nreg scope : Nat) (acq scr : Bool) (tid : Nat) (lane : Nat → OLane) (hq : e.q ≠ 0) :
    s.startOp e kind d nreg scope acq scr tid e.q ((lanesOf e.q).map lane) =
      { s.onTs e.key e.sq.hdl e.q (fun t => t.flagUp e.flag) with ops := s.ops ++ [(s.seq, e.op s kind d nreg scope acq scr tid lane)], seq := s.seq + 1 } := by
  simp only [State.startOp, hq, if_false]
  rfl

theorem bare_watchThreads (st : Stand) (hit : Watch → Bool) (n : WatchSt) : (st.watchThreads hit n).bare = st.bare := by
  have ht : ∀ t : Thread, Thread.bare (match t.watch with
      | some w => if w.st = .armed ∧ hit w then { t with watch := some { w with st := n } } else t
      | none => t) = t.bare := by
    intro t
    split
    · split <;> rfl
    · rfl
  unfold Stand.watchThreads Stand.bare
  simp only [List.map_map]
  congr 1
  · exact List.map_congr_left fun t _ => ht t
  · cases st.h with
    | none => rfl
    | some h =>
      simp only [Option.map_some, List.map_map]
      congr 2
      exact List.map_congr_left fun t _ => ht t

theorem find_mapVal {α : Type} (f : Nat → α → α) (key : Nat) (s : Store α) : Store.find key (s.map fun e => (e.1, f e.1 e.2)) = (Store.find key s).map (f key) := by
  induction s with
  | nil => rfl
  | cons x t ih =>
    obtain ⟨k, v⟩ := x
    simp only [List.map_cons, Store.find]
    split
    · rename_i h; subst h; simp
    · split
      · rfl
      · exact ih

theorem SameStands.of (s : State) (f : Nat → Stand → Stand) (h : ∀ k st, (f k st).bare = st.bare) : SameStands s { s with stands := s.stands.map fun e => (e.1, f e.1 e.2) } := by
  intro key
  simp only [State.stand, find_mapVal]
  cases Store.find key s.stands with
  | none => rfl
  | some st => simp [h]

/-- A write entering an L1 changes watches alone. -/
theorem touch_spec (s : State) (tag vline : Nat) (cl : Option Nat) : ∃ sts, SameStands s { s with stands := sts } ∧ s.touch tag vline cl = { s with stands := sts } :=
  ⟨_, SameStands.of s (fun k st => st.watchThreads (fun w => decide (w.tag = tag ∧ w.line = vline) &&
    (match cl with
      | none => true
      | some c => decide (w.scope ≤ 3 ∧ clusterOf (k / 32) = c))) .triggered) fun _ st => bare_watchThreads st _ _, rfl⟩

/-- Making room in an L1 drops a copy at most. -/
theorem l1Room_spec (s : State) (cl tag x : Nat) : ∃ l1, (s.l1Room cl tag x).getD s = { s with l1 := l1 } := by
  unfold State.l1Room
  dsimp only
  split
  · exact ⟨s.l1, rfl⟩
  · split
    · exact ⟨s.l1, rfl⟩
    · have h : ∀ o : Option Nat, ∃ l1, ((o.map fun k => { s with l1 := s.l1.del k }).getD s) = { s with l1 := l1 } := by
        rintro (_ | k)
        · exact ⟨s.l1, rfl⟩
        · exact ⟨s.l1.del k, rfl⟩
      exact h _

/-- One request is what `requests` lists; a store makes room in its cluster's L1 and triggers watches. -/
theorem req_spec (s : State) (e : Env) (kind : ReqKind) (acc scope : Nat) (rel : Bool) (op : Option Nat) (tid : Nat) (ls : List RLane) :
    ∃ sts l1, SameStands s { s with stands := sts } ∧ (kind ≠ .store → kind ≠ .tdesc → sts = s.stands ∧ l1 = s.l1) ∧
      s.req e kind acc scope rel op tid ls = { s with stands := sts, l1 := l1, seq := s.seq + 1, reqs := s.reqs ++ [(s.seq,
        { g := e.sq.g, slot := e.slot, ctx := e.l.ctx, tag := s.tagAt e (ls.headD (rlane 0 0 [] [])).addr, launch := e.sq.launch, pkt := e.l.pkt e.sq.pc, pslot := e.sq.k, kind := kind,
          acc := acc, scope := scope, rel := rel, lanes := ls, op := op, tid := tid, cmd := none, team := none, ord := none, hdl := e.sq.hdl, np := s.npAt e (ls.headD (rlane 0 0 [] [])).addr, sq := e.sq.id,
          inSec := kind.plain rel (ls.headD (rlane 0 0 [] [])).addr && (Store.find (copyKey (sectorOf (clusterOf e.sq.g)) (s.tagAt e (ls.headD (rlane 0 0 [] [])).addr) (ls.headD (rlane 0 0 [] [])).addr) s.sec).isSome })] } := by
  unfold State.req
  dsimp only
  generalize (ls.headD (rlane 0 0 [] [])).addr = x
  by_cases hk : kind.plain rel x = true
  · obtain ⟨l1, hl⟩ := l1Room_spec s (clusterOf e.sq.g) (s.tagAt e x) x
    simp only [hk, if_true, hl]
    refine ⟨(State.touch s (s.tagAt e x) (lineOf x) (some (clusterOf e.sq.g))).stands, l1, fun key => ?_, ?_, rfl⟩
    · obtain ⟨sts, h1, h2⟩ := touch_spec s (s.tagAt e x) (lineOf x) (some (clusterOf e.sq.g))
      rw [h2]; exact h1 key
    · intro h1 h2
      simp [ReqKind.plain, h1, h2] at hk
  · simp only [hk]
    exact ⟨s.stands, s.l1, fun _ => rfl, fun _ _ => ⟨rfl, rfl⟩, rfl⟩

/-- The requests of a slot, one for each line. -/
theorem reqLines_spec (s : State) (e : Env) (kind : ReqKind) (acc scope : Nat) (rel : Bool) (op : Option Nat) (lanes : List RLane) :
    ∃ sts l1, SameStands s { s with stands := sts } ∧ (kind ≠ .store → kind ≠ .tdesc → sts = s.stands ∧ l1 = s.l1) ∧
      s.reqLines e kind acc scope rel op lanes = { s with stands := sts, l1 := l1, seq := s.seq + (e.requests s kind acc scope rel op s.seq lanes).length, reqs := s.reqs ++ e.requests s kind acc scope rel op s.seq lanes } := by
  unfold State.reqLines Env.requests
  generalize linesOf (lanes.map fun a => a.addr) = lns
  induction lns generalizing s with
  | nil => exact ⟨s.stands, s.l1, fun _ => rfl, fun _ _ => ⟨rfl, rfl⟩, by simp⟩
  | cons ln t ih =>
    obtain ⟨sts, l1, h1, h2, h3⟩ := req_spec s e kind acc scope rel op 0 (lanes.filter fun a => decide (lineOf a.addr = ln))
    simp only [List.foldl_cons, h3]
    obtain ⟨sts2, l12, h4, h5, h6⟩ := ih { s with stands := sts, l1 := l1, seq := s.seq + 1, reqs := s.reqs ++ [(s.seq,
        { g := e.sq.g, slot := e.slot, ctx := e.l.ctx, tag := s.tagAt e ((lanes.filter fun a => decide (lineOf a.addr = ln)).headD (rlane 0 0 [] [])).addr, launch := e.sq.launch, pkt := e.l.pkt e.sq.pc, pslot := e.sq.k, kind := kind,
          acc := acc, scope := scope, rel := rel, lanes := lanes.filter fun a => decide (lineOf a.addr = ln), op := op, tid := 0, cmd := none, team := none, ord := none, hdl := e.sq.hdl, np := s.npAt e ((lanes.filter fun a => decide (lineOf a.addr = ln)).headD (rlane 0 0 [] [])).addr, sq := e.sq.id,
          inSec := kind.plain rel ((lanes.filter fun a => decide (lineOf a.addr = ln)).headD (rlane 0 0 [] [])).addr && (Store.find (copyKey (sectorOf (clusterOf e.sq.g)) (s.tagAt e ((lanes.filter fun a => decide (lineOf a.addr = ln)).headD (rlane 0 0 [] [])).addr) ((lanes.filter fun a => decide (lineOf a.addr = ln)).headD (rlane 0 0 [] [])).addr) s.sec).isSome })] }
    refine ⟨sts2, l12, fun key => (h4 key).trans (h1 key), fun hk hk2 => ⟨(h5 hk hk2).1.trans (h2 hk hk2).1, (h5 hk hk2).2.trans (h2 hk hk2).2⟩, ?_⟩
    rw [h6]
    simp only [List.mapIdx_cons, List.length_cons, List.length_mapIdx, List.append_assoc, List.cons_append, List.nil_append, Nat.add_zero]
    congr 1
    · congr 2
      apply List.ext_getElem
      · simp
      · intro n h1 h2
        simp [Nat.add_assoc, Nat.add_comm 1 n, State.tagAt, State.tagFor, State.partOf, State.npAt, State.normal, State.brandOf, State.ctx]
    · omega

/-! Lane by lane over a squad of one stand (R175, R255) -/

/-- What a slot does lane by lane in one stand: the state after its lanes, and the causes they raise. -/
def Env.lanes (e : Env) (f : Env → Nat → State → State × List Raise) (ls : List Nat) (s : State) : State × List Raise :=
  ls.foldl (fun p l => let q := f e l p.1; (q.1, p.2 ++ q.2)) (s, [])
theorem Solo.onLanes {s : State} {sq : Squad} {e : Env} {i : Instr} (h : Solo s sq e i) (acc : Nat) (f : Env → Nat → State → State × List Raise) :
    s.onLanes i acc f = (e.lanes f (lanesOf e.q) s).1.raise e acc .here (e.lanes f (lanesOf e.q) s).2 := by
  obtain ⟨-, -, -, h1, h2⟩ := id h
  have key : ∀ (ls : List Nat) (p : State × List (Nat × Raise)) (r : List Raise), p.2 = r.map (fun x => (e.key, x)) →
      ls.foldl (fun p l => if inMask e.q l && !e.shut i && (e.raw.outRegs i.regs).isEmpty then ((f e l p.1).1, p.2 ++ (f e l p.1).2.map fun r => (e.key, r)) else p) p
        = (((ls.filter (inMask e.q)).foldl (fun p l => ((f e l p.1).1, p.2 ++ (f e l p.1).2)) (p.1, r)).1,
           ((ls.filter (inMask e.q)).foldl (fun p l => ((f e l p.1).1, p.2 ++ (f e l p.1).2)) (p.1, r)).2.map fun x => (e.key, x)) := by
    intro ls
    induction ls with
    | nil => intro p r hp; simp [← hp]
    | cons l t ih =>
      intro p r hp
      simp only [List.foldl_cons]
      by_cases hl : inMask e.q l = true
      · simp only [hl, h1, h2, Bool.not_false, List.isEmpty_nil, Bool.and_self, if_true, List.filter_cons_of_pos, List.foldl_cons]
        have := ih ((f e l p.1).1, p.2 ++ (f e l p.1).2.map fun r => (e.key, r)) (r ++ (f e l p.1).2) (by simp [hp])
        simpa [h1, h2] using this
      · simp only [hl, Bool.false_and, Bool.false_eq_true, if_false, List.filter_cons_of_neg, not_false_eq_true]
        have := ih p r hp
        simpa [h1, h2] using this
  have hk := key lanes32 (s, []) [] rfl
  unfold State.onLanes
  simp only [h.envs, List.foldl_cons, List.foldl_nil]
  rw [hk]
  simp only [h1, h2, Bool.false_eq_true, if_false, List.isEmpty_nil, if_true]
  have hf : ∀ rs : List Raise, ((rs.map fun x => (e.key, x)).filter fun x => decide (x.1 = e.key)).map (·.2) = rs := by
    intro rs
    induction rs with
    | nil => rfl
    | cons a t ih => simpa using ih
  rw [hf]
  rfl

end Sys2Proof.Machine
end

