-- ==== Sys2Proof/Laws/Write.lean ====
section
/-! SUPPORT. The instructions that write one register, a pair, or one predicate: one lemma for each form of write (07 R145, 09 R184). -/
namespace Sys2Proof.Machine

theorem hold_wv (st : Stand) (q : W) (d : Nat) (rule : ShapeRule) (f : Nat → W) : (st.wv q d rule f).hold ≤ st.hold + 16 := by
  unfold Stand.wv; exact hold_set st d _
theorem hold_wv64 (st : Stand) (q : W) (d : Nat) (rule : ShapeRule) (f : Nat → DW) : (st.wv64 q d rule f).hold ≤ st.hold + 32 := by
  have h1 := hold_wv st q d rule (fun l => lo32 (f l))
  have h2 := hold_wv (st.wv q d rule fun l => lo32 (f l)) q (d + 1) rule (fun l => hi32 (f l))
  unfold Stand.wv64; omega
@[simp] theorem hold_sticky (st : Stand) (b : Nat × Nat) (fl : Flags) : (st.sticky b fl).hold = st.hold := rfl
@[simp] theorem hold_wp (st : Stand) (q : W) (d : Nat) (f : Nat → Bool) : (st.wp q d f).hold = st.hold := rfl
@[simp] theorem hold_ws (st : Stand) (d : Nat) (x : W) : (st.ws d x).hold = st.hold := rfl

/-- How a slot ends its write of registers: it raises the flags fl for its bundle, and changes nothing else. -/
def Ends (fl : State → Env → Flags) (fin : State → Env → Stand → Stand) : Prop :=
  ∀ s e w, w.fstk = e.st.fstk → w.raised = e.st.raised → Raises e (fin s e w) (fl s e) ∧ fin s e w = { w with fstk := (fin s e w).fstk, raised := (fin s e w).raised }
theorem ends_sticky (fl : State → Env → Flags) : Ends fl fun s e w => w.sticky e.bundle (fl s e) := by
  intro s e w h1 h2
  refine ⟨⟨by simp [Stand.sticky, h1], ?_⟩, rfl⟩
  simp only [Stand.raisedIn, Stand.sticky, h2, and_self, if_true]
  split <;> simp
theorem ends_plain : Ends (fun _ _ => 0) fun _ _ w => w := by
  intro s e w h1 h2
  exact ⟨⟨by simp [h1], by simp [Stand.raisedIn, h2]⟩, rfl⟩
theorem Ends.hold {fl : State → Env → Flags} {fin : State → Env → Stand → Stand} (h : Ends fl fin) {s : State} {e : Env} {w : Stand}
    (h1 : w.fstk = e.st.fstk) (h2 : w.raised = e.st.raised) : (fin s e w).hold = w.hold ∧ (fin s e w).v = w.v ∧ (fin s e w).p = w.p ∧ (fin s e w).grant = w.grant := by
  rw [(h s e w h1 h2).2]; exact ⟨rfl, rfl, rfl, rfl⟩

/-- A form that writes one V register by a rule that fits, and raises flags. -/
theorem setsVF_of (i : Instr) (d : Nat) (ok : Env → Prop) (f : State → Env → Nat → W) (fl : State → Env → Flags) (rule : State → Env → ShapeRule)
    (fin : State → Env → Stand → Stand) (hfin : Ends fl fin)
    (hx : ∀ s, exec i s = regOp i (fun e => (fin s e (e.st.wv e.q d (rule s e) (f s e)), [])) s)
    (hf : ∀ s e, (rule s e).fits e.q (f s e)) : SetsVF i d ok f fl := by
  intro s sq h1 h2 h3
  rw [hx s]
  have hv : ∀ e, let w := fin s e (e.st.wv e.q d (rule s e) (f s e)); w.hold = (e.st.wv e.q d (rule s e) (f s e)).hold ∧ w.v = (e.st.wv e.q d (rule s e) (f s e)).v ∧ w.p = e.st.p ∧ w.grant = e.st.grant :=
    fun e => hfin.hold rfl rfl
  obtain ⟨t, ht, hd⟩ := regOp_does s sq i (fun e => (fin s e (e.st.wv e.q d (rule s e) (f s e)), [])) 16 h1 h2
    (fun _ _ => rfl) (fun e _ => (hv e).1 ▸ hold_wv e.st e.q d (rule s e) (f s e)) (fun e _ => (hv e).2.2.2)
  refine ⟨t, ht, hd.weaken ?_⟩
  rintro e w he rfl
  obtain ⟨-, hv, -, -⟩ := hv e
  have hr : ∀ n l, (fin s e (e.st.wv e.q d (rule s e) (f s e))).rv n l = (e.st.wv e.q d (rule s e) (f s e)).rv n l := fun n l => by simp only [Stand.rv, hv]
  refine ⟨?_, ?_, ?_, (hfin s e (e.st.wv e.q d (rule s e) (f s e)) rfl rfl).1, ?_⟩
  · rintro l ⟨hq, hl⟩
    rw [hr, rv_wv _ _ _ _ _ (h3 e he).1 (hf s e) l hl, if_pos hq]
  · rintro l ⟨hq, hl⟩
    rw [hr, rv_wv _ _ _ _ _ (h3 e he).1 (hf s e) l hl, if_neg (by simp [hq])]
  · intro n hn; rw [hv]; exact wv_other e.st e.q d (rule s e) (f s e) hn
  · have := (hfin s e (e.st.wv e.q d (rule s e) (f s e)) rfl rfl).2
    exact this.trans (by rw [hv]; rfl)

/-- A form that writes one V register by a rule that fits. -/
theorem setsV_of (i : Instr) (d : Nat) (f : Env → Nat → W) (rule : Env → ShapeRule)
    (hx : ∀ s, exec i s = regOp i (fun e => (e.st.wv e.q d (rule e) (f e), [])) s)
    (hf : ∀ e, (rule e).fits e.q (f e)) : SetsV i d f :=
  setsVF_of i d (fun _ => True) (fun _ e l => f e l) (fun _ _ => 0) (fun _ e => rule e) (fun _ _ w => w) ends_plain hx (fun _ e => hf e)

theorem pair_lo_hi (x : DW) : pair (lo32 x) (hi32 x) = x := by
  apply BitVec.eq_of_toNat_eq
  simp only [pair, lo32, hi32, BitVec.toNat_ofNat]
  have := x.isLt
  omega

/-- A form that writes a pair by a rule that does not depend on the values. -/
theorem setsPair_of (i : Instr) (d : Nat) (f : State → Env → Nat → DW) (fl : State → Env → Flags) (rule : ShapeRule) (hr : rule = .auto ∨ rule = .noA)
    (fin : State → Env → Stand → Stand) (hfin : Ends fl fin)
    (hx : ∀ s, exec i s = regOp i (fun e => (fin s e (e.st.wv64 e.q d rule (f s e)), [])) s) : SetsPair i d f fl := by
  intro s sq h1 h2 h3
  rw [hx s]
  have hv : ∀ e, let w := fin s e (e.st.wv64 e.q d rule (f s e)); w.hold = (e.st.wv64 e.q d rule (f s e)).hold ∧ w.v = (e.st.wv64 e.q d rule (f s e)).v ∧ w.p = e.st.p ∧ w.grant = e.st.grant :=
    fun e => hfin.hold rfl rfl
  obtain ⟨t, ht, hd⟩ := regOp_does s sq i (fun e => (fin s e (e.st.wv64 e.q d rule (f s e)), [])) 32 h1 h2
    (fun _ _ => rfl) (fun e _ => (hv e).1 ▸ hold_wv64 e.st e.q d rule (f s e)) (fun e _ => (hv e).2.2.2)
  have hf : ∀ q g, rule.fits q g := by rcases hr with rfl | rfl <;> intro _ _ <;> trivial
  refine ⟨t, ht, hd.weaken ?_⟩
  rintro e w he rfl
  obtain ⟨-, hv, -, -⟩ := hv e
  have hrv : ∀ n l, (fin s e (e.st.wv64 e.q d rule (f s e))).rv n l = (e.st.wv64 e.q d rule (f s e)).rv n l := fun n l => by simp only [Stand.rv, hv]
  have hlen := h3 e he
  have hlo : ∀ l, inMask e.st.live l = true → (e.st.wv64 e.q d rule (f s e)).rv d l = if inMask e.q l then lo32 (f s e l) else e.st.rv d l := by
    intro l hl
    unfold Stand.wv64
    rw [rv_wv_other _ _ _ _ _ (by omega), rv_wv _ _ _ _ _ (by omega) (hf _ _) l hl]
  have hhi : ∀ l, inMask e.st.live l = true → (e.st.wv64 e.q d rule (f s e)).rv (d + 1) l = if inMask e.q l then hi32 (f s e l) else e.st.rv (d + 1) l := by
    intro l hl
    unfold Stand.wv64
    rw [rv_wv _ _ _ _ _ (by rw [wv_v_length]; omega) (hf _ _) l (by exact hl), rv_wv_other _ _ _ _ _ (by omega)]
  refine ⟨?_, ?_, ?_, (hfin s e (e.st.wv64 e.q d rule (f s e)) rfl rfl).1, ?_⟩
  · rintro l ⟨hq, hl⟩
    show pair (Stand.rv _ d l) (Stand.rv _ (d + 1) l) = _
    rw [hrv, hrv, hlo l hl, hhi l hl, if_pos hq, if_pos hq, pair_lo_hi]
  · rintro l ⟨hq, hl⟩
    show pair (Stand.rv _ d l) (Stand.rv _ (d + 1) l) = _
    rw [hrv, hrv, hlo l hl, hhi l hl, if_neg (by simp [hq]), if_neg (by simp [hq])]; rfl
  · intro n h4 h5
    rw [hv]
    unfold Stand.wv64
    rw [wv_other _ _ _ _ _ h5, wv_other _ _ _ _ _ h4]
  · have := (hfin s e (e.st.wv64 e.q d rule (f s e)) rfl rfl).2
    exact this.trans (by rw [hv]; rfl)

/-- What P[n] of a lane reads after a write to P[d]. -/
theorem rp_wp (st : Stand) (q : W) (d : Nat) (f : Nat → Bool) (hd : d < st.p.length) (h127 : d < 127) (l : Nat) (hl : l < 32) :
    (st.wp q d f).rp d l = if inMask q l then f l else st.rp d l := by
  simp only [Stand.rp, Stand.wp, if_neg (Nat.ne_of_lt h127), List.getD_eq_getElem?_getD, List.getElem?_set_self hd, Option.getD_some,
    inMask_or, inMask_and, inMask_not hl, inMask_maskOf_lanes]
  by_cases h : inMask q l = true
  · simp [h]
  · simp [h]
theorem wp_other (st : Stand) (q : W) (d : Nat) (f : Nat → Bool) {n : Nat} (h : n ≠ d) : (st.wp q d f).p[n]? = st.p[n]? := by
  simp [Stand.wp, List.getElem?_set_ne (fun e : d = n => h e.symm)]

/-- A form that writes one predicate. -/
theorem setsPF_of (i : Instr) (d : Nat) (f : Env → Nat → Bool) (fl : Env → Flags) (fin : State → Env → Stand → Stand) (hfin : Ends (fun _ e => fl e) fin)
    (hx : ∀ s, exec i s = regOp i (fun e => (fin s e (e.st.wp e.q d (f e)), [])) s) : SetsPF i d f fl := by
  intro s sq h1 h2 h3
  rw [hx s]
  have hv : ∀ e, let w := fin s e (e.st.wp e.q d (f e)); w.hold = (e.st.wp e.q d (f e)).hold ∧ w.v = e.st.v ∧ w.p = (e.st.wp e.q d (f e)).p ∧ w.grant = e.st.grant :=
    fun e => hfin.hold rfl rfl
  obtain ⟨t, ht, hd⟩ := regOp_does s sq i (fun e => (fin s e (e.st.wp e.q d (f e)), [])) 0 h1 h2
    (fun _ _ => rfl) (fun e _ => Nat.le_of_eq (hv e).1) (fun e _ => (hv e).2.2.2)
  refine ⟨t, ht, hd.weaken ?_⟩
  rintro e w he rfl
  obtain ⟨-, -, hp, -⟩ := hv e
  refine ⟨fun l hl => ?_, fun n hn => by rw [hp]; exact wp_other e.st e.q d (f e) hn, (hfin s e (e.st.wp e.q d (f e)) rfl rfl).1, ?_⟩
  · have : (fin s e (e.st.wp e.q d (f e))).rp d l = (e.st.wp e.q d (f e)).rp d l := by simp only [Stand.rp, hp]
    exact this.trans (rp_wp e.st e.q d (f e) (h3 e he).2 (h3 e he).1 l hl)
  · have := (hfin s e (e.st.wp e.q d (f e)) rfl rfl).2
    exact this.trans (by rw [hp]; rfl)

/-- A form that writes one predicate and no flag. -/
theorem setsP_of (i : Instr) (d : Nat) (f : Env → Nat → Bool)
    (hx : ∀ s, exec i s = regOp i (fun e => (e.st.wp e.q d (f e), [])) s) : SetsP i d f :=
  setsPF_of i d f (fun _ => 0) (fun _ _ w => w) ends_plain hx

end Sys2Proof.Machine
end

