-- ==== Sys2Proof/Tests/Slice0.lean ====
section
/-! SUPPORT. Tests: ill-formed terms, words written out from the encodings, worked examples of the specification, and for each statement a state that meets its hypotheses. -/
open Sys2Proof Sys2Proof.Machine

set_option Elab.async false
namespace Sys2Proof.Tests

/-! The test bed: stand 0 of launch 0 in slot 0 of core 0 -/

def lau : Machine.Launch := { Launch.ofPacket [] { bareHeader with codeSize := 64, scratch := 4096 } [] none 0 0 with x := 32, y := 1, z := 1, started := true, next := 1 }
/-- Its V, S and P registers are 0. -/
def std : Stand :=
  let st := lau.stand 0 0 0 0 0 0
  { st with fresh := false, v := List.replicate 128 (.u 0), s := List.replicate 64 0, thr := st.thr.map fun t => { t with st := .issuing } }
/-- Its squad at the first slot of a packet of these words. -/
def sqd (ws : List W) (m : W) (hdl : Bool) : Squad := { id := 0, g := 0, launch := 0, hdl := hdl, mem := [(0, m)], pc := 0, ctrl := 0, ws := ws, k := 0, start := 0, again := false, mark := none }
/-- Words whose first slot is a NOP. -/
def nops : List W := [0x7C000000#32, 0x7C000000#32, 0x7C000000#32]
/-- The bed, its stand as given. -/
def bed (st : Stand) (sq : Squad) : State :=
  { State.reset with ctxs := [(0, bareCtx)], launches := [(0, lau)], stands := [(0, st)], resident := [(0, (0, 0))], issue := [sq], scr := [(0, [])], seq := 100, turn := .squad 0 }
/-- The stand as the environment of the executing slot. -/
def envOf (st : Stand) (sq : Squad) (m : W) : Env := { sq := sq, slot := 0, key := 0, l := lau, st := st.seen sq.hdl, raw := st, m := m, q := m &&& (st.seen sq.hdl).guard sq.ctrl sq.k }
/-- All 32 threads, or lane 31 alone. -/
def q32 : Squad := sqd nops 0xFFFFFFFF false
def q1 : Squad := sqd nops 0x80000000 false
def e32 : Env := envOf std q32 0xFFFFFFFF
def e1 : Env := envOf std q1 0x80000000

theorem out_nil (st : Stand) (h : st.spilledV = []) (rs : List RegRef) : st.outRegs rs = [] := by
  unfold Stand.outRegs
  rw [h]
  induction rs with
  | nil => rfl
  | cons r t ih => cases r <;> simpa using ih
theorem shut_no (e : Env) (h : e.raw.mode0 e.sq.hdl = false) (i : Instr) : e.shut i = false := by simp [Env.shut, h]
theorem all_lanes {q : W} {P : Nat → Prop} (h : ∀ l, l < 32 → inMask q l = true → P l) (l : Nat) (hl : inMask q l = true) : P l := h l (inMask_lt hl) hl
theorem takes_all {s : State} {sq : Squad} {P : Env → Prop} (h : ∀ e ∈ sq.mem.filterMap (s.env sq), P e) (e : Env) (he : Takes s sq e) : P e := by
  obtain ⟨m, hm, he, -⟩ := he
  exact h e (List.mem_filterMap.2 ⟨m, hm, he⟩)

/-- Any state with the bed's stand, launch and squad executes that squad, and nothing makes it wait. -/
theorem solo (s : State) (st : Stand) (sq : Squad) (m : W) (i : Instr) (h1 : s.issue.head? = some sq) (h2 : sq.mem = [(0, m)]) (h3 : s.stand 0 = some st) (h4 : s.launch sq.launch = some lau)
    (hk : standKey sq.g 0 = 0) (hq : (envOf st sq m).q ≠ 0) (h5 : (envOf st sq m).shut i = false) (h6 : st.spilledV = []) : Solo s sq (envOf st sq m) i := by
  refine ⟨h1, ⟨(0, m), h2, Nat.zero_lt_succ _, ?_⟩, hq, h5, out_nil _ h6 _⟩
  simp only [State.env, h3, h4, envOf, hk]

theorem solo1 (s : State) (i : Instr) (h1 : s.issue.head? = some q1) (h3 : s.stand 0 = some std) (h4 : s.launch 0 = some lau) : Solo s q1 e1 i :=
  solo s std q1 0x80000000 i h1 rfl h3 h4 (by decide) (by decide) (shut_no _ rfl _) rfl
theorem lone1 (s : State) (i : Instr) (h1 : s.issue.head? = some q1) (h3 : s.stand 0 = some std) (h4 : s.launch 0 = some lau) : Lone s q1 e1 i 31 :=
  ⟨solo1 s i h1 h3 h4, by decide, by decide⟩
theorem solo32 (s : State) (i : Instr) (h1 : s.issue.head? = some q32) (h3 : s.stand 0 = some std) (h4 : s.launch 0 = some lau) : Solo s q32 e32 i :=
  solo s std q32 0xFFFFFFFF i h1 rfl h3 h4 (by decide) (by decide) (shut_no _ rfl _) rfl
/-- One lane takes part. -/
theorem one_lane {P : Nat → Prop} (h : P 31) (l : Nat) (hl : inMask e1.q l = true) : P l := by
  have hq : e1.q = bit 31 := by decide
  rw [hq, inMask_bit 31 l (by decide)] at hl
  rw [of_decide_eq_true hl]
  exact h

/-! Ill-formed terms: one for each kind of check -/

theorem test_wf_refuses_fields : ∀ i ∈ ([.iadd { c := 2, d := 1, a := 2, b := .v 3 }, .iadd { c := 0, d := 128, a := 2, b := .v 3 }, .iadd { c := 0, d := 1, a := 128, b := .v 3 }, .iadd { c := 0, d := 1, a := 2, b := .v 128 }, .iadd { c := 0, d := 1, a := 2, b := .s 64 },
    .iadd { c := 0, d := 1, a := 2, b := .imm (-32) }, .iadd { c := 0, d := 1, a := 2, b := .imm 32 }, .imad { c := 0, d := 1, a := 2, b := .v 3, e := .s 64 }, .sel { c := 0, d := 1, a := 2, b := .v 3, pe := 96 }, .sel { c := 0, d := 1, a := 2, b := .v 3, pe := 126 },
    .movS { c := 0, d := 64, b := .v 3 }, .getV { c := 0, d := 1, a := 31 }, .getV { c := 0, d := 1, a := 3 }, .getS { c := 0, d := 2, a := 4 }, .put { c := 0, d := 22, b := .v 3 }, .bra { c := 0, disp := 1048576 }, .bra { c := 0, disp := -1048577 }, .brxS { c := 0, a := 64 }, .nop { c := 2 }] : List Instr), i.wf = false := by decide
theorem test_wf_refuses_predicates_and_pairs : ∀ i ∈ ([.icmpEq { c := 0, d := 96, a := 1, b := .v 2 }, .pand { c := 0, d := 1, a := 96, b := .v 2 }, .pand { c := 0, d := 1, a := 2, b := .s 2 }, .pand { c := 0, d := 1, a := 2, b := .v 96 }, .pmov { c := 0, d := 127, a := 1 }, .p2v { c := 0, d := 1, a := 96, b := .imm 1 },
    .v2p { c := 0, d := 96, a := 1, b := .imm 1 }, .voteBal { c := 0, d := 1, a := 126 }, .elect { c := 0, d := 96 }, .dadd { c := 0, d := 1, a := 2, b := .v 4 }, .dadd { c := 0, d := 2, a := 4, b := .s 5 }, .dfma { c := 0, d := 2, a := 4, b := .v 6, e := .v 7 }, .cvt { c := 0, d := 1, a := 2, sf := 11, df := 0, rnd := 0 },
    .cvt { c := 0, d := 1, a := 2, sf := 0, df := 0, rnd := 5 }, .cvt { c := 0, d := 1, a := 2, sf := 0, df := 3, rnd := 0 }] : List Instr), i.wf = false := by decide
theorem test_wf_refuses_memory : ∀ i ∈ ([.ldB32 { c := 0, ord := 2, scp := 0, d := 1, addr := .v 2 }, .ldB32 { c := 0, ord := 0, scp := 10, d := 1, addr := .v 2 }, .ldB32 { c := 0, ord := 0, scp := 0, d := 1, addr := .v 3 }, .ldB64 { c := 0, ord := 0, scp := 0, d := 1, addr := .v 2 }, .ldB128 { c := 0, ord := 0, scp := 0, d := 2, addr := .v 2 },
    .stB32 { c := 0, ord := 1, scp := 0, d := 1, addr := .v 2 }, .ldsB32 { c := 0, ord := 0, scp := 3, d := 1, addr := .v 2 }, .pref { c := 0, level := 2, addr := .v 2 }, .clean { c := 0, addr := .s 3 }, .tdiscard { c := 0, addr := .v 2 }, .tdesc { c := 0, id := .imm 1, b := 64, q := 0 }, .tdesc { c := 0, id := .imm 1, b := 3, q := 1 },
    .tread { c := 0, idx := 3, d := 2, id := .imm 1, q := 0 }, .tread { c := 0, idx := 2, d := 3, id := .imm 1, q := 0 }, .tquery { c := 0, idx := 0, d := 2, id := .imm 1, q := 1 }, .tread { c := 0, idx := 0, d := 2, id := .imm 63, q := 0 }, .cpy { c := 0, dir := 4, a := 2, w := none }, .cpy { c := 0, dir := 0, a := 3, w := none },
    .cpyt { c := 0, dir := 1, a := 2, w := none }, .cpyv { c := 0, a := 3, b := 2, q := 0 }] : List Instr), i.wf = false := by decide
theorem test_wf_refuses_engine_and_sync : ∀ i ∈ ([.mma { c := 0, i := 8, cv := 0, a := .s 1, b := .s 2 }, .mma { c := 0, i := 0, cv := 8, a := .s 1, b := .s 2 }, .gath { c := 0, i := 4, cv := 0, a := 1, b := .s 2 }, .mwaitb { c := 0, n := 4 }, .mcommit { c := 0, cv := 8 }, .mdraina { c := 0, i := 0, cv := 0, a := .s 1, b := .s 2, q := 2 }, .maccr { c := 0, i := 0, a := 1, idx := .v 128 },
    .atomAdd { c := 0, ord := 4, scp := 0, d := 1, addr := .v 2, b := .v 3 }, .atomAdd { c := 0, ord := 0, scp := 10, d := 1, addr := .v 2, b := .v 3 }, .atomAdd { c := 0, ord := 0, scp := 0, d := 1, addr := .v 3, b := .v 3 }, .atom64Add { c := 0, ord := 0, scp := 0, d := 1, addr := .v 2, b := .v 4 }, .atom64Add { c := 0, ord := 0, scp := 0, d := 2, addr := .v 2, b := .v 3 },
    .atom64Cas { c := 0, ord := 0, scp := 0, d := 2, addr := .v 2, b := .v 4, n := .s 3 }, .atomsAdd { c := 0, ord := 0, scp := 3, d := 1, addr := .v 2, b := .v 3 }, .atomfFadd64 { c := 0, ord := 0, scp := 0, d := 2, addr := .v 2, b := .v 3 }, .chunk { c := 0, ord := 0, scp := 0, d := 1, addr := .v 2 }, .redAdd { c := 0, ord := 1, scp := 0, d := 1, addr := .v 2 },
    .fence { c := 0, scp := 10 }, .fenceX { c := 0, scp := 0, mask := 0 }, .fenceX { c := 0, scp := 0, mask := 16 }, .barSync { c := 0, s := 10 }, .mona { c := 0, scp := 0, addr := .s 3 }, .mwait { c := 0, ord := 0, scp := 0, d := 95, addr := .s 2 }, .mwait { c := 0, ord := 2, scp := 0, d := 1, addr := .s 2 }, .mwait { c := 0, ord := 0, scp := 1, d := 1, addr := .s 2 },
    .mwait { c := 0, ord := 0, scp := 0, d := 1, addr := .vl 2 0 }, .waita { c := 0, ord := 0, scp := 3, d := 1, addr := .s 2 }, .send { c := 0, a := 1, b := 96 }, .tree { c := 0, i := 0, a := 64, b := 1 }, .treew { c := 0, i := 8, a := 1, b := 1 }, .beatd { c := 0, a := 1, b := .imm 1 }, .rng { c := 0, d := 2, a := 4, b := .v 2 }, .rng { c := 0, d := 4, a := 4, b := .imm 2 },
    .time { c := 0, d := 1, b := .imm 0 }, .trap { c := 0, b := .imm 7 }, .trap { c := 0, b := .v 8 }, .resume { c := 0, d := 1, a := 3 }] : List Instr), i.wf = false := by decide
theorem test_wf_refuses_steps : ∀ i ∈ ([.packetIssue 384 0, .reconRelease 0 32, .teamForm 96, .qtailWrite 32 0 0, .queueService 512, .startReady 0 128 0, .ctxCreate 0 256, .clusterReclaim 96, .intervalBoundary 256, .watchTrigger 0 0 32, .expanderDown 4, .registerWrite 33 0 0] : List Instr), i.wf = false := by decide

/-! Words written out from R109 to R114: one at least for each major -/

def reads (ws : List W) (i : Instr) : Bool := decide (decode ws = some (i, ws.length))
theorem test_decode_integer :
    reads [0b0_000001_101_0_0010101_0000000_0000011#32] (.put { c := 0, d := 21, b := .v 3 }) ∧ reads [0b0_000001_100_0_0000010_0000011_0000000#32] (.getV { c := 0, d := 2, a := 3 }) ∧ reads [0b0_000010_010_1_0000001_0000010_1000001#32] (.iadds { c := 0, d := 1, a := 2, b := .imm 1 }) ∧
    reads [0b1_000011_010_1_1111111_0000010_0111111#32] (.imulhu { c := 1, d := 127, a := 2, b := .s 63 }) ∧ reads [0b0_000100_101_0_0000001_0000010_0000011#32] (.xnor { c := 0, d := 1, a := 2, b := .v 3 }) ∧ reads [0b0_000101_011_1_0000001_0000010_1011111#32] (.rol { c := 0, d := 1, a := 2, b := .imm 31 }) ∧
    reads [0b0_000110_010_0_0000001_0000010_0000011#32, 0b000000_000_0000_0000_0000000_1_1000101#32] (.bfi { c := 0, d := 1, a := 2, b := .v 3, e := .imm 5 }) ∧ reads [0b0_000110_011_0_0000001_0000010_0000000#32] (.popc { c := 0, d := 1, a := 2 }) ∧
    reads [0b0_000111_111_0_1011111_0000010_0000011#32] (.icmpGeu { c := 0, d := 95, a := 2, b := .v 3 }) ∧ reads [0b0_001000_011_0_0000001_1111111_0000000#32] (.pnot { c := 0, d := 1, a := 127 }) ∧ reads [0b0_001000_101_1_0000001_0000010_1000100#32] (.p2v { c := 0, d := 1, a := 2, b := .imm 4 }) ∧
    reads [0b0_001001_001_0_0000001_0000010_0000000#32] (.shape { c := 0, d := 1, a := 2 }) ∧ reads [0b0_001100_011_1_0000001_0000010_1010000#32] (.shflXor { c := 0, d := 1, a := 2, b := .imm 16 }) ∧ reads [0b0_001100_111_0_0000001_0000000_0000000#32] (.elect { c := 0, d := 1 }) ∧
    reads [0b0_001101_111_0_0000001_0000010_0000000#32] (.redxFadd { c := 0, d := 1, a := 2 }) := by decide +kernel
theorem test_decode_float :
    reads [0b0_010000_100_0_0000001_0000010_0000011#32] (.fmax { c := 0, d := 1, a := 2, b := .v 3 }) ∧ reads [0b0_010001_010_1_0000001_0000010_1100000#32, 0b000000_000_0000_0000_0000000_0_0000111#32, 0x3F800000#32] (.fnma { c := 0, d := 1, a := 2, b := .lit 0x3F800000, e := .v 7 }) ∧ reads [0b0_010010_110_0_0000001_0000010_0000011#32] (.fcmpUn { c := 0, d := 1, a := 2, b := .v 3 }) ∧
    reads [0b0_010011_111_0_0000001_0000010_0000000#32] (.ftanh { c := 0, d := 1, a := 2 }) ∧ reads [0b0_010100_010_0_0000010_0000100_0000110#32, 0b000000_000_0000_0000_0000000_1_0001000#32] (.dfma { c := 0, d := 2, a := 4, b := .v 6, e := .s 8 }) ∧
    reads [0b0_010101_010_0_0000001_0000010_0000011#32, 0b000000_000_0000_0000_0000000_0_0000100#32] (.hfma2 { c := 0, d := 1, a := 2, b := .v 3, e := .v 4 }) ∧ reads [0b0_010110_011_0_0000001_0000010_0000011#32] (.bdot2 { c := 0, d := 1, a := 2, b := .v 3 }) ∧
    reads [0b0_010111_000_0_0000010_0000001_0000000#32, 0b000000_100_0011_0000_0000000_0_0000000#32] (.cvt { c := 0, d := 2, a := 1, sf := 0, df := 3, rnd := 4 }) ∧ reads [0b0_011000_011_0_0000001_0000010_0000011#32] (.npk { c := 0, d := 1, a := 2, b := .v 3 }) := by decide +kernel
theorem test_decode_control :
    reads [0b0_011100_0001_0000000000000_0_1111111#32] (.brxV { c := 0, a := 127 }) ∧ reads [0b0_011100_0001_0000000000000_1_0111111#32] (.brxS { c := 0, a := 63 }) ∧ reads [0b0_011100_0010_100000000000000000000#32] (.call { c := 0, disp := -1048576 }) ∧ reads [0b0_011100_0111_000000000000000000000#32] (.exit { c := 0 }) ∧
    reads [0b0_011101_000_0_0000000_0000010_0000011#32] (.join { c := 0, a := 2, b := .v 3 }) ∧ reads [0b0_011101_010_1_0000001_0000000_1000100#32] (.tinfo { c := 0, d := 1, b := .imm 4 }) ∧ reads [0b0_111000_00000000_00000000000001001#32] (.barArrive { c := 0, s := 9 }) ∧
    reads [0b0_111100_001_1_0000000_0000010_1000001#32] (.beatd { c := 0, a := 2, b := .imm 1 }) ∧ reads [0b0_111100_011_1_0000010_0000000_1000001#32] (.time { c := 0, d := 2, b := .imm 1 }) ∧ reads [0b0_111101_000_1_0000000_0000000_1001000#32] (.trap { c := 0, b := .imm 8 }) ∧
    reads [0b0_111101_010_1_0000001_0000010_1000000#32] (.lmovR { c := 0, d := 1, a := 2, b := .imm 0 }) ∧ reads [0b0_111101_101_0_0000001_0000010_0000000#32] (.resume { c := 0, d := 1, a := 2 }) ∧ reads [0b0_111011_0001_010_000_0000110_0000101_0#32] (.tree { c := 0, i := 2, a := 6, b := 5 }) ∧
    reads [0b1_111110_00000000_00000000000000000#32] (.nop { c := 1 }) := by decide +kernel
theorem test_decode_memory :
    reads [0b0_100000_110_00_0000_0000101_0000110_00#32] (.ldS16 { c := 0, ord := 0, scp := 0, d := 5, addr := .v 6 }) ∧ reads [0b0_100001_100_10_1001_0001000_0000110_01#32] (.stB128 { c := 0, ord := 2, scp := 9, d := 8, addr := .s 6 }) ∧ reads [0x44801008#32] (.ldsB32 { c := 0, ord := 0, scp := 0, d := 8, addr := .v 2 }) ∧
    reads [0b0_100011_011_10_0010_0001000_0000111_11#32, 0xFFFFFFFC#32] (.stsB64 { c := 0, ord := 2, scp := 2, d := 8, addr := .vl 7 0xFFFFFFFC }) ∧ reads [0b0_100100_000_00_0000_0000001_0000110_00#32] (.pref { c := 0, level := 1, addr := .v 6 }) ∧
    reads [0b0_100101_0010_011_000_0001010_1000001_0#32] (.tquery { c := 0, idx := 3, d := 10, id := .imm 1, q := 0 }) ∧ reads [0b0_101000_0000_010_000_0000110_1000001_1#32] (.cpy { c := 0, dir := 2, a := 6, w := some (.imm 1) }) ∧
    reads [0b0_110000_111_11_0111_0000101_0000110_01#32, 0b0000000000000000_1_1000001_0_0000111#32] (.atomCas { c := 0, ord := 3, scp := 7, d := 5, addr := .s 6, b := .v 7, n := .imm 1 }) ∧
    reads [0b0_110001_110_00_0000_0000100_0000110_01#32, 0b0000000000000000_0_0000000_1_0001000#32] (.atom64Exch { c := 0, ord := 0, scp := 0, d := 4, addr := .s 6, b := .s 8 }) ∧ reads [0b0_110010_000_00_0000_0000100_0000111_00#32, 0b0000000000000000_0_0000000_1_1100000#32, 7#32] (.atomsAdd { c := 0, ord := 0, scp := 0, d := 4, addr := .v 7, b := .lit 7 }) ∧
    reads [0b0_110011_101_00_0000_0000100_0000110_00#32, 0b0000000000000000_0_0000000_0_0001000#32] (.atomfFadd64 { c := 0, ord := 0, scp := 0, d := 4, addr := .v 6, b := .v 8 }) ∧ reads [0b0_110100_000_01_0111_0000100_0000110_00#32] (.chunk { c := 0, ord := 1, scp := 7, d := 4, addr := .v 6 }) ∧
    reads [0b0_110101_101_10_0111_0000100_0000110_00#32] (.redXor { c := 0, ord := 2, scp := 7, d := 4, addr := .v 6 }) ∧ reads [0b0_111001_001_00_0111_0000101_0000000_00#32] (.fenceX { c := 0, scp := 7, mask := 5 }) ∧ reads [0b0_111001_001_00_0111_000_1010_0000000_00#32] (.fenceX { c := 0, scp := 7, mask := 10 }) ∧
    reads [0b0_111010_000_00_0111_0000000_0000110_01#32] (.mona { c := 0, scp := 7, addr := .s 6 }) ∧ reads [0b0_101100_0001_001_010_1000001_0001001_0#32] (.mmag { c := 0, i := 1, cv := 2, a := .imm 1, b := .s 9 }) ∧ reads [0b0_101101_0101_001_010_0001000_1111111_1#32, 0x10008#32] (.mdraina { c := 0, i := 1, cv := 2, a := .s 8, b := .lit 0x10008, q := 1 }) ∧
    reads [0b0_101101_0110_001_000_0000101_0000110_1#32] (.maccr { c := 0, i := 1, a := 5, idx := .v 6 }) := by decide +kernel
/-- The packets of the specification's loop: packet 0, slots 1 and 2; packet 1. -/
theorem test_decode_worked_loop : reads [0x04208144#32] (.iadd { c := 0, d := 2, a := 2, b := .imm 4 }) ∧ reads [0x0422857F#32] (.iadd { c := 0, d := 10, a := 10, b := .imm (-1) }) ∧ reads [0x20024488#32] (.fadd { c := 0, d := 9, a := 9, b := .v 8 }) ∧ reads [0x0E604540#32] (.icmpNe { c := 0, d := 1, a := 10, b := .imm 0 }) ∧ reads [0x381FFFFF#32] (.bra { c := 0, disp := -1 }) := by decide +kernel

/-! ## Instructions within the registers -/

/-- In the bed with this stand, the squad executes i with room for n granules, and its stand is as P says. -/
def Runs (st : Stand) (i : Instr) (n : Nat) (P : Env → Prop) : Prop :=
  Executes (bed st q32) q32 ∧ Clear (bed st q32) q32 i n ∧ (∀ e, Takes (bed st q32) q32 e → P e) ∧ ∃ e, Takes (bed st q32) q32 e
theorem env32 (st : Stand) : (bed st q32).env q32 (0, 0xFFFFFFFF) = some (envOf st q32 0xFFFFFFFF) := rfl
theorem takes32 {st : Stand} {e : Env} (h : Takes (bed st q32) q32 e) : e = envOf st q32 0xFFFFFFFF := by
  obtain ⟨m, hm, he, -⟩ := h
  simp only [q32, sqd, List.mem_singleton] at hm
  rw [hm] at he
  exact (Option.some.inj ((env32 st).symm.trans he)).symm
theorem runsOn (st : Stand) (i : Instr) (n : Nat) (P : Env → Prop) (h1 : st.spilledV = []) (hq : (envOf st q32 0xFFFFFFFF).q ≠ 0) (hn : n ≤ (bed st q32).freePool 0) (hP : P (envOf st q32 0xFFFFFFFF)) : Runs st i n P := by
  refine ⟨⟨rfl, by decide, by decide⟩, ⟨?_, fun e h => ?_⟩, fun e h => takes32 h ▸ hP, _, (0, 0xFFFFFFFF), List.mem_singleton.2 rfl, env32 st, hq⟩
  · show n * 1 ≤ (bed st q32).freePool 0
    omega
  · rw [takes32 h]
    exact ⟨shut_no _ rfl _, out_nil _ h1 _⟩
theorem runs (i : Instr) (n : Nat) (P : Env → Prop) (hn : n ≤ 32640) (hP : P e32) : Runs std i n P :=
  runsOn std i n P rfl (by decide) (Nat.le_trans hn (Nat.le_of_eq (show (32640 : Nat) = (bed std q32).freePool 0 by decide +kernel))) hP

/-- Every instruction that writes V[d] or a pair, with or without a sticky flag. -/
theorem meets_registers (i : Instr) (d : Nat) (h : d < 127) : Runs std i 16 (fun e => d < e.st.v.length ∧ True) ∧ Runs std i 32 fun e => d + 1 < e.st.v.length :=
  ⟨runs _ _ _ (by decide) ⟨by show d < 128; omega, trivial⟩, runs _ _ _ (by decide) (by show d + 1 < 128; omega)⟩
/-- Every instruction that writes P[d]. -/
theorem meets_predicates (i : Instr) (d : Nat) (h : d < 96) : Runs std i 0 fun e => d < 127 ∧ d < e.st.p.length := runs _ _ _ (by decide) ⟨by omega, h⟩

theorem meets_Select (x : RSel) (h : x.d < 127) : Runs std (.sel x) 16 fun e => x.d < e.st.v.length ∧ True := (meets_registers _ _ h).1
theorem meets_IntegerArithmetic (i : Instr) (d : Nat) (h : d < 127) : Runs std i 16 fun e => d < e.st.v.length ∧ True := (meets_registers i d h).1
theorem meets_LogicShiftsAndBits (i : Instr) (d : Nat) (h : d < 127) : Runs std i 16 fun e => d < e.st.v.length ∧ True := (meets_registers i d h).1
/-- V1 is 32: a word of 32 predicates, the largest count; V2 is 1. -/
def counted : Stand := { std with v := (std.v.set 1 (.u 32)).set 2 (.u 1) }
theorem meets_ComparisonsAndPredicateMoves : (∀ (i : Instr) (d : Nat), d < 96 → Runs std i 0 fun e => d < 127 ∧ d < e.st.p.length) ∧
    Runs counted (.p2v { c := 0, d := 5, a := 64, b := .v 1 }) 16 (fun e => 5 < e.st.v.length ∧ ∀ l, inMask e.q l = true → 1 ≤ (e.st.src (.v 1) l).toInt ∧ (e.st.src (.v 1) l).toInt ≤ 32 ∧ ((64 : Nat) : Int) + (e.st.src (.v 1) l).toInt ≤ e.l.hdr.pregs) ∧
    Runs counted (.v2p { c := 0, d := 95, a := 3, b := .v 2 }) 0 (fun e => e.l.hdr.pregs ≤ e.st.p.length ∧ e.l.hdr.pregs ≤ 96 ∧ ∀ l, inMask e.q l = true →
      (e.raw.mode0 false = true → 95 + (e.st.src (.v 2) l).toNat ≤ 4) ∧ 1 ≤ (e.st.src (.v 2) l).toInt ∧ (e.st.src (.v 2) l).toInt ≤ 32 ∧ ((95 : Nat) : Int) + (e.st.src (.v 2) l).toInt ≤ e.l.hdr.pregs) :=
  ⟨fun i d h => meets_predicates i d h, runsOn _ _ _ _ rfl (by decide +kernel) (by decide +kernel) ⟨by decide +kernel, all_lanes (by decide +kernel)⟩,
    runsOn _ _ _ _ rfl (by decide +kernel) (by decide +kernel) ⟨by decide +kernel, by decide +kernel, all_lanes (by decide +kernel)⟩⟩
/-- Indexed registers: V1 32, V5 is 95 and V6 is -1. -/
def indexed : Stand := { std with v := (std.v.set 5 (.u 95)).set 6 (.u 0xFFFFFFFF) }
theorem meets_MovesAndSpecialValues : (∀ (i : Instr) (d : Nat), d < 127 → Runs std i 16 (fun e => d < e.st.v.length ∧ True) ∧ Runs std i 0 fun _ => True) ∧
    Runs indexed (.vidxr { c := 0, d := 1, a := 5, b := .imm 31 }) 16 (fun e => 1 < e.st.v.length ∧ e.raw.spilledV = [] ∧
      ∀ l, inMask e.q l = true → 0 ≤ (e.st.rv 5 l).toNat + (e.st.src (.imm 31) l).toInt ∧ (e.st.rv 5 l).toNat + (e.st.src (.imm 31) l).toInt < e.l.hdr.vregs) ∧
    Runs indexed (.vidxr { c := 0, d := 1, a := 5, b := .imm (-31) }) 16 (fun e => 1 < e.st.v.length ∧ e.raw.spilledV = [] ∧
      ∀ l, inMask e.q l = true → 0 ≤ (e.st.rv 5 l).toNat + (e.st.src (.imm (-31)) l).toInt ∧ (e.st.rv 5 l).toNat + (e.st.src (.imm (-31)) l).toInt < e.l.hdr.vregs) ∧
    Runs indexed (.vidxw { c := 0, d := 32, a := 5, b := .v 6 }) 512 (fun e => e.l.hdr.vregs ≤ e.st.v.length ∧ e.raw.spilledV = [] ∧ e.raw.mode0 false = false ∧ ∀ l, inMask e.q l = true → 32 + (e.st.rv 5 l).toNat < e.l.hdr.vregs) :=
  ⟨fun i d h => ⟨(meets_registers i d h).1, runs _ _ _ (by decide +kernel) trivial⟩, runsOn _ _ _ _ rfl (by decide +kernel) (by decide +kernel) ⟨by decide +kernel, rfl, all_lanes (by decide +kernel)⟩,
    runsOn _ _ _ _ rfl (by decide +kernel) (by decide +kernel) ⟨by decide +kernel, rfl, all_lanes (by decide +kernel)⟩,
    runsOn _ _ _ _ rfl (by decide +kernel) (by decide +kernel) ⟨by decide +kernel, rfl, by decide +kernel, all_lanes (by decide +kernel)⟩⟩
/-- Recompression: values of every live lane, and of lanes 2 and 3 alone. -/
theorem meets_RecompressionIsNarrowest : (0xFFFFFFFF : W) ≠ 0 ∧ (0xC : W) ≠ 0 ∧ ((false : Bool) = true → (false : Bool) = true) ∧
    (∃ vals : List W, (recompress true true 0xFFFFFFFF vals).code = 1) ∧ (∃ vals : List W, (recompress true true 0xC vals).code = 2) ∧ (∃ vals : List W, (recompress true true 0xC vals).code = 3) ∧
    ∃ vals : List W, (recompress true true 0xC vals).code = 4 :=
  ⟨by decide +kernel, by decide +kernel, id, ⟨lanes32.map fun l => BitVec.ofNat 32 (7 * l), by decide +kernel⟩, ⟨[0, 0, 128, 0], by decide +kernel⟩, ⟨[0, 0, 0, 128], by decide +kernel⟩, ⟨[0, 0, 0, 32768], by decide +kernel⟩⟩
/-- V1 is 8 + 3 × lane, V2 is 5. -/
def affine : Stand := { std with v := (std.v.set 1 (.a 8 3)).set 2 (.u 31) }
theorem meets_Shapes : (∀ (i : Instr) (d : Nat), d < 127 → Runs std i 16 fun e => d < e.st.v.length ∧ True) ∧
    (∀ i : Instr, Runs affine i 16 fun e => 3 < e.st.v.length ∧ e.st.live &&& ~~~e.q = 0 ∧ (e.st.v.getD 1 (.u 0)).aff = some (8, 3) ∧ e.st.affOf (.v 2) = some (31, 0) ∧ (31 : W).toNat < 32 ∧ e.st.affOf (.v 1) = some (8, 3) ∧ (e.st.v.getD 2 (.u 0)).aff = some (31, 0)) ∧
    (∀ x : RU, x.d + x.a < 128 → Runs std (.expand x) (16 * (x.a + 1)) (fun e => x.d + x.a < e.st.v.length) ∧ Runs std (.squeeze x) (16 * (x.a + 1)) fun e => x.d + x.a < e.st.v.length) :=
  ⟨fun i d h => (meets_registers i d h).1, fun i => runsOn _ i _ _ rfl (by decide +kernel) (by decide +kernel) ⟨by decide +kernel, by decide +kernel, by decide +kernel, by decide +kernel, by decide +kernel, by decide +kernel, by decide +kernel⟩,
    fun x h => ⟨runs _ _ _ (by omega) h, runs _ _ _ (by omega) h⟩⟩
theorem meets_CrossLaneAndReductions (i : Instr) (d : Nat) (h : d < 96) : (Runs std i 16 fun e => d < e.st.v.length ∧ True) ∧ (Runs std i 0 fun e => d < 127 ∧ d < e.st.p.length) ∧ e32.q ≠ 0 :=
  ⟨(meets_registers i d (by omega)).1, meets_predicates i d h, by decide +kernel⟩
theorem meets_FloatingArithmetic (i : Instr) (d : Nat) (h : d < 127) : (Runs std i 16 fun e => d < e.st.v.length ∧ True) ∧ Runs std i 32 fun e => d + 1 < e.st.v.length := meets_registers i d h
theorem meets_FloatComparisons (i : Instr) (d : Nat) (h : d < 96) : Runs std i 0 fun e => d < 127 ∧ d < e.st.p.length := meets_predicates i d h
theorem meets_SpecialFunctions : (∀ (i : Instr) (d : Nat), d < 127 → Runs std i 16 fun e => d < e.st.v.length ∧ True) ∧ (fp32.val (0x7F800001 : W).toNat).isNan = true ∧ (fp32.val (0x7F800001 : W).toNat).isSig = true ∧ (fp32.val (0xFFC00000 : W).toNat).isSig = false ∧
    0x80000000 < (0x80000001 : W).toNat ∧ (0xFF7FFFFF : W).toNat < 0xFF800000 :=
  ⟨fun i d h => (meets_registers i d h).1, by decide +kernel, by decide +kernel, by decide +kernel, by decide +kernel, by decide +kernel⟩
/-- CVT to FP64 and to others; the largest selectors of T8UNPK, T6UNPK and I4UNPK; NPK of INT4 into position 7. -/
theorem meets_Conversions : (∀ (i : Instr) (d : Nat), d < 127 → (Runs std i 16 fun e => d < e.st.v.length ∧ True) ∧ Runs std i 32 fun e => d + 1 < e.st.v.length) ∧
    (∀ i : Instr, Runs std i 16 fun e => 5 < e.st.v.length ∧ ∀ l, inMask e.q l = true → (e.st.src (.imm 3) l).toNat < 4) ∧
    (∀ i : Instr, Runs std i 16 fun e => 5 < e.st.v.length ∧ ∀ l, inMask e.q l = true → (e.st.src (.imm 31) l).toNat < 32) ∧
    (∀ i : Instr, Runs std i 16 fun e => 5 < e.st.v.length ∧ ∀ l, inMask e.q l = true → npkOk (e.st.src (.lit 0x707) l).toNat = true) :=
  ⟨fun i d h => meets_registers i d h, fun i => runs i _ _ (by decide +kernel) ⟨by decide +kernel, all_lanes (by decide +kernel)⟩, fun i => runs i _ _ (by decide +kernel) ⟨by decide +kernel, all_lanes (by decide +kernel)⟩,
    fun i => runs i _ _ (by decide +kernel) ⟨by decide +kernel, all_lanes (by decide +kernel)⟩⟩
/-- Remainders: none; below, above and at the half. -/
theorem meets_RoundingModes : (8 : Nat) % 2 ^ 2 = 0 ∧ (9 : Nat) % 2 ^ 2 ≠ 0 ∧ 2 * ((9 : Nat) % 2 ^ 2) < 2 ^ 2 ∧ 2 ^ 2 < 2 * ((11 : Nat) % 2 ^ 2) ∧ 2 * ((10 : Nat) % 2 ^ 2) = 2 ^ 2 := by decide +kernel
/-- The largest finite FP32, the smallest subnormal, and minus zero. -/
theorem meets_FusedSumsRoundOnce : fp32 ∈ [fp32, fp16, bf16, fp64] ∧ isFinite (fp32.val 0x7F7FFFFF) = true ∧ isFinite (fp32.val 1) = true ∧ isFinite (fp32.val 0x80000000) = true :=
  ⟨List.mem_cons_self, by decide +kernel, by decide +kernel, by decide +kernel⟩
theorem meets_RoundingToNearest : fp32 ∈ [fp32, fp16, bf16, fp64] ∧ 0x7F7FFFFF < 2 ^ fp32.width ∧ (fp32.val 0x7F7FFFFF).isNan = false ∧ isFinite (fp32.val 0x7F7FFFFF) = true ∧
    isFinite (fp32.val (fp32.roundFin .rne false 1 (-200)).1) = true ∧ isFinite (fp32.val (fp32.roundFin .rne false 16777217 0).1) = true :=
  ⟨List.mem_cons_self, by decide +kernel, by decide +kernel, by decide +kernel, by decide +kernel, by decide +kernel⟩

/-! ## Transfers, waits for granules, memory -/

/-- 15 return indexes, the newest 3. -/
def deep : Stand := { std with thr := std.thr.map fun t => { t with rs := List.replicate 15 3 } }
/-- Transfers: BRA to the last packet, BRX to packet 0; CALL at depth 15; RET to the last packet. -/
theorem meets_Transfers : Runs std (.bra { c := 0, disp := 3 }) 0 (fun e => ∀ l, inMask e.q l = true → True ∧ 0 ≤ (e.l.pkt e.sq.pc : Int) + 3 ∧ (e.l.pkt e.sq.pc : Int) + 3 < (e.l.hdr.codeSize / 16 : Nat)) ∧
    Runs std (.brxV { c := 0, a := 2 }) 0 (fun e => ∀ l, inMask e.q l = true → 0 ≤ ((e.st.rv 2 l).toNat : Int) ∧ ((e.st.rv 2 l).toNat : Int) < (e.l.hdr.codeSize / 16 : Nat)) ∧
    Runs deep (.call { c := 0, disp := 0 }) 0 (fun e => ∀ l, inMask e.q l = true → (e.raw.t false l).rs.length < 16 ∧ (0 : Int) ≤ e.l.pkt e.sq.pc ∧ (e.l.pkt e.sq.pc : Int) < (e.l.hdr.codeSize / 16 : Nat)) ∧
    Runs deep (.ret { c := 0 }) 0 (fun e => ∀ l, inMask e.q l = true → (e.raw.t false l).rs ≠ [] ∧ (((e.raw.t false l).rs.headD 0 : Nat) : Int) < (e.l.hdr.codeSize / 16 : Nat)) :=
  ⟨runs _ _ _ (by decide +kernel) (all_lanes (by decide +kernel)), runs _ _ _ (by decide +kernel) (all_lanes (by decide +kernel)),
    runsOn _ _ _ _ rfl (by decide +kernel) (by decide +kernel) (all_lanes (by decide +kernel)), runsOn _ _ _ _ rfl (by decide +kernel) (by decide +kernel) (all_lanes (by decide +kernel))⟩
theorem meets_HeldAndYielded : (∀ i : Instr, Runs std i 0 fun e => e.raw.launch = q32.launch ∧ e.l.inCode (q32.pc + 1) = true) ∧
    ∃ s : State, Solo s q32 e32 (.expand { c := 0, d := 127, a := 0 }) ∧ q32.hdl = false ∧ e32.raw.place = .resident ∧ 127 + 0 < e32.raw.v.length ∧ s.freePool q32.g + e32.raw.grant.1 < ((List.range (0 + 1)).map fun i => 16 - (e32.raw.v.getD (127 + i) (.u 0)).gran).sum :=
  ⟨fun i => runs i _ _ (by decide +kernel) (by decide +kernel),
    { bed std q32 with stands := (0, std) :: (List.range 16).map fun n => (n + 1, { std with v := List.replicate 128 (.gr []) }) }, solo32 _ _ rfl rfl rfl, rfl, rfl, by decide +kernel, by decide +kernel⟩

/-- An entry for the page at 0x10000 in core 0's brand table and in the landing's, with every permission; n: not with write permission. -/
def entry (n : Bool) : Brand := { ctx := 0, vpn := 1, psz := 0, tag := 0, rd := true, wr := !n, ex := true, at_ := true, mx := true, np := false }
def leaf : Leaf := { size := 16, psz := 0, frame := 0x10000, rd := true, wr := true, ex := true, at_ := true, mx := true, tag := none }
def mapped (st : Stand) (sq : Squad) : State := { bed st sq with brand := [(0, [entry false])], tlb := [{ stack := 0, tag := 0, vpage := 1, leaf := leaf }] }
/-- The last four bytes of the page's first line, in an S pair with a literal. -/
def last4 : Addr := .sl 4 0x1007C
/-- The mapped page lets a lane of the bed's stand access n bytes there. -/
theorem may_here (s : State) (e : Env) (a n : Nat) (need : Need) (b : Brand) (h1 : a % n = 0) (h2 : s.rangeBad (s.partOf e.ctx) a = false) (h3 : s.brandOf e.sq.g e.ctx (s.normal a) = some b) (h4 : b.gives need = true) : e.may s a n need :=
  ⟨h1, h2, .inr ⟨b, h3, h4⟩⟩
theorem free_all (s : State) (e : Env) (o : Order) (h : ∀ l, l < 32 → inMask e.q l = true → s.blocked o e l = false ∧ (o.rel = true → e.sq.hdl = false → s.parkedOf e.sq.g e.slot l = none)) (h2 : o.rel = true → s.pendWait e.sq.g o.scope s.markOf e.sq.hdl = false) : e.free s o :=
  ⟨all_lanes h, h2⟩
/-- Every lane loads the same four bytes, with an acquire at system scope; B64 and B128 at the line's end. -/
theorem meets_Loads : ∃ s, (∀ i, Solo s q32 e32 i) ∧ e32.free s (orderOf 1 9) ∧ ∀ l, inMask e32.q l = true →
    (e32.may s (e32.st.gaddr last4 l).toNat 4 needRd ∧ s.bellOf e32.l.ctx (e32.st.gaddr last4 l).toNat = none) ∧ e32.may s (e32.st.gaddr (.sl 4 0x10070) l).toNat 16 needRd ∧ s.bellOf e32.l.ctx (e32.st.gaddr (.sl 4 0x10070) l).toNat = none :=
  ⟨mapped std q32, fun i => solo32 _ i rfl rfl rfl, free_all _ _ _ (by decide +kernel) (by decide +kernel),
    all_lanes fun l hl h => ⟨⟨may_here _ _ _ _ _ (entry false) (by revert l; decide +kernel) (by revert l; decide +kernel) (by revert l; decide +kernel) rfl, by revert l; decide +kernel⟩,
      may_here _ _ _ _ _ (entry false) (by revert l; decide +kernel) (by revert l; decide +kernel) (by revert l; decide +kernel) rfl, by revert l; decide +kernel⟩⟩
/-- 32 stores of one line, with a release. -/
theorem meets_Stores : ∃ s, (∀ i, Solo s q32 e32 i) ∧ e32.free s (orderOf 2 9) ∧ s.skidUsed q32.g + (lanesOf e32.q).length ≤ 256 ∧ ∀ l, inMask e32.q l = true →
    (e32.may s (e32.st.gaddr last4 l).toNat 4 needWr ∧ s.bellOf e32.l.ctx (e32.st.gaddr last4 l).toNat = none) ∧ e32.may s (e32.st.gaddr (.sl 4 0x10070) l).toNat 16 needWr ∧ s.bellOf e32.l.ctx (e32.st.gaddr (.sl 4 0x10070) l).toNat = none :=
  ⟨mapped std q32, fun i => solo32 _ i rfl rfl rfl, free_all _ _ _ (by decide +kernel) (by decide +kernel), by decide +kernel,
    all_lanes fun l hl h => ⟨⟨may_here _ _ _ _ _ (entry false) (by revert l; decide +kernel) (by revert l; decide +kernel) (by revert l; decide +kernel) rfl, by revert l; decide +kernel⟩,
      may_here _ _ _ _ _ (entry false) (by revert l; decide +kernel) (by revert l; decide +kernel) (by revert l; decide +kernel) rfl, by revert l; decide +kernel⟩⟩
/-- The last word of the scratchpad allocation: loads, stores with a release, atomics with both. -/
theorem meets_ScratchpadInstructions : ∃ s, MemOk s ∧ (∀ i, Solo s q32 e32 i) ∧ e32.free s { orderOf 1 2 with rel := false } ∧ e32.free s (orderOf 2 2) ∧ e32.free s (orderOf 3 2) ∧ s.scrBusy e32 = false ∧ ∀ l, inMask e32.q l = true →
    let a := (e32.st.saddr (.sl 4 0xFFC) l).toNat
    let b := (e32.st.saddr (.sl 4 0xFF0) l).toNat
    (a % 4 = 0 ∧ a + 4 ≤ s.scrSize q32.launch q32.g) ∧ (b % 16 = 0 ∧ b + 16 ≤ s.scrSize q32.launch q32.g) ∧ s.locked q32.launch q32.g a (a + 4) = false ∧ s.locked q32.launch q32.g b (b + 16) = false :=
  ⟨bed std q32, by unfold MemOk; decide +kernel, fun i => solo32 _ i rfl rfl rfl, free_all _ _ _ (by decide +kernel) (by decide +kernel), free_all _ _ _ (by decide +kernel) (by decide +kernel),
    free_all _ _ _ (by decide +kernel) (by decide +kernel), by decide +kernel, all_lanes (by decide +kernel)⟩
/-- An atomic of 4 bytes and one of 8, a CHUNK and a RED in the mapped page, with acquire and release. -/
theorem meets_GlobalAtomics : ∃ s, (∀ i, Solo s q32 e32 i) ∧ e32.free s (orderOf 3 9) ∧ s.skidUsed q32.g + (lanesOf e32.q).length ≤ 256 ∧ ∀ l, inMask e32.q l = true → ∀ n ∈ [4, 8, 16],
    e32.may s (e32.st.gaddr (.sl 4 0x10070) l).toNat n needAt ∧ region (s.normal (e32.st.gaddr (.sl 4 0x10070) l).toNat) = 0 ∧ s.bellOf e32.l.ctx (e32.st.gaddr (.sl 4 0x10070) l).toNat = none :=
  ⟨mapped std q32, fun i => solo32 _ i rfl rfl rfl, free_all _ _ _ (by decide +kernel) (by decide +kernel), by decide +kernel,
    all_lanes fun l hl h n hn => ⟨may_here _ _ _ _ _ (entry false) (by revert l n; decide +kernel) (by revert l; decide +kernel) (by revert l; decide +kernel) rfl, by revert l; decide +kernel, by revert l; decide +kernel⟩⟩
/-- PREF, CLEAN and INVAL of the mapped page; a lone lane for PREF's line. -/
theorem meets_CacheControl : ∃ s, MemOk s ∧ (∀ i, Solo s q1 e1 i) ∧ s.skidUsed q1.g + (lanesOf e1.q).length ≤ 256 ∧ (∀ l, inMask e1.q l = true → s.acqWait e1.sq.g e1.slot l e1.sq.hdl = false ∧ e1.may s (e1.st.gaddr last4 l).toNat 1 needRd ∧ region (s.normal (e1.st.gaddr last4 l).toNat) ≠ 4) ∧
    e1.q = bit 31 ∧ (let a := s.normal (e1.st.gaddr last4 31).toNat
      s.bellOf e1.l.ctx (a / 128 * 128) = none ∧ (s.l1Room (clusterOf q1.g) (s.tagAt e1 a) a).isSome = true ∧ ∃ h, s.landUse e1.l.ctx (a / 128 * 128) (s.npAt e1 a) needRd = .ok h) :=
  ⟨mapped std q1, by unfold MemOk; decide +kernel, fun i => solo1 _ i rfl rfl rfl, by decide +kernel,
    one_lane ⟨by decide +kernel, may_here _ _ _ _ _ (entry false) (by decide +kernel) (by decide +kernel) (by decide +kernel) rfl, by decide +kernel⟩, by decide +kernel, by decide +kernel, by decide +kernel,
    { sp := .dev, pa := 0x10000, tag := 0 }, by decide +kernel⟩

/-! ## Tensors, copies, requests at their home -/

/-- Bytes of an entry: base, the byte with format, rank and place, and four elements along the first axis. -/
def entryOf (base b8 : Nat) : List Byte := toBytes 8 base ++ toBytes 8 b8 ++ (toBytes 4 4 ++ toBytes 4 1 ++ toBytes 4 1 ++ toBytes 4 1) ++ (toBytes 8 1 ++ List.replicate 24 0)
/-- Identifier 1 is a tensor in scratchpad, identifier 2 one in the mapped page whose lines a discard may drop. -/
def tabled (st : Stand) (sq : Squad) : State :=
  { mapped st sq with ctxs := [(0, { bareCtx with tidbase := 0x10000 })], mem := memWrite (memWrite [] 0x10040 (entryOf 0x100 0x40)) 0x10080 (entryOf 0x10100 0x80) }
def tensor (base : Nat) (scr : Bool) : TEntry := { base := base, fmt := 0, rank := 1, scr := scr, disc := !scr, grp := 0, sb := 0, tm := 16, tn := 16, scid := 0, dims := [4, 1, 1, 1], strs := [1, 0, 0, 0] }
/-- V1 is 3, the last element. -/
def third : Stand := { std with v := std.v.set 1 (.u 3) }
def eThird : Env := envOf third q1 0x80000000
theorem soloThird (s : State) (i : Instr) (h1 : s.issue.head? = some q1) (h3 : s.stand 0 = some third) (h4 : s.launch 0 = some lau) : Solo s q1 eThird i :=
  solo s third q1 0x80000000 i h1 rfl h3 h4 (by decide +kernel) (by decide +kernel) (shut_no _ rfl _) rfl
theorem test_entries : (tabled third q1).entry 0 0 1 = .ok (tensor 0x100 true, none) ∧ (tabled third q1).entry 0 0 2 = .ok (tensor 0x10100 false, none) := by decide +kernel
theorem is_ok {ε α : Type} {x : Except ε α} (h : (match x with | .ok _ => true | .error _ => false) = true) : ∃ a, x = .ok a := by
  cases x with
  | ok a => exact ⟨a, rfl⟩
  | error e => cases h
/-- TREAD of the last element of the tensor in scratchpad, of the global one, and past the end under the zero-fill form; TQUERY. -/
theorem meets_TensorReads : ∃ s, (∀ i, Solo s q1 eThird i) ∧ eThird.free s plainOrder ∧ (∃ t, s.entry q1.g eThird.l.ctx 1 = .ok (t, none) ∧ 1 + t.rank ≤ eThird.l.hdr.vregs ∧ t.fmt ≠ 3 ∧ t.fmt ≠ 8 ∧ t.inside [(eThird.st.rv 1 31).toNat, 0, 0, 0] = true ∧ t.scr = true ∧ (t.elem [3, 0, 0, 0]).1 + (t.elem [3, 0, 0, 0]).2.2 ≤ s.scrSize q1.launch q1.g ∧ scaleAddr t none [3, 0, 0, 0] = none ∧ t.inside [4, 0, 0, 0] = false) ∧
    ∃ t, s.entry q1.g eThird.l.ctx 2 = .ok (t, none) ∧ t.inside [3, 0, 0, 0] = true ∧ elemPages (t.elem [3, 0, 0, 0]).1 (t.elem [3, 0, 0, 0]).2.2 = [(t.elem [3, 0, 0, 0]).1] ∧ eThird.may s (t.elem [3, 0, 0, 0]).1 1 needRd ∧ s.bellOf eThird.l.ctx (t.elem [3, 0, 0, 0]).1 = none :=
  ⟨tabled third q1, fun i => soloThird _ i rfl rfl rfl, free_all _ _ _ (by decide +kernel) (by decide +kernel),
    ⟨tensor 0x100 true, by decide +kernel, by decide +kernel, by decide +kernel, by decide +kernel, by decide +kernel, by decide +kernel, by decide +kernel, by decide +kernel, by decide +kernel⟩,
    tensor 0x10100 false, by decide +kernel, by decide +kernel, by decide +kernel, may_here _ _ _ _ _ (entry false) (by decide +kernel) (by decide +kernel) (by decide +kernel) rfl, by decide +kernel⟩
/-- S5 is the scratchpad address 0x40, where an entry stands. -/
def named : Stand := { std with s := std.s.set 5 0x40 }
def eNamed : Env := envOf named q1 0x80000000
theorem soloNamed (s : State) (i : Instr) (h1 : s.issue.head? = some q1) (h3 : s.stand 0 = some named) (h4 : s.launch 0 = some lau) : Solo s q1 eNamed i :=
  solo s named q1 0x80000000 i h1 rfl h3 h4 (by decide +kernel) (by decide +kernel) (shut_no _ rfl _) rfl
def discard (st : Option Nat) : WalkRec := { g := 0, slot := 0, lane := 31, hdl := false, kind := .tdiscard 2 0, status := st }
/-- TDESC of identifier 1 from scratchpad, and one whose store is still on its way or is answered; TDISCARD of identifier 2 before, while and after the slices answer. -/
theorem meets_TensorChanges : ∃ s, (∀ i, Solo s q1 eNamed i) ∧ s.walksOf eNamed = [] ∧ s.skidUsed q1.g < 256 ∧ (∀ a, a = 0x10040 → s.noBrand eNamed a = false) ∧ ((s.ctx eNamed.l.ctx).map (·.tidbase)).getD 0 + 64 * (eNamed.st.xsrc (.imm 1)).toNat = 0x10040 ∧
    s.tdescWait eNamed { c := 0, id := .imm 1, b := 5, q := 0 } = false ∧ (∃ r, (s.use q1.g eNamed.l.ctx [0x10040]).tdescRead eNamed { c := 0, id := .imm 1, b := 5, q := 0 } = .ok r) ∧ (∀ l, inMask eNamed.q l = true → s.acqWait q1.g eNamed.slot l false = false) ∧ (∃ t, s.entry q1.g eNamed.l.ctx 2 = .ok (t, none) ∧ t.scr = false ∧ t.disc = true) ∧
    (let u : State := { s with walks := [(7, discard none)] };
      (∀ i, Solo u q1 eNamed i) ∧ u.walksOf eNamed ≠ [] ∧ (∃ w ∈ u.walksOf eNamed, u.walkDone w.2 = false) ∧ Store.find 7 u.walks = some (discard none) ∧ Store.risesFrom 0 u.l2 = true) ∧
    (let u : State := { s with walks := [(7, discard (some 0))] };
      (∀ i, Solo u q1 eNamed i) ∧ u.walksOf eNamed ≠ [] ∧ ∀ w ∈ u.walksOf eNamed, u.walkDone w.2 = true) ∧
    (let u : State := { s with walks := [(7, { discard none with kind := .tdesc 8 })] };
      u.walksOf eNamed ≠ [] ∧ ∀ w ∈ u.walksOf eNamed, u.walkDone w.2 = true) :=
  ⟨{ tabled named q1 with scr := [(0, memWrite [] 0x40 (entryOf 0x100 0x40))] }, fun i => soloNamed _ i rfl rfl rfl, by decide +kernel, by decide +kernel, fun a h => by subst h; decide +kernel, by decide +kernel,
    by decide +kernel, by refine is_ok ?_; decide +kernel, all_lanes (by decide +kernel), ⟨tensor 0x10100 false, by decide +kernel, rfl, rfl⟩,
    ⟨fun i => soloNamed _ i rfl rfl rfl, by decide +kernel, by decide +kernel, by decide +kernel, by decide +kernel⟩, ⟨fun i => soloNamed _ i rfl rfl rfl, by decide +kernel, by decide +kernel⟩, by decide +kernel, by decide +kernel⟩
theorem meets_TensorInstructions : (∃ s, (∀ i, Solo s q1 eThird i) ∧ eThird.free s plainOrder) ∧ ∃ s, ∀ i, Solo s q1 eNamed i := ⟨meets_TensorReads.imp fun _ h => ⟨h.1, h.2.1⟩, meets_TensorChanges.imp fun _ h => h.1⟩

/-- The blocks of three commands: S8 to S13 of a CPY from the mapped page to the last 16 bytes of scratchpad; S16 to S24 of a CPYT; S30 to S32 of a CPYV, whose threads hold the address in V4, V5 and the destination in V6. -/
def blocks : Stand :=
  { std with
    s := ((((((std.s.set 8 0x10000).set 10 0xFF0).set 12 16).set 13 0xFEC).set 16 1).set 17 2).set 30 16 |>.set 31 0xFFC
    v := (std.v.set 4 (.u 0x10000)).set 6 (.u 0xFE0) }
def eBlocks : Env := envOf blocks q1 0x80000000
theorem soloBlocks (s : State) (i : Instr) (h1 : s.issue.head? = some q1) (h3 : s.stand 0 = some blocks) (h4 : s.launch 0 = some lau) : Solo s q1 eBlocks i :=
  solo s blocks q1 0x80000000 i h1 rfl h3 h4 (by decide +kernel) (by decide +kernel) (shut_no _ rfl _) rfl
def tiles : List Move × Option (Nat × W) := match (tabled blocks q1).tileCause eBlocks { c := 0, dir := 0, a := 16, w := some (.imm 1) } (eBlocks.tileBlock { c := 0, dir := 0, a := 16, w := some (.imm 1) }) with | .ok p => p | .error _ => ([], none)
theorem meets_Copies : ∃ s, (∀ i, Solo s q1 eBlocks i) ∧ s.skidUsed q1.g < 256 ∧ s.copies q1.g < 16 ∧ s.walksOf eBlocks = [] ∧
    (let src := (eBlocks.st.rs64 8).toNat
     let dst := (eBlocks.st.rs 10).toNat
     let n := (eBlocks.st.rs 12).toNat
     16 ≤ n ∧ n ≤ 4194304 ∧ n % 16 = 0 ∧ (∀ y ∈ pagesOf src n, eBlocks.may s y (if y = src then 16 else 1) needRd ∧ s.bellOf eBlocks.l.ctx y = none) ∧ (dst % 16 = 0 ∧ dst + n ≤ s.scrSize q1.launch q1.g) ∧ ((eBlocks.st.rs 13).toNat % 4 = 0 ∧ (eBlocks.st.rs 13).toNat + 4 ≤ s.scrSize q1.launch q1.g)) ∧
    (∃ m word, s.tileCause eBlocks { c := 0, dir := 0, a := 16, w := some (.imm 1) } (eBlocks.tileBlock { c := 0, dir := 0, a := 16, w := some (.imm 1) }) = .ok (m, word) ∧ m ≠ [] ∧ ∀ y ∈ m, ∀ a ∈ y.srcs ++ y.dsts, s.noBrand eBlocks a = false) ∧
    (let n := (eBlocks.st.rs 30).toNat
     16 ≤ n ∧ n ≤ 4096 ∧ n % 16 = 0 ∧ (∀ l, inMask eBlocks.q l = true → (∀ y ∈ pagesOf (eBlocks.st.rv64 4 l).toNat n, eBlocks.may s y (if y = (eBlocks.st.rv64 4 l).toNat then 16 else 1) needRd ∧ s.bellOf eBlocks.l.ctx y = none) ∧
       (eBlocks.st.rv 6 l).toNat % 16 = 0 ∧ (eBlocks.st.rv 6 l).toNat + n ≤ s.scrSize q1.launch q1.g) ∧ (eBlocks.st.rs 31).toNat % 4 = 0 ∧ (eBlocks.st.rs 31).toNat + 4 ≤ s.scrSize q1.launch q1.g) := by
  have one : ∀ y ∈ pagesOf 0x10000 16, eBlocks.may (tabled blocks q1) y (if y = 0x10000 then 16 else 1) needRd ∧ (tabled blocks q1).bellOf eBlocks.l.ctx y = none := by
    intro y hy
    obtain rfl : y = 0x10000 := by
      have h : pagesOf 0x10000 16 = [0x10000] := by decide +kernel
      simpa [h] using hy
    exact ⟨may_here _ _ _ _ _ (entry false) (by decide +kernel) (by decide +kernel) (by decide +kernel) rfl, by decide +kernel⟩
  exact ⟨tabled blocks q1, fun i => soloBlocks _ i rfl rfl rfl, by decide +kernel, by decide +kernel, rfl, ⟨by decide +kernel, by decide +kernel, by decide +kernel, one, by decide +kernel, by decide +kernel⟩,
    ⟨tiles.1, tiles.2, by decide +kernel, by decide +kernel, by decide +kernel⟩, by decide +kernel, by decide +kernel, by decide +kernel, one_lane ⟨one, by decide +kernel, by decide +kernel⟩, by decide +kernel, by decide +kernel⟩

/-- A request of lane 31 for bytes of the mapped page's first line. -/
def rq (kind : ReqKind) (acc : Nat) (op : Option Nat) (data : List Byte) : Req :=
  { g := 0, slot := 0, ctx := 0, tag := 0, launch := 0, pkt := 0, pslot := 0, kind := kind, acc := acc, scope := 0, rel := false, lanes := [rlane 31 0x1007C data []], op := op, tid := 0, cmd := none, team := none, ord := none, hdl := false, np := false }
def home0 : Home := { sp := .dev, pa := 0x10000, tag := 0 }
theorem meets_StoresReachTheirHome : ∃ (s : State) (r : Req), MemOk s ∧ Store.find 8 s.reqs = some r ∧ r.kind = .store ∧ r.op = none ∧ r.ord = none ∧ (∀ a ∈ r.lanes, a.parked = none) ∧ s.siblings 8 r = [(8, r)] ∧ s.reqReady 8 r = true ∧ s.fate r = .perform home0 ∧ home0.sp = .dev ∧
    s.stand (standKey r.g r.slot) = some std ∧ std.live ≠ 0 :=
  ⟨{ mapped std q1 with reqs := [(8, rq .store 2 none [1, 2, 3, 4])] }, rq .store 2 none [1, 2, 3, 4], by unfold MemOk; decide +kernel, rfl, rfl, rfl, rfl, by decide +kernel, by decide +kernel, by decide +kernel, by decide +kernel, rfl, rfl, by decide +kernel⟩
/-- S4 and S6 are 0: an address one byte past the line's last word, one beyond the address space, and one whose page lacks the permission; in a program and in a handler. -/
def handled (whole : Bool) (p : Nat) (dl : List DLane) : Stand :=
  { std with
    thr := std.thr.map fun t => { t with st := .ready }
    h := some { whole := whole, dv := { cause := 8, kind := 0, acc := 0, ghost := false, lanes := dl }, lane := 31, thr := lanes32.map fun l => if l = 31 then { Thread.gone with st := .issuing } else Thread.gone,
                saveS := [0, 0, 0, 0], saveV := List.replicate 4 (.u 0), saveP := [0, 0, 0, 0], scrS := [0, 0, 0, 0], scrV := [BitVec.ofNat 32 p, BitVec.ofNat 32 (p / 2 ^ 32), 0, 0], scrP := [false, false, false, false], liveAt := 0xFFFFFFFF, rtt := [] } }
def qh : Squad := sqd nops 0x80000000 true
def eh : Env := envOf (handled false 0 []) qh 0x80000000
theorem soloh (s : State) (i : Instr) (h1 : s.issue.head? = some qh) (h3 : s.stand 0 = some (handled false 0 [])) (h4 : s.launch 0 = some lau) (h5 : eh.shut i = false) : Lone s qh eh i 31 :=
  ⟨solo s _ qh 0x80000000 i h1 rfl h3 h4 (by decide +kernel) (by decide +kernel) h5 rfl, by decide +kernel, by decide⟩
theorem meets_AccessTraps : (∃ (s : State), (∀ i, Lone s q1 e1 i 31) ∧ e1.free s (orderOf 3 9) ∧ s.skidUsed q1.g < 256 ∧ (e1.st.gaddr (.sl 4 0x1007D) 31).toNat % 2 ≠ 0 ∧
      (let a := (e1.st.gaddr (.sl 4 0xFFFFFFF0) 31).toNat
       a % 16 = 0 ∧ s.rangeBad (s.partOf e1.l.ctx) a = true) ∧
      (let a := (e1.st.gaddr (.sl 4 0x10070) 31).toNat
       a % 16 = 0 ∧ s.rangeBad (s.partOf e1.l.ctx) a = false ∧ s.bellOf e1.l.ctx a = none ∧ region (s.normal a) ≠ 4 ∧ ∃ b, s.brandOf q1.g e1.l.ctx (s.normal a) = some b ∧ b.gives needWr = false)) ∧
    ∃ (s : State), (∀ x : MMem, x.d = 3 → Lone s qh eh (.ldB32 x) 31) ∧ eh.free s (orderOf 1 9) ∧ s.skidUsed qh.g < 256 ∧ qh.hdl = true ∧ (eh.st.gaddr (.sl 4 0x1007E) 31).toNat % 4 ≠ 0 :=
  ⟨⟨{ mapped std q1 with brand := [(0, [entry true])] }, fun i => lone1 _ i rfl rfl rfl, free_all _ _ _ (by decide +kernel) (by decide +kernel), by decide +kernel, by decide +kernel, by decide +kernel,
      by decide +kernel, by decide +kernel, by decide +kernel, by decide +kernel, entry true, by decide +kernel, rfl⟩,
    { mapped (handled false 0 []) qh with turn := .tick }, fun x hx => soloh _ _ rfl rfl rfl (by simp [Env.shut, Instr.writes, hx, vRegs]), free_all _ _ _ (by decide +kernel) (by decide +kernel), by decide +kernel, rfl, by decide +kernel⟩
def parkedLane (g : Bool) : RLane := { rlane 31 0x1007C [1] [] with parked := some 0x15, ghost := g }
def parkedRq (g : Bool) : Req := { rq .store 2 none [1] with lanes := [parkedLane g] }
/-- A request for a page that is not present; one that is parked already, of a thread that runs and of a ghost. -/
theorem meets_FaultsParkAndNotify : (∃ (s : State) (r : Req), Store.find 8 s.reqs = some r ∧ r.slot ≠ 33 ∧ region r.x ≠ 4 ∧ (∀ a ∈ r.open_, a.parked = none) ∧ r.waits = true ∧ s.siblings 8 r = [(8, r)] ∧ s.reqReady 8 r = true ∧ s.fate r = .park 0x15 ∧ s.landFull 0 = false ∧ r.stack = 0 ∧ ∃ l1 l2, s.reqs = l1 ++ (8, r) :: l2 ∧ ∀ q ∈ l1, q.2.stack ≠ 0) ∧
    ∀ ghost, ∃ (s : State) (r : Req) (a : RLane), Store.find 8 s.reqs = some r ∧ r.team = none ∧ r.acc ≠ 6 ∧ r.open_.find? (fun a => a.parked.isSome && !a.note) = some a ∧ s.stand (standKey r.g r.slot) = some std ∧ std.launch = r.launch ∧ a.ghost = ghost ∧
      s.noticed r (std.t false a.lane) = false ∧ (std.t false a.lane).st = .issuing :=
  ⟨⟨{ bed std q1 with reqs := [(8, rq .store 2 none [1])] }, rq .store 2 none [1], rfl, by decide, by decide +kernel, by decide +kernel, by decide +kernel, by decide +kernel, by decide +kernel, by decide +kernel, by decide +kernel, by decide +kernel, [], [], rfl, by decide⟩,
    fun g => ⟨{ bed std q1 with reqs := [(8, parkedRq g)] }, parkedRq g, parkedLane g, rfl, rfl, by cases g <;> decide, by cases g <;> decide +kernel, rfl, rfl, rfl, by cases g <;> decide +kernel, by cases g <;> decide +kernel⟩⟩
/-- The largest words; a chunk whose words are used up, and the last one. -/
theorem meets_AtomicFunctions : 64 ∈ [32, 64] ∧ 2 ^ 64 - 1 < 2 ^ 64 ∧ (0xFFFFFFFF : Nat) < 2 ^ 32 ∧ (0xFFFFFFFF : Nat) ≤ 0xFFFFFFFF ∧ (0xFFFFFFFE : Nat) < 0xFFFFFFFF ∧ max 0 1 ≤ 1 ∧ 0xFFFFFFFF - 0xFFFFFFFE ≤ 1 * max 0 1 := by decide

/-- A counted operation of lane 31 into V127. -/
def opn (kind : OpKind) (lane : OLane) (scr : Bool) : Op :=
  { g := 0, slot := 0, ctx := 0, launch := 0, pkt := 0, pslot := 0, kind := kind, d := 127, nreg := 1, flag := 0, q := bit 31, scope := 0, acq := false, tid := 0, scr := scr, lanes := [lane], hdl := false, since := 0 }
theorem meets_CountedOperations :
    (∃ (s : State) (r : Req) (a : RLane) (o : Op), MemOk s ∧ Store.find 8 s.reqs = some r ∧ r.op = some 7 ∧ Store.find 7 s.ops = some o ∧ o.q ≠ 0 ∧ r.lanes = [a] ∧ s.siblings 8 r = [(8, r)] ∧ a.done = false ∧ s.reqReady 8 r = true ∧ s.fate r = .perform home0 ∧ home0.sp = .dev ∧ r.kind = .chunk) ∧
    (∃ (s : State) (r : Req) (a : RLane) (o : Op), MemOk s ∧ Store.find 8 s.reqs = some r ∧ r.op = some 7 ∧ Store.find 7 s.ops = some o ∧ o.q ≠ 0 ∧ r.lanes = [a] ∧ s.siblings 8 r = [(8, r)] ∧ a.done = false ∧ s.reqReady 8 r = true ∧ s.fate r = .perform home0 ∧ o.kind = .atom ∧ o.ready = false ∧ r.kind ≠ .chunk ∧ r.kind.bank = true ∧
      s.reqs.filter (fun q => decide (q.2.op = some 7)) = [(8, r)]) ∧
    (∀ k : Option (List W), ∃ (s : State) (o : Op), o.early = k ∧ Store.find 7 s.ops = some o ∧ o.q ≠ 0 ∧ o.ready = true ∧ o.hdl = false ∧ (∀ a ∈ o.lanes, a.fault = none ∧ a.lane < 32) ∧ (o.lanes.map fun a => a.lane).Nodup ∧ o.q = maskOf (o.lanes.map fun a => a.lane) ∧ o.d + o.nreg ≤ std.v.length ∧
      s.stand (standKey o.g o.slot) = some std ∧ std.launch = o.launch ∧ std.h = none ∧ std.place = .resident ∧ (∀ n, o.d ≤ n → n < o.d + o.nreg → n ∉ std.spilledV) ∧ 16 * o.nreg ≤ s.freePool o.g) ∧
    (∃ (s : State) (o : Op), Store.find 7 s.ops = some o ∧ o.kind = .lds 4 false ∧ o.ready = false ∧ s.scrReady 7 o = true) ∧
    ∃ (s : State) (o : Op) (a : OLane), Store.find 7 s.ops = some o ∧ s.opGroup o = [(7, o)] ∧ o.kind = .load 4 false ∧ o.lanes = [a] ∧ a.fault = none ∧ a.got = [] ∧ a.scale = none ∧ 0 < a.n ∧ a.addr % 128 + a.n ≤ 128 ∧ a.np = false ∧
      (let x := 128 * lineOf a.addr
       let tag := s.opTag o x
       s.lineReady o tag (lineOf a.addr) = true ∧ s.barred tag x = none ∧ s.bellOf o.ctx x = none ∧ region x ≠ 4 ∧ Store.find (copyKey (clusterOf o.g) tag x) s.l1 = none ∧ Store.find (copyKey (sectorOf (clusterOf o.g)) tag x) s.sec = none ∧
       (∀ r ∈ s.reqs, r.2.kind ≠ .store ∧ r.2.kind ≠ .tdesc) ∧ s.landUse o.ctx x false needRd = .ok home0) := by
  refine ⟨⟨{ mapped std q1 with reqs := [(8, rq .chunk 5 (some 7) [])], ops := [(7, opn .atom (olane 31 0x1007C 8 false) false)] }, rq .chunk 5 (some 7) [], rlane 31 0x1007C [] [], opn .atom (olane 31 0x1007C 8 false) false, ?_⟩,
    ⟨{ mapped std q1 with reqs := [(8, rq (.atom 0 32) 3 (some 7) [1, 0, 0, 0])], ops := [(7, opn .atom (olane 31 0x1007C 4 false) false)] }, rq (.atom 0 32) 3 (some 7) [1, 0, 0, 0], rlane 31 0x1007C [1, 0, 0, 0] [], opn .atom (olane 31 0x1007C 4 false) false, ?_⟩,
    fun k => ⟨{ bed std q1 with ops := [(7, { opn (.load 4 false) { olane 31 0x1007C 4 false with got := [1, 2, 3, 4] } false with early := k })] }, { opn (.load 4 false) { olane 31 0x1007C 4 false with got := [1, 2, 3, 4] } false with early := k }, ?_⟩,
    ⟨{ bed std q1 with ops := [(7, opn (.lds 4 false) (olane 31 0xFFC 4 false) true)] }, opn (.lds 4 false) (olane 31 0xFFC 4 false) true, ?_⟩,
    ⟨{ mapped std q1 with ops := [(7, opn (.load 4 false) (olane 31 0x1007C 4 false) false)] }, opn (.load 4 false) (olane 31 0x1007C 4 false) false, olane 31 0x1007C 4 false, ?_⟩⟩
  · unfold MemOk; decide +kernel
  · unfold MemOk; decide +kernel
  · refine ⟨rfl, rfl, by change bit 31 ≠ 0; decide +kernel, rfl, rfl, by change ∀ a ∈ [{ olane 31 0x1007C 4 false with got := [1, 2, 3, 4] }], _; decide +kernel, by change ([31] : List Nat).Nodup; decide, rfl, by change 127 + 1 ≤ std.v.length; decide +kernel, rfl, rfl, rfl, rfl, fun n _ _ => List.not_mem_nil, by change 16 * 1 ≤ (bed std q1).freePool 0; decide +kernel⟩
  · decide +kernel
  · decide +kernel

/-! ## Copies, brands, teams, barriers -/

/-- A stand in the bed, its lone lane 31. -/
def eOf (st : Stand) : Env := envOf st q1 0x80000000
theorem loneOf (st : Stand) (s : State) (i : Instr) (h1 : s.issue.head? = some q1) (h3 : s.stand 0 = some st) (h4 : s.launch 0 = some lau) (h5 : st.mode0 false = false) (h6 : st.spilledV = []) (h7 : (eOf st).q = bit 31) : Lone s q1 (eOf st) i 31 :=
  ⟨solo s st q1 0x80000000 i h1 rfl h3 h4 (by decide) (by unfold eOf at h7; rw [h7]; decide) (shut_no _ h5 _) h6, h7, by decide⟩

def cmdOf (moves : List Move) (word : Option (Nat × W)) (bad : Bool) : Cpy :=
  { g := 0, slot := 0, lane := 31, ctx := 0, launch := 0, pkt := 0, pslot := 0, moves := moves, word := word, bad := bad, tid := 0, hdl := false }
/-- The last 16 bytes of the scratchpad to its start, or to the mapped page. -/
def unitOf (scr : Bool) : Move := { src := some 0xFF0, srcBit := 0, srcScr := true, dst := if scr then 0 else 0x10000, dstBit := 0, dstScr := scr, nbits := 128, lane := 31 }
theorem meets_CopiesComplete : (∃ (s : State) (c d : Cpy), Store.find 8 s.cpys = some c ∧ Store.find 9 s.cpys = some d ∧ c.moves = [] ∧ d.moves = [] ∧ (∀ r ∈ s.reqs, r.2.cmd ≠ some 8 ∧ r.2.cmd ≠ some 9) ∧ (c.word = none ∨ c.bad = true) ∧
      d.word = some (0xFFC, 1) ∧ d.bad = false ∧ s.locked d.launch d.g 0xFFC (0xFFC + 4) = false) ∧
    ∀ scr, ∃ (s : State) (c : Cpy) (m : Move), Store.find 8 s.cpys = some c ∧ (∀ k ∈ s.cpys, k.1 < 8 → k.2.g = c.g → k.2.begun = true ∨ k.2.moves = []) ∧ c.moves = [m] ∧ m.nbits = 128 ∧ m.srcBit = 0 ∧ m.dstBit = 0 ∧ m.src = some 0xFF0 ∧ m.srcScr = true ∧ m.dstScr = scr ∧ s.locked c.launch c.g m.dst (m.dst + 16) = false ∧ m.dst % 16 = 0 :=
  ⟨⟨{ bed std q1 with cpys := [(8, cmdOf [] (some (0, 1)) true), (9, cmdOf [] (some (0xFFC, 1)) false)] }, cmdOf [] (some (0, 1)) true, cmdOf [] (some (0xFFC, 1)) false, rfl, rfl, rfl, rfl, by decide +kernel, .inr rfl, rfl, rfl, by decide +kernel⟩,
    fun scr => ⟨{ mapped std q1 with cpys := [(7, { cmdOf [unitOf scr] none false with begun := true }), (8, cmdOf [unitOf scr] none false)] }, cmdOf [unitOf scr] none false, unitOf scr, rfl, by cases scr <;> decide +kernel, rfl, rfl, rfl, rfl, rfl, rfl, rfl, by cases scr <;> decide +kernel, by cases scr <;> decide +kernel⟩⟩
/-- A miss; commands of the physical function, of one that has the tag 0 and of one that has not, the largest included; one that is busy with nothing outstanding. -/
theorem meets_BrandsAndInvalidation : (∃ (s : State) (m : Miss), Store.find 8 s.misses = some m) ∧
    (∃ s : State, (∀ fn, (s.fn fn).invBusy = false) ∧ (∃ c ∈ s.ctxs, (s.part c.2.part).fn = 0 ∧ c.2.ctag = (s.fn 0).invCmd.toNat % 65536) ∧ ∀ fn, fn ≠ 0 → ∀ c ∈ s.ctxs, (s.part c.2.part).fn ≠ fn) ∧
    (∃ s : State, region (s.normal 0x10000) ≠ 3 ∧ s.translate 0 (s.normal 0x10000) = some leaf ∧ s.translate 0 (s.normal 0x30000) = none) ∧
    (∃ s : State, (s.fn 0).invBusy = true ∧ (s.fn 0).invCmd.toNat / 65536 % 4 ≠ 3 ∧ ∃ r ∈ s.reqs, (∃ a ∈ r.2.open_, a.parked = none) ∧ r.2.tag = (s.fn 0).invCmd.toNat % 65536) ∧
    ∃ s : State, (s.fn 32).invBusy = true ∧ s.reqs ≠ [] ∧ (∀ r ∈ s.reqs, ∀ a ∈ r.2.open_, a.parked ≠ none) ∧ s.ops = [] ∧ s.cpys = [] ∧ s.teams = [] :=
  ⟨⟨{ mapped std q1 with misses := [(8, { g := 0, ctx := 0, va := 0x10000, launch := 0 })] }, _, rfl⟩,
    ⟨mapped std q1, fun fn => rfl, ⟨(0, bareCtx), List.mem_cons_self, by decide +kernel⟩, fun fn h c hc => by
      obtain rfl : c = (0, bareCtx) := List.mem_singleton.1 hc
      exact fun e => h (e ▸ by decide +kernel)⟩,
    ⟨mapped std q1, by decide +kernel, by decide +kernel, by decide +kernel⟩,
    ⟨{ bed std q1 with fns := [(0, { Fn.reset with invBusy := true })], reqs := [(8, rq .store 2 none [1])] }, by decide +kernel, by decide +kernel, _, List.mem_cons_self, ⟨_, List.mem_cons_self, rfl⟩, by decide +kernel⟩,
    ⟨{ bed std q1 with fns := [(32, { Fn.reset with invBusy := true })], reqs := [(8, parkedRq false)] }, by decide +kernel, by decide, by decide +kernel, rfl, rfl, rfl⟩⟩

/-- V2 is 127, V3 is 4096 in all lanes; lane 31 of a team, or of none, its thread as given. -/
def inTeam (team : Option Nat) (f : Thread → Thread) : Stand :=
  { std with v := (std.v.set 2 (.u 127)).set 3 (.u 4096), thr := std.thr.set 31 (f { std.t false 31 with team := team }) }
theorem loneIn (team : Option Nat) (f : Thread → Thread) (s : State) (i : Instr) (h1 : s.issue.head? = some q1) (h3 : s.stand 0 = some (inTeam team f)) (h4 : s.launch 0 = some lau) (h7 : (eOf (inTeam team f)).q = bit 31 := by decide +kernel) : Lone s q1 (eOf (inTeam team f)) i 31 :=
  loneOf _ s i h1 h3 h4 rfl rfl h7
def mzw : List W := (Instr.mzero { c := 0, i := 7, cv := 7, a := .imm 0 }).encode
/-- Team 7, number 127, of a size. -/
def teamOf (n : Nat) : Team := Team.start 0 0 127 n 0 0 8 bareHeader
def withTeam (st : Stand) (t : Team) : State := { bed st q1 with teams := [(7, t)] }
def opOf : MOp := blankOp (teamOf 1) (0, 0, 31) 0 0 2 0
/-- Another thread waits to join a team of number n. -/
def joinAt (n : Nat) : State :=
  { bed (inTeam none id) q1 with stands := [(0, inTeam none id), (1, { std with thr := std.thr.map fun t => { t with st := .parked .join } })], joins := [{ cl := 0, ctx := 0, num := n, size := 2, g := 0, slot := 1, lane := 0 }] }
/-- TINFO 4; JOIN of a team of 4096 with one place left, of a new one, and behind another JOIN; LEAVE from a team of two, from a team of one, and from one with an operation. -/
theorem meets_TeamMembership : Runs std (.tinfo { c := 0, d := 127, b := .imm 4 }) 16 (fun e => 127 < e.st.v.length ∧ ∀ l, inMask e.q l = true → (e.st.src (.imm 4) l).toNat ≤ 4) ∧
    (let st := inTeam none id
     let e := eOf st
     (e.raw.t false 31).team = none ∧ (e.st.rv 2 31).toNat ≤ 127 ∧ 1 ≤ (e.st.src (.v 3) 31).toNat ∧ (e.st.src (.v 3) 31).toNat ≤ 4096 ∧
     (∃ (s : State) (t : Team), (∀ i, Lone s q1 e i 31) ∧ s.teamOf (clusterOf q1.g) e.l.ctx 127 = some (7, t) ∧ t.size = 4096 ∧ t.count < 4096) ∧
     (∃ (s : State) (home : Nat), (∀ i, Lone s q1 e i 31) ∧ s.teamOf (clusterOf q1.g) e.l.ctx 127 = none ∧ (∀ j ∈ s.joins, j.cl = clusterOf q1.g → j.ctx = e.l.ctx → j.num = 127 → s.joinLive j = false) ∧ (∃ j ∈ s.joins, s.joinLive j = true) ∧ s.homeFor e.l.hdr q1.g = some home) ∧
     ∃ s : State, (∀ i, Lone s q1 e i 31) ∧ s.teamOf (clusterOf q1.g) e.l.ctx 127 = none ∧ ∃ j ∈ s.joins, j.cl = clusterOf q1.g ∧ j.ctx = e.l.ctx ∧ j.num = 127 ∧ s.joinLive j = true) ∧
    ∀ t ∈ [teamOf 2, teamOf 1, { teamOf 1 with queue := [opOf] }], ∃ s : State, (∀ i, Lone s q1 (eOf (inTeam (some 7) id)) i 31) ∧ ((eOf (inTeam (some 7) id)).raw.t false 31).team = some 7 ∧ s.team 7 = some t ∧ (∀ c, c < 8 → (t.cv.getD c Cv.idle).signers = []) ∧
      (t.barN = 0 ∨ t.barN < t.size - 1) :=
  ⟨runs _ _ _ (by decide) ⟨by decide +kernel, all_lanes (by decide +kernel)⟩,
    ⟨by decide +kernel, by decide +kernel, by decide +kernel, by decide +kernel,
      ⟨withTeam (inTeam none id) { teamOf 4096 with count := 4095 }, { teamOf 4096 with count := 4095 }, fun i => loneIn none id _ i rfl rfl rfl, by decide +kernel, rfl, by decide⟩,
      ⟨joinAt 5, 0, fun i => loneIn none id _ i rfl rfl rfl, by decide +kernel, by decide +kernel, by decide +kernel, by decide +kernel⟩,
      ⟨joinAt 127, fun i => loneIn none id _ i rfl rfl rfl, by decide +kernel, _, List.mem_cons_self, by decide +kernel⟩⟩,
    fun t ht => ⟨withTeam (inTeam (some 7) id) t, fun i => loneIn _ _ _ i rfl rfl rfl, by decide +kernel, rfl, by revert t; decide +kernel, by revert t; decide +kernel⟩⟩
theorem meets_ExitEndsAThread : ∃ s : State, (∀ i, Lone s q1 e1 i 31) ∧ q1.hdl = false ∧ (e1.raw.t false 31).team = none ∧ (∀ r ∈ s.reqs, r.2.ofThread q1.g e1.slot 31 = false) ∧ (∀ c ∈ s.cpys, c.2.g ≠ q1.g) ∧ (s.ghosts q1.g).length ≤ 64 ∧
    e1.raw.live &&& ~~~(bit 31) ≠ 0 ∧ (∀ t ∈ s.teams, ∀ o ∈ t.2.queue, ∀ w ∈ o.signers, w.1 ≠ q1.g) ∧ (∀ t ∈ s.teams, ∀ o ∈ t.2.queue, ∀ w ∈ o.fl, w.1 ≠ q1.g) ∧ 31 < e1.raw.thr.length :=
  ⟨bed std q1, fun i => lone1 _ i rfl rfl rfl, rfl, by decide +kernel, by decide +kernel, by decide +kernel, by decide +kernel, by decide +kernel, by decide +kernel, by decide +kernel, by decide +kernel⟩
/-- Lane 31 of team 7, with or without a pending arrival. -/
def atBar (p : Bool) : Stand := inTeam (some 7) fun th => { th with barP := p }
/-- ARRIVE of the last but one; SYNC of the last; WAIT in a phase that has not passed, and in one that has, the last number of a phase. -/
theorem meets_Barriers : (∀ p two : Bool, ∃ (s : State) (t : Team), t.size = (if two then 2 else 1) ∧ (∀ i, Lone s q1 (eOf (atBar p)) i 31) ∧ ((eOf (atBar p)).raw.t false 31).team = some 7 ∧ s.team 7 = some t ∧ 31 < (atBar p).thr.length ∧ ((atBar p).t false 31).barP = p ∧ t.barN = 0 ∧
      t.barPh = 0 ∧ (∀ a r : Bool, (eOf (atBar p)).free s { acq := a, rel := r, scope := 9 }) ∧ (∀ m, m % 32 = 31 → ((atBar p).tw m).st ≠ .parked .bar) ∧ (∀ y ∈ s.stands, y.2.barWaiters 7 1 = []) ∧ ((atBar p).t false 31).syncW = false ∧ ((atBar p).t false 31).barPh = 0) ∧
    ∃ (s : State) (t : Team), (∀ i, Lone s q1 (eOf (atBar true)) i 31) ∧ (eOf (atBar true)).free s { acq := true, rel := false, scope := 9 } ∧ s.team 7 = some t ∧ t.barPh ≠ ((atBar true).t false 31).barPh ∧ t.barPh = 0xFFFFFFFF := by
  refine ⟨fun p two => ⟨withTeam (atBar p) (teamOf (if two then 2 else 1)), teamOf (if two then 2 else 1), rfl, fun i => loneIn _ _ _ i rfl rfl rfl (by cases p <;> decide +kernel), by cases p <;> decide +kernel, rfl, by cases p <;> decide +kernel, by cases p <;> decide +kernel, rfl, rfl,
      fun a r => ?_, ?_, ?_, by cases p <;> decide +kernel, by cases p <;> decide +kernel⟩,
    ⟨withTeam (atBar true) { teamOf 2 with barPh := 0xFFFFFFFF }, _, fun i => loneIn _ _ _ i rfl rfl rfl, free_all _ _ _ (by decide +kernel) (by decide +kernel), rfl, by decide +kernel, rfl⟩⟩
  · cases p <;> cases two <;> cases a <;> cases r <;> exact free_all _ _ _ (by decide +kernel) (by decide +kernel)
  · intro m hm
    unfold Stand.tw
    rw [hm]
    by_cases h : 32 ≤ m <;> cases p <;> simp only [h] <;> decide +kernel
  · cases p <;> cases two <;> decide +kernel

/-! ## The matrix engine, watches, messages, trees, time -/

/-- A tensor of 16 rows of 8 BF16 elements in scratchpad, identifier 1. -/
def rows : List Byte := toBytes 8 0 ++ toBytes 8 0x52 ++ (toBytes 4 8 ++ toBytes 4 16 ++ toBytes 4 1 ++ toBytes 4 1) ++ (toBytes 8 1 ++ toBytes 8 8 ++ List.replicate 16 0)
def form : Nat → Instr
  | 0 => .mma { c := 0, i := 7, cv := 7, a := .imm 1, b := .imm 1 }
  | 1 => .mmag { c := 0, i := 7, cv := 7, a := .imm 0, b := .imm 1 }
  | 2 => .mzero { c := 0, i := 7, cv := 7, a := .imm 27 }
  | 3 => .gath { c := 0, i := 3, cv := 7, a := 0, b := .imm 1 }
  | 4 => .tld { c := 0, i := 7, cv := 7, a := .imm 1, b := .imm 0 }
  | 5 => .mdrain { c := 0, i := 7, cv := 7, a := .imm 1, b := .imm 0 }
  | 6 => .mdraina { c := 0, i := 7, cv := 7, a := .imm 1, b := .imm 0, q := 0 }
  | _ => .mcommit { c := 0, cv := 7 }
def judgedAs (k : Nat) (s : State) (t : Team) (y : Signer) (v : XSrc → Nat) : Judged :=
  match k with
  | 0 => s.judgeMma t y 7 (v (.imm 1)) (v (.imm 1)) false
  | 1 => s.judgeMma t y 7 (v (.imm 0)) (v (.imm 1)) true
  | 2 => s.judgeMzero t y 7 (v (.imm 27))
  | 3 => s.judgeGath t y 3 0 (v (.imm 1))
  | 4 => s.judgeTld t y 7 (v (.imm 1)) (v (.imm 0))
  | 5 => s.judgeDrain t y false 0 7 (v (.imm 1)) (v (.imm 0))
  | 6 => s.judgeDrain t y true 0 7 (v (.imm 1)) (v (.imm 0))
  | _ => .wait
def accepts : Judged → Bool
  | .ok _ _ (some _) _ => true
  | _ => false
theorem accepts_iff (j : Judged) (h : accepts j = true) : ∃ s t op locks, j = .ok s t (some op) locks := by
  cases j with
  | wait => cases h
  | bad s c => cases h
  | ok s t op locks =>
    cases op with
    | none => cases h
    | some op => exact ⟨s, t, op, locks, rfl⟩
theorem loneAt (st : Stand) (sq : Squad) (s : State) (i : Instr) (h1 : s.issue.head? = some sq) (h2 : sq.mem = [(0, 0x80000000)]) (hg : sq.g = 0) (hh : sq.hdl = false) (h3 : s.stand 0 = some st) (h4 : s.launch sq.launch = some lau) (h5 : st.mode0 false = false)
    (h6 : st.spilledV = []) (h7 : (envOf st sq 0x80000000).q = bit 31) : Lone s sq (envOf st sq 0x80000000) i 31 :=
  ⟨solo s st sq 0x80000000 i h1 h2 h3 h4 (by rw [hg]; decide) (by rw [h7]; decide) (shut_no _ (by show st.mode0 sq.hdl = false; rw [hh]; exact h5) _) h6, h7, by decide⟩
/-- The squad of lane 31 at a matrix form. -/
def qm (k : Nat) : Squad := sqd (form k).encode 0x80000000 false
def inSeven : Stand := inTeam (some 7) id
def em (k : Nat) : Env := envOf inSeven (qm k) 0x80000000
def engine (n : Nat) : Team := { teamOf n with acc := List.replicate 8 { m := 16, n := 16, ty := 0, el := [] }, depth := [8, 8, 8, 8] }
def atForm (k n : Nat) : State := { bed inSeven (qm k) with teams := [(7, engine n)], ctxs := [(0, { bareCtx with tidbase := 0x10000, ptroot := 0 })], brand := [(0, [entry false])], tlb := [{ stack := 0, tag := 0, vpage := 1, leaf := leaf }], mem := memWrite [] 0x10040 rows }
theorem loneForm (k : Nat) (s : State) (i : Instr) (h1 : s.issue.head? = some (qm k)) (h3 : s.stand 0 = some inSeven) (h4 : s.launch 0 = some lau) (h7 : (em k).q = bit 31) : Lone s (qm k) (em k) i 31 :=
  loneAt inSeven (qm k) s i h1 rfl rfl rfl h3 h4 rfl rfl h7
def signedAt (k : Nat) : State :=
  let s := atForm k 1
  (s.onTeam 7 fun t => { t with cv := t.cv.set 7 { sig := (em k).sig, count := 1, signers := [(em k).who 31] } }).waits (em k) 31 .sign fun th =>
    let th := if k = 3 ∨ k = 4 then th.flagUp (em k).flag else th
    { th with w := { th.w with d := if k = 3 ∨ k = 4 then (em k).flag else 15, next := (em k).next } }
def signerAt (k : Nat) : Signer := let w := ((signedAt k).stand (em k).key).getD std; { w := (em k).who 31, st := w.seen (qm k).hdl, t := w.t (qm k).hdl 31, l := (em k).l, pkt := (em k).l.pkt (w.t (qm k).hdl 31).pc }
def judgeAt (k : Nat) : Judged :=
  judgedAs k (signedAt k) { engine 1 with cv := (engine 1).cv.set 7 { sig := (em k).sig, count := 1, signers := [(em k).who 31] } } (signerAt k) fun b => ((signerAt k).st.xsrc b).toNat
/-- Each form signed with the register idle, and with one other signature; each form accepted from the only member of a team; MZERO of 64 by 64 words, as many as the accumulator holds. -/
theorem meets_MatrixSigningAndAcceptance : (∀ k, k < 8 → ∃ s : State, Lone s (qm k) (em k) (form k) 31 ∧ s.scrBusy (em k) = false ∧ ((em k).raw.t false 31).team = some 7 ∧ s.team 7 = some (engine 2) ∧
      ((engine 2).cv.getD 7 Cv.idle).sig = [] ∧ 7 < (engine 2).cv.length ∧ 0 + 1 < (engine 2).size ∧ (engine 2).batches.length < 4) ∧
    (∀ k, k < 8 → ∃ (s : State) (w : Stand) (n : Nat), Lone s (qm k) (em k) (form k) 31 ∧ s.scrBusy (em k) = false ∧ ((em k).raw.t false 31).team = some 7 ∧ s.team 7 = some (engine 1) ∧ (engine 1).size = 1 ∧ (em k).raw.launch = (qm k).launch ∧
      7 < (engine 1).cv.length ∧ ((engine 1).cv.getD 7 Cv.idle).sig = [] ∧ (engine 1).queue.length < 16 ∧ (engine 1).batches.length < 4 ∧ decode (em k).sig = some (form k, n) ∧
      (signedAt k).stand (em k).key = some w ∧ (k = 7 ∨ ∃ s2 t2 op locks, judgeAt k = .ok s2 t2 (some op) locks)) ∧
    (27 < 256 ∧ (27 / 64 % 4 ≠ 3) ∧ 16 * (27 % 8 + 1) * (16 * (27 / 8 % 8 + 1)) * 4 ≤ 16384) := by
  refine ⟨fun k hk => ⟨atForm k 2, loneForm k _ _ rfl rfl rfl (by revert k; decide +kernel), by revert k; decide +kernel, by revert k; decide +kernel, rfl, by decide +kernel, by decide +kernel, by decide +kernel, by decide +kernel⟩,
    fun k hk => ⟨atForm k 1, ((signedAt k).stand (em k).key).getD std, (form k).encode.length, loneForm k _ _ rfl rfl rfl (by revert k; decide +kernel), by revert k; decide +kernel, by revert k; decide +kernel, rfl, by decide +kernel, rfl, by decide +kernel, by decide +kernel, by decide +kernel, by decide +kernel,
      ?_, ?_, ?_⟩, by decide⟩
  · revert k; decide +kernel
  · revert k; decide +kernel
  · by_cases h : k = 7
    · exact .inl h
    · exact .inr (accepts_iff _ (by have : k < 7 := by omega
                                    clear h hk; revert k; decide +kernel))

/-- A stand whose lane 31 watches the line of the mapped page's address 0x1007C as given. -/
def watch (st : WatchSt) : Watch := { tag := 0, line := lineOf 0x1007C, scope := 9, st := st, first := 5 }
def watching (w : Option WatchSt) : Stand := { std with thr := std.thr.set 31 { std.t false 31 with watch := w.map watch } }
theorem loneWatch (w : Option WatchSt) (s : State) (i : Instr) (h1 : s.issue.head? = some q1) (h3 : s.stand 0 = some (watching w)) (h4 : s.launch 0 = some lau) : Lone s q1 (eOf (watching w)) i 31 :=
  loneOf _ s i h1 h3 h4 rfl rfl (by rcases w with _ | (_ | _ | _) <;> decide +kernel)
/-- MONA of a line no thread of the core watches, and of one another stand's thread watches; MWAIT without a watch and with each kind, with an acquire; WAITA of the last word, which is 0 as V0 is or 1. -/
theorem meets_Watches : (∃ s : State, (∀ i, Lone s q1 e1 i 31) ∧ e1.may s (e1.st.gaddr last4 31).toNat 1 needRd ∧ region (s.normal (e1.st.gaddr last4 31).toNat) ≠ 2 ∧ s.acqWait q1.g e1.slot 31 q1.hdl = false ∧ (e1.raw.t false 31).watch = none ∧ 31 < e1.raw.thr.length ∧
      (∀ w ∈ s.watches q1.g, ¬ (w.1.inTable = true ∧ w.1.tag = s.tagAt e1 (s.normal (e1.st.gaddr last4 31).toNat) ∧ w.1.line = lineOf (s.normal (e1.st.gaddr last4 31).toNat))) ∧ (s.lines q1.g).length < 256) ∧
    (∃ s : State, (∀ i, Lone s q1 e1 i 31) ∧ e1.may s (e1.st.gaddr last4 31).toNat 1 needRd ∧ s.acqWait q1.g e1.slot 31 q1.hdl = false ∧
      let key (w : Watch) : Prop := w.inTable = true ∧ w.tag = s.tagAt e1 (s.normal (e1.st.gaddr last4 31).toNat) ∧ w.line = lineOf (s.normal (e1.st.gaddr last4 31).toNat)
      (∃ w ∈ s.watches q1.g, key w.1 ∧ w.1.first = 5) ∧ ∀ w ∈ s.watches q1.g, key w.1 → 5 ≤ w.1.first) ∧
    (∀ w ∈ [none, some WatchSt.armed, some .triggered, some .lost], ∃ s : State, (∀ i, Lone s q1 (eOf (watching w)) i 31) ∧ (eOf (watching w)).free s { acq := true, rel := false, scope := 9 } ∧ ((eOf (watching w)).raw.t false 31).watch = w.map watch) ∧
    ∀ differ : Bool, ∃ s : State, (∀ i, Lone s q1 e1 i 31) ∧ e1.free s { acq := true, rel := false, scope := 9 } ∧ s.scrBusy e1 = false ∧ (let a := (e1.st.saddr (.sl 4 0xFFC) 31).toNat
      a % 4 = 0 ∧ a + 4 ≤ s.scrSize q1.launch q1.g ∧ 16 ≤ s.freePool q1.g ∧ (BitVec.ofNat 32 (ofBytes (s.scrGet q1.launch q1.g a 4)) ≠ e1.st.rv 0 31 ↔ differ = true)) :=
  ⟨⟨mapped std q1, fun i => lone1 _ i rfl rfl rfl, may_here _ _ _ _ _ (entry false) (by decide +kernel) (by decide +kernel) (by decide +kernel) rfl, by decide +kernel, by decide +kernel, by decide +kernel, by decide +kernel, by decide +kernel, by decide +kernel⟩,
    ⟨{ mapped std q1 with stands := [(0, std), (1, watching (some .armed))] }, fun i => lone1 _ i rfl rfl rfl, may_here _ _ _ _ _ (entry false) (by decide +kernel) (by decide +kernel) (by decide +kernel) rfl, by decide +kernel, by decide +kernel⟩,
    fun w hw => ⟨bed (watching w) q1, fun i => loneWatch w _ i rfl rfl rfl, free_all _ _ _ (by revert w; decide +kernel) (by revert w; decide +kernel), by revert w; decide +kernel⟩,
    fun d => ⟨if d then { bed std q1 with scr := [(0, [⟨0xFFC, 1⟩])] } else bed std q1, fun i => lone1 _ i (by cases d <;> rfl) (by cases d <;> rfl) (by cases d <;> rfl), free_all _ _ _ (by cases d <;> decide +kernel) (by cases d <;> decide +kernel), by cases d <;> decide +kernel, by cases d <;> decide +kernel⟩⟩

/-- V4 to V6 of a SEND: 256 bytes at 0xF00, tag 0xFFFF, to core 383 of this chip, ring 15. -/
def sender : Stand := { std with v := ((std.v.set 4 (.u 0xF00)).set 5 (.u 0xFFFF0100)).set 6 (.u 0xF017F) }
/-- A kernel with rings: 4096 bytes of scratchpad; ring 15 has 256 bytes at 0. -/
def ringed : Machine.Launch := { lau with hdr := { lau.hdr with feature := 256 } }
def ringAt (head tail : Nat) : State :=
  let put (m : List Host.Cell) (i v : Nat) : List Host.Cell := memWrite m (0xFF0 + 4 * i) (toBytes 4 v)
  { bed std q1 with launches := [(0, ringed)], scr := [(0, put (put (put (put [] 0 0) 1 8) 2 head) 3 tail)], walks := [(7, { g := 0, slot := 0, lane := 31, hdl := false, kind := .send msg 4 0, status := none })] }
where msg : RingMsg := { launch := 0, core := 0, chip := 0, ring := 15, mtag := 0, srcCore := 0, srcChip := 0, payload := List.replicate 16 5, answer := some 7 }
def message (core n : Nat) : RingMsg := { launch := 0, core := core, chip := 0, ring := 15, mtag := 0, srcCore := 0, srcChip := 0, payload := List.replicate n 5, answer := some 7 }
/-- SEND before and after its status is known; a core with no ring; an empty ring whose tail wraps with padding; a ring that lacks one byte; one that the message fills. -/
theorem meets_Messages : (∃ s : State, (∀ i, Lone s q1 (eOf sender) i 31) ∧ s.scrBusy (eOf sender) = false ∧ s.walksOf (eOf sender) = [] ∧
      let a := ((eOf sender).st.rv 4 31).toNat
      let b := ((eOf sender).st.rv 5 31).toNat
      let c := ((eOf sender).st.rv 6 31).toNat
      16 ≤ b % 512 ∧ b % 512 ≤ 256 ∧ b / 512 % 128 = 0 ∧ c % 512 < 384 ∧ c / 2 ^ 20 = 0 ∧ a % 16 = 0 ∧ a + b % 512 ≤ s.scrSize q1.launch q1.g ∧ c / 512 % 128 = s.pkg.chip) ∧
    (∃ s : State, (∀ i, Solo s q1 e1 i) ∧ s.scrBusy e1 = false ∧ (∀ l, inMask e1.q l = true → s.sent e1 l = true) ∧ (∀ w ∈ s.walksOf e1, s.walkDone w.2 = true) ∧ 16 ≤ s.freePool q1.g) ∧
    (∃ (s : State) (m : RingMsg), m.answer = some 7 ∧ m.srcChip = s.pkg.chip ∧ s.ringBehind m = false ∧ m.payload.length = 256 ∧ MemOk s ∧ s.ring m.launch m.core m.ring = none) ∧
    (∃ (s : State) (m : RingMsg) (r : Ring), m.answer = some 7 ∧ m.srcChip = s.pkg.chip ∧ s.ringBehind m = false ∧ m.payload.length = 16 ∧ MemOk s ∧ s.ring m.launch m.core m.ring = some r ∧ r.head = 0xFFFFFFF0 ∧ r.tail = 0xFFFFFFF0 ∧ r.z - r.tail % r.z < 32 ∧
      (r.tail + 2 ^ 32 - r.head) % 2 ^ 32 + (r.z - r.tail % r.z) + 32 ≤ r.z ∧ ∀ lo hi, s.locked m.launch m.core lo hi = false) ∧
    (∃ (s : State) (m : RingMsg) (r : Ring), m.answer = some 7 ∧ m.srcChip = s.pkg.chip ∧ s.ringBehind m = false ∧ m.payload.length = 240 ∧ MemOk s ∧ s.ring m.launch m.core m.ring = some r ∧ r.z - r.tail % r.z = 256 ∧ (r.tail + 2 ^ 32 - r.head) % 2 ^ 32 + 256 = r.z) ∧
    (∃ (s : State) (m : RingMsg) (r : Ring), m.answer = some 7 ∧ m.srcChip = s.pkg.chip ∧ s.ringBehind m = false ∧ m.payload.length = 240 ∧ MemOk s ∧ s.ring m.launch m.core m.ring = some r ∧ r.z < (r.tail + 2 ^ 32 - r.head) % 2 ^ 32 + (r.z - r.tail % r.z) + 256 ∧ r.tail = 16 ∧ r.head = 0) ∧
    ∃ (s : State) (w : WalkRec), Store.find 7 s.walks = some w ∧ w.kind = .send ringAt.msg 4 0 ∧ w.status = none :=
  ⟨⟨bed sender q1, fun i => loneOf _ _ i rfl rfl rfl rfl rfl (by decide +kernel), by decide +kernel, by decide +kernel, by decide +kernel⟩,
    ⟨{ bed std q1 with walks := [(7, { g := 0, slot := 0, lane := 31, hdl := false, kind := .send ringAt.msg 4 0, status := some 3 })] }, fun i => solo1 _ i rfl rfl rfl, by decide +kernel, one_lane (by decide +kernel), by decide +kernel, by decide +kernel⟩,
    ⟨ringAt 0 0, message 383 256, rfl, rfl, by decide +kernel, by decide +kernel, by unfold MemOk; decide +kernel, by decide +kernel⟩,
    ⟨ringAt 0xFFFFFFF0 0xFFFFFFF0, message 0 16, { base := 0, z := 256, head := 0xFFFFFFF0, tail := 0xFFFFFFF0, hdr := 0xFF0 }, rfl, rfl, by decide +kernel, by decide +kernel, by unfold MemOk; decide +kernel, by decide +kernel, rfl, rfl, by decide +kernel, by decide +kernel, fun _ _ => rfl⟩,
    ⟨ringAt 0 0, message 0 240, { base := 0, z := 256, head := 0, tail := 0, hdr := 0xFF0 }, rfl, rfl, by decide +kernel, by decide +kernel, by unfold MemOk; decide +kernel, by decide +kernel, by decide +kernel, by decide +kernel⟩,
    ⟨ringAt 0 16, message 0 240, { base := 0, z := 256, head := 0, tail := 16, hdr := 0xFF0 }, rfl, rfl, by decide +kernel, by decide +kernel, by unfold MemOk; decide +kernel, by decide +kernel, by decide +kernel, rfl, rfl⟩,
    ringAt 0 0, _, rfl, rfl, rfl⟩
/-- S8 to S10 of a TREE: 64 bytes at 0, the last of two ranks. -/
def leafy : Stand := { std with s := (std.s.set 9 64).set 10 0x10001 }
def treeIn : TreeIn := { g := 0, slot := 0, launch := 0, hdl := false, buf := 0, p := 5, q := bit 31, flag := some 3, res := none }
def roundOf : TreeRound := { ctx := 0, grp := 7, round := 0xFFFFFFFF, n := 2, len := 64, op := 0, fmt := 0, vals := [(1, List.replicate 64 1)], came := 1, failed := false, ins := [treeIn] }
theorem meets_Trees : (∃ s : State, (∀ i, Solo s q1 (eOf leafy) i) ∧ (∀ r : Bool, (eOf leafy).free s { acq := false, rel := r, scope := 7 }) ∧ s.scrBusy (eOf leafy) = false ∧ s.treeCause (eOf leafy) 8 = none ∧ s.pkg.routes = [] ∧ 2 ≤ ((eOf leafy).st.rs 10).toNat / 2 ^ 16 % 4096 + 1 ∧ s.rounds = []) ∧
    ∃ (s : State) (tm : TreeMsg) (r : TreeRound) (m : TreeIn), MemOk s ∧ (s.part (s.partOf tm.ctx)).resetAt = none ∧ s.pkg.routes = [] ∧ s.rounds = [r] ∧ r.ctx = tm.ctx ∧ r.grp = tm.grp ∧ r.round = tm.round ∧ r.n = tm.n ∧ r.len = tm.len ∧ r.op = tm.op ∧ r.fmt = tm.fmt ∧ r.failed = false ∧
      Store.find tm.rank r.vals = none ∧ r.vals.length + 1 = r.n ∧ r.came + 1 = r.n ∧ r.ins = [m] ∧ m.res = none ∧ m.flag = some 3 ∧ m.hdl = false ∧ r.len % 4 = 0 ∧ m.buf + r.len ≤ s.scrSize m.launch m.g ∧ (∀ lo hi, s.locked m.launch m.g lo hi = false) ∧
      s.stand (standKey m.g m.slot) = some std ∧ std.launch = m.launch ∧ std.h = none ∧ std.place = .resident ∧ m.p < std.p.length ∧ m.p < 127 ∧ inMask m.q 31 = true ∧ (std.t false 31).st ≠ .exited :=
  ⟨⟨bed leafy q1, fun i => (loneOf leafy _ i rfl rfl rfl rfl rfl (by decide +kernel)).1, fun r => by cases r <;> exact free_all _ _ _ (by decide +kernel) (by decide +kernel), by decide +kernel, by decide +kernel, rfl, by decide +kernel, rfl⟩,
    { bed std q1 with rounds := [roundOf] }, { ctx := 0, grp := 7, round := 0xFFFFFFFF, rank := 0, n := 2, len := 64, op := 0, fmt := 0, data := List.replicate 64 2 }, roundOf, treeIn, by unfold MemOk; decide +kernel, by decide +kernel, rfl, rfl, rfl, rfl, rfl, rfl, rfl, rfl, rfl, rfl,
    by decide, rfl, rfl, rfl, rfl, rfl, rfl, by decide, by decide +kernel, fun _ _ => rfl, rfl, rfl, rfl, rfl, by decide +kernel, by decide, by decide, by decide +kernel⟩
theorem meets_MessagesAndTrees : (∃ s : State, ∀ i, Lone s q1 (eOf sender) i 31) ∧ ∃ s : State, ∀ i, Solo s q1 (eOf leafy) i := ⟨meets_Messages.1.imp fun _ h => h.1, meets_Trees.1.imp fun _ h => h.1⟩
/-- BEAT and BEATD by 1 and by 65535; RNG into the last registers; TIME 5; a system FENCE, and a FENCE.X of every path. -/
theorem meets_BeatsDrawsAndTime : (∃ s : State, (∀ i, Solo s q32 e32 i) ∧ ∀ n ∈ [1, 65535], ∀ l, inMask e32.q l = true → 1 ≤ (e32.st.src (.lit (BitVec.ofNat 32 n)) l).toNat ∧ (e32.st.src (.lit (BitVec.ofNat 32 n)) l).toNat ≤ 65535) ∧
    Runs std (.rng { c := 0, d := 124, a := 0, b := .imm 0 }) 64 (fun e => 124 + 3 < e.st.v.length) ∧ Runs std (.time { c := 0, d := 126, b := .imm 5 }) 32 (fun e => 126 + 1 < e.st.v.length ∧ ∀ l, inMask e.q l = true → (e.st.src (.imm 5) l).toNat ≤ 5) ∧
    ∃ s : State, (∀ i, Solo s q32 e32 i) ∧ e32.free s { acq := true, rel := true, scope := 9 } ∧ e32.free s { acq := false, rel := false, scope := 9 } ∧ (∀ l, inMask e32.q l = true → s.pathWait 15 e32 l = false) ∧ ∀ l, inMask e32.q l = true → s.parkedCopy q32.g e32.slot l (e32.raw.t false l) = none :=
  ⟨⟨bed std q32, fun i => solo32 _ i rfl rfl rfl, fun n hn => all_lanes (by revert n; decide +kernel)⟩, runs _ _ _ (by decide) (by decide +kernel), runs _ _ _ (by decide) ⟨by decide +kernel, all_lanes (by decide +kernel)⟩,
    ⟨bed std q32, fun i => solo32 _ i rfl rfl rfl, free_all _ _ _ (by decide +kernel) (by decide +kernel), free_all _ _ _ (by decide +kernel) (by decide +kernel), all_lanes (by decide +kernel), all_lanes (by decide +kernel)⟩⟩

/-! ## Exceptions and handlers -/

/-- A launch with one safe point, at its first packet, whose code begins at 64; its squad at that packet. -/
def coded : Machine.Launch := { lau with hdr := { lau.hdr with codeOff := 64, sptCount := 1, lvtCount := 1 } }
def qa : Squad := { q1 with pc := 4 }
def ea : Env := { envOf std qa 0x80000000 with l := coded }
/-- Page tables from address 0 on: the page at 0 is the frame 0x20000, the page at 0x10000 the frame 0x10000, with every permission. -/
def tables : List Host.Cell :=
  [(0, 0x1001), (0x1000, 0x2001), (0x2000, 0x3001), (0x3000, 0x4001), (0x4000, 0x5001), (0x5000, 0x2007F), (0x5008, 0x1007F)].foldl (fun m (e : Nat × Nat) => memWrite m e.1 (toBytes 8 e.2)) []
/-- The page at 0: the safe-point table, a packet with SP, and at 0x1000 a vector table whose entries for TRAP and BRK lead to the packet index 0x800. -/
def vectored (mode1 : Bool) (st : Stand) (sq : Squad) : State :=
  let vec (m : List Host.Cell) (c : Nat) : List Host.Cell := memWrite m (0x21000 + 8 * c) (toBytes 8 0x8001)
  { bed st sq with
    ctxs := [(0, { bareCtx with hmode := mode1, tvbase := 0x1000 })], launches := [(0, coded)],
    mem := vec (vec (vec (memWrite tables 0x20040 (toBytes 4 0x800)) 8) 15) 0x30 }
/-- TRAP 8 and 15 and BRK of lane 31 alone, the others ready, for a handler of one lane and of all. -/
def apart : Stand := { std with thr := std.thr.mapIdx fun i t => { t with st := if i = 31 then .issuing else .ready } }
theorem soloApart (s : State) (i : Instr) (h1 : s.issue.head? = some qa) (h3 : s.stand 0 = some apart) (h4 : s.launch 0 = some coded) : Solo s qa { ea with raw := apart, st := apart } i := by
  refine ⟨h1, ⟨(0, 0x80000000), rfl, by decide, ?_⟩, by decide +kernel, shut_no _ rfl _, out_nil _ rfl _⟩
  have hk : standKey 0 0 = 0 := by decide
  have e3 : s.stand (standKey qa.g 0) = some apart := by rw [show qa.g = 0 from rfl, hk]; exact h3
  have e4 : s.launch qa.launch = some coded := h4
  simp only [State.env, e3, e4]
  rfl
theorem meets_TrapEntry : ∀ mode1 : Bool, ∃ (s : State) (cx : Ctx), (∀ i, Solo s qa { ea with raw := apart, st := apart } i) ∧ qa.hdl = false ∧ apart.h = none ∧ apart.dl = [] ∧ apart.place = .resident ∧ apart.launch = qa.launch ∧ apart.thr.length = 32 ∧ s.ctx coded.ctx = some cx ∧
    cx.hmode = mode1 ∧ s.position coded (coded.pkt qa.pc) = .ok 0 0 ∧ (∀ cause ∈ [8, 15, 0x30], s.vector coded.ctx cx cause = .at_ 0x800) ∧ (∀ l, inMask (bit 31) l = false → (apart.t false l).st ≠ .issuing) ∧ ({ ea with raw := apart, st := apart : Env }).q = bit 31 := by
  refine fun m => ⟨vectored m apart qa, { bareCtx with hmode := m, tvbase := 0x1000 }, fun i => soloApart _ i rfl rfl rfl, rfl, rfl, rfl, rfl, rfl, by decide +kernel, rfl, rfl, by cases m <;> decide +kernel, by cases m <;> decide +kernel, fun l hl => ?_, by decide +kernel⟩
  by_cases h : l < 32
  · have h2 : ∀ l, l < 32 → inMask (bit 31) l = false → (apart.t false l).st ≠ .issuing := by decide +kernel
    exact h2 l h hl
  · have hn : apart.thr.length ≤ l := Nat.le_trans (Nat.le_of_eq (by decide +kernel)) (Nat.le_of_not_lt h)
    have : apart.t false l = Thread.gone := List.getD_eq_default _ _ hn
    rw [this]
    decide
/-- A handler's lane 31 with nothing outstanding; the deliveries name two lanes, one with its cause at the last slot. -/
def returning (ghost : Bool) : Stand :=
  let d (lane slot : Nat) : DLane := { lane := lane, pkt := 0, slot := slot, addr := 0, retPc := 9, retSlot := 1 }
  let st := handled false 0 [d 5 0, d 6 2]
  { st with tmaska := 0xFFFFFFFF, h := st.h.map fun h => { h with dv := { h.dv with ghost := ghost } } }
def blockOf (ghost : Bool) : Handler := (returning ghost).h.getD { whole := false, dv := { cause := 0, kind := 0, acc := 0, ghost := false, lanes := [] }, lane := 0, thr := [], saveS := [], saveV := [], saveP := [], scrS := [], scrV := [], scrP := [], liveAt := 0, rtt := [] }
theorem meets_HandlerReturn : ∀ ghost : Bool, ∃ s : State, (∀ i, Solo s qh (envOf (returning ghost) qh 0x80000000) (.rttSkip i) ∧ Solo s qh (envOf (returning ghost) qh 0x80000000) (.rtt i)) ∧ qh.hdl = true ∧ (returning ghost).h = some (blockOf ghost) ∧ (blockOf ghost).whole = false ∧ (returning ghost).dl = [] ∧
    (returning ghost).launch = qh.launch ∧ (returning ghost).live ≠ 0 ∧ (∀ l, ((blockOf ghost).thr.getD l Thread.gone).st = .exited ∨ (inMask (envOf (returning ghost) qh 0x80000000).q l = true ∧ ∀ f ∈ ((blockOf ghost).thr.getD l Thread.gone).flags, f = 0)) ∧ (blockOf ghost).rtt = [] ∧
    (returning ghost).leaving (blockOf ghost) = 0 ∧ (s.ghosts qh.g).length ≤ 64 ∧ ((blockOf ghost).dv.lanes.map fun d => d.lane).Nodup ∧ (blockOf ghost).dv.ghost = ghost ∧ (blockOf ghost).dv.kind = 0 ∧ ∀ d ∈ (blockOf ghost).dv.lanes, inMask (returning ghost).live d.lane = true := by
  refine fun g => ⟨bed (returning g) qh, fun i => ⟨solo _ _ qh 0x80000000 _ rfl rfl rfl rfl (by decide) (by cases g <;> decide +kernel) (by simp [Env.shut, Instr.writes]) rfl, solo _ _ qh 0x80000000 _ rfl rfl rfl rfl (by decide) (by cases g <;> decide +kernel) (by simp [Env.shut, Instr.writes]) rfl⟩,
    rfl, by cases g <;> decide +kernel, by cases g <;> decide +kernel, rfl, rfl, by cases g <;> decide +kernel, fun l => ?_, by cases g <;> decide +kernel, by cases g <;> decide +kernel, by cases g <;> decide +kernel, by cases g <;> decide +kernel, by cases g <;> decide +kernel, by cases g <;> decide +kernel, by cases g <;> decide +kernel⟩
  by_cases h : l < 32
  · have h2 : ∀ l, l < 32 → ((blockOf g).thr.getD l Thread.gone).st = .exited ∨ (inMask (envOf (returning g) qh 0x80000000).q l = true ∧ ∀ f ∈ ((blockOf g).thr.getD l Thread.gone).flags, f = 0) := by cases g <;> decide +kernel
    exact h2 l h
  · have hn : (blockOf g).thr.length ≤ l := Nat.le_trans (Nat.le_of_eq (by cases g <;> decide +kernel)) (Nat.le_of_not_lt h)
    exact .inl (by rw [List.getD_eq_default _ _ hn]; rfl)
def inHandler : State := { mapped (handled false 0x10000 []) qh with turn := .tick }
def eHold : Env := envOf (handled false 0x10000 []) qh 0x80000000
def eFar : Env := envOf (handled false 0x40000000000000 []) qh 0x80000000
theorem loneFar (s : State) (i : Instr) (h1 : s.issue.head? = some qh) (h3 : s.stand 0 = some (handled false 0x40000000000000 [])) (h4 : s.launch 0 = some lau) (h5 : eFar.shut i = false) : Lone s qh eFar i 31 :=
  ⟨solo s _ qh 0x80000000 i h1 rfl h3 h4 (by decide +kernel) (by decide +kernel) h5 rfl, by decide +kernel, by decide⟩
def holdOf : WalkRec := { g := 0, slot := 0, lane := 31, hdl := true, kind := .hold false 0 0 1 2, status := some 0 }
/-- A parked store of lane 31, in the hold queue of page 1. -/
def held : Req := { rq .store 2 none [1, 2, 3, 4] with lanes := [{ rlane 31 0x1007C [1, 2, 3, 4] [] with parked := some 0x15 }] }
def queued : Hold := { stack := 0, tag := 0, page := 1, items := [(8, 31)] }
def answering (drop : Bool) : State := { bed (handled false 0x10000 []) qh with mem := tables, reqs := [(8, held)], holds := [queued], walks := [(7, { holdOf with kind := .hold drop 0 0 1 2, status := none })] }
/-- LMOV in a handler, reading any lane; a write through it. RESUME of the mapped page, begun and answered; a queue of one store dropped, and performed; RESUME and DROP of an address in region 4. A write of V4 and of P4 in a handler of one lane. -/
theorem meets_HandlerPrivileges :
    (∃ s : State, Executes s qh ∧ (∀ x : RB, x.d = 3 → Clear s qh (.lmovR x) 16) ∧ (∀ e, Takes s qh e → 3 < e.st.v.length ∧ e.sq.hdl = true ∧ 127 ∉ e.raw.spilledV) ∧ ∃ e, Takes s qh e) ∧
    (∃ (s : State) (h : Handler), (∀ x : RB, Lone s qh eh (.lmovW x) 31) ∧ qh.hdl = true ∧ eh.raw.h = some h ∧ 127 ∉ eh.raw.spilledV ∧ 16 ≤ s.freePool qh.g ∧ 127 < eh.raw.program.v.length ∧ (h.whole = true → h.saveV.length = 4 ∧ 4 ≤ eh.raw.v.length)) ∧
    (∃ s : State, (∀ i, Solo s q1 e1 i) ∧ q1.hdl = false) ∧
    (∃ s : State, (∀ x : RU, x.d < 4 → Lone s qh eHold (.drop x) 31 ∧ Lone s qh eHold (.resume x) 31) ∧ qh.hdl = true ∧ eHold.free s { acq := true, rel := true, scope := 9 } ∧ s.walksOf eHold = [] ∧ (eHold.st.rv64 0 31).toNat = 0x10000 ∧ s.rangeBad (s.partOf eHold.l.ctx) 0x10000 = false ∧ s.noBrand eHold 0x10000 = false ∧ region (s.normal 0x10000) ≠ 4) ∧
    (∃ (s : State) (w : Nat × WalkRec), (∀ x : RU, x.d < 4 → Lone s qh eHold (.resume x) 31) ∧ eHold.free s { acq := true, rel := true, scope := 9 } ∧ s.walksOf eHold = [w] ∧ w.2.lane = 31 ∧ w.2.status = some 0 ∧ s.walkDone w.2 = true) ∧
    (∀ drop, ∃ (s : State) (w : WalkRec) (a : RLane), Store.find 7 s.walks = some w ∧ w.kind = .hold drop 0 0 1 2 ∧ w.status = none ∧ s.holds = [queued] ∧ queued.items = [(8, a.lane)] ∧ Store.find 8 s.reqs = some held ∧ held.lanes = [a] ∧ a.done = false ∧ MemOk s ∧
      ∃ lf, region 0x10000 ≠ 3 ∧ s.walk 0 0x10000 = some lf ∧ lf.wr = true ∧ ({ s with tlb := s.tlb.filter fun t => !decide (t.stack = queued.stack ∧ t.tag = 0 ∧ t.vpage = 1 * 65536 / 2 ^ t.leaf.size) } : State).landReq held true = .ok home0) ∧
    (∃ s : State, (∀ x : RU, x.d < 4 → Lone s qh eFar (.drop x) 31 ∧ Lone s qh eFar (.resume x) 31) ∧ qh.hdl = true ∧ eFar.free s { acq := true, rel := true, scope := 9 } ∧ s.walksOf eFar = [] ∧ s.rangeBad (s.partOf eFar.l.ctx) (eFar.st.rv64 0 31).toNat = false ∧ region (s.normal (eFar.st.rv64 0 31).toNat) = 4) ∧
    ∃ (s : State) (m : Nat × W) (h : Handler), s.issue.head? = some qh ∧ qh.mem = [m] ∧ m.1 < 32 ∧ s.env qh m = some eh ∧ eh.q ≠ 0 ∧ qh.hdl = true ∧ eh.raw.h = some h ∧ h.whole = false := by
  have lone (s : State) (i : Instr) (h1 : s.issue.head? = some qh) (h3 : s.stand 0 = some (handled false 0x10000 [])) (h4 : s.launch 0 = some lau) (h5 : eHold.shut i = false) : Lone s qh eHold i 31 :=
    ⟨solo s _ qh 0x80000000 i h1 rfl h3 h4 (by decide +kernel) (by decide +kernel) h5 rfl, by decide +kernel, by decide⟩
  have one (e : Env) (h : Takes (bed (handled false 0 []) qh) qh e) : e = eh := by
    obtain ⟨m, hm, he, -⟩ := h
    simp only [qh, sqd, List.mem_singleton] at hm
    rw [hm] at he
    exact (Option.some.inj he).symm
  refine ⟨⟨bed (handled false 0 []) qh, ⟨rfl, by decide, by decide⟩, fun x hx => ⟨by decide +kernel, fun e h => ?_⟩, fun e h => ?_, eh, (0, 0x80000000), List.mem_singleton.2 rfl, rfl, by decide +kernel⟩,
    ⟨bed (handled false 0 []) qh, _, fun x => soloh _ _ rfl rfl rfl (by simp [Env.shut, Instr.writes]), rfl, rfl, List.not_mem_nil, by decide +kernel, by decide +kernel, by decide⟩,
    ⟨bed std q1, fun i => solo1 _ i rfl rfl rfl, rfl⟩,
    ⟨inHandler, fun x hx => ⟨lone _ _ rfl rfl rfl (by simp [Env.shut, Instr.writes, hx]), lone _ _ rfl rfl rfl (by simp [Env.shut, Instr.writes, hx])⟩, rfl, free_all _ _ _ (by decide +kernel) (by decide +kernel), by decide +kernel, by decide +kernel, by decide +kernel, by decide +kernel, by decide +kernel⟩,
    ⟨{ inHandler with walks := [(7, holdOf)] }, (7, holdOf), fun x hx => lone _ _ rfl rfl rfl (by simp [Env.shut, Instr.writes, hx]), free_all _ _ _ (by decide +kernel) (by decide +kernel), by decide +kernel, rfl, rfl, by decide +kernel⟩,
    fun d => ⟨answering d, _, _, rfl, rfl, rfl, rfl, rfl, rfl, rfl, rfl, by unfold MemOk; cases d <;> decide +kernel, { leaf with frame := 0x10000 }, by decide, by cases d <;> decide +kernel, rfl, by cases d <;> decide +kernel⟩,
    ⟨{ bed (handled false 0x40000000000000 []) qh with parts := [(0, { Part.reset with dshare := 1 })] }, fun x hx => ⟨loneFar _ _ rfl rfl rfl (by simp [Env.shut, Instr.writes, hx]), loneFar _ _ rfl rfl rfl (by simp [Env.shut, Instr.writes, hx])⟩, rfl, free_all _ _ _ (by decide +kernel) (by decide +kernel), by decide +kernel, by decide +kernel, by decide +kernel⟩,
    ⟨bed (handled false 0 []) qh, (0, 0x80000000), _, rfl, rfl, by decide, rfl, by decide +kernel, rfl, rfl, rfl⟩⟩
  · rw [one e h]
    exact ⟨by simp [Env.shut, Instr.writes, hx], out_nil _ rfl _⟩
  · rw [one e h]
    exact ⟨by decide +kernel, rfl, List.not_mem_nil⟩

/-! ## The engine at work, waits that end -/

/-- Lane 31 is in team 7, whose accumulator 7 has 16 by 16 elements of one word or of two; its batch 3 is committed. -/
def elems (ty : Nat) : Team := { teamOf 2 with acc := List.replicate 8 { m := 16, n := 16, ty := ty, el := List.replicate 256 1 } }
def eSeven : Env := eOf inSeven
def batchOf (id left : Nat) : Batch := { id := id, left := left, targets := [], faults := [] }
def opAt (form : Nat) : MOp := { opOf with form := form, m := 16, n := 16, ty := 1 }
def tileOf (fmt : Nat) : Tile := { r := 16, k := 8, fmt := fmt, sb := 0, el := List.replicate 128 1 }
def errOf : Except (Nat × Nat) State → Option (Nat × Nat)
  | .error x => some x
  | .ok _ => none
theorem err_of (x : Except (Nat × Nat) State) (p : Nat × Nat) (h : errOf x = some p) : x = .error p := by
  cases x with
  | error y => exact congrArg _ (Option.some.inj h)
  | ok _ => cases h
/-- A global tensor whose page is not present; one in the mapped page; one in scratchpad. -/
def far : TEntry := { tensor 0x50000 false with dims := [16, 16, 1, 1], strs := [1, 16, 0, 0], rank := 2 }
def near : TEntry := { far with base := 0x10000 }
def inside : TEntry := { far with base := 0, scr := true }
def work (form : Nat) (a b : Operand) (fl : List (Nat × Nat × Nat × Nat)) : MOp := { opAt form with a := a, b := b, fl := fl }
def withOp (o : MOp) : State := { withTeam inSeven { elems 1 with queue := [o], tile := [tileOf 9, tileOf 10] } with ctxs := [(0, bareCtx)], brand := [(0, [entry false])], tlb := [{ stack := 0, tag := 0, vpage := 1, leaf := leaf }] }
/-- Lane 31 waits in an MWAITB whose slot is the packet's last, for the batches up to 9. -/
def awaiting : Stand := inTeam (some 7) fun t => { t with st := .parked .mwaitb, w := { t.w with a := 9, next := 3 } }
/-- A part of an ordered drain into the mapped page's first line: the element at offset 124. -/
def part (data : List Byte) (seq : Nat) (last : Bool) : Req := { rq (.drainAdd 8 0 1) 9 none data with lanes := [rlane 31 0x10000 data []], team := some 7, ord := some (seq, last) }
def parted (r : Req) (recs : List OrdRec) : State := { withOp (work 6 (.tensor 1 near none 8 0) .none []) with reqs := [(8, r)], ordRecs := recs }
def recAt (expect : Nat) (h : List (Nat × Nat)) : OrdRec := { tag := 0, line := lineOf 0x10000, expect := expect, held := h }
theorem meets_MatrixWork :
    (∀ two : Bool, ∃ (s : State) (a : Machine.Acc × Nat), (∀ i, Lone s q1 eSeven i 31) ∧ (∀ l, inMask eSeven.q l = true → s.accAt eSeven { c := 0, i := 7, a := 126, idx := .x (.lit 255) } l = .ok (7, a)) ∧ decide (a.1.ty = 2) = two ∧ a.2 = 255) ∧
    (∀ done : Bool, ∃ (s : State) (t : Team), (∀ i, Lone s q1 eSeven i 31) ∧ (eSeven.raw.t false 31).team = some 7 ∧ s.team 7 = some t ∧ (∀ y ∈ t.cv, y.signers = []) ∧ (∀ o ∈ t.queue, o.bad = none) ∧ (∀ b ∈ t.openB :: t.batches, b.faults = []) ∧ (∀ r ∈ s.reqs, r.2.team ≠ some 7) ∧
      t.batches.length = 2 ∧ (let bs := (t.batches.take (t.batches.length - 1)).map Machine.Batch.id
        if done then ∀ b ∈ t.batches, b.id ∈ bs → b.left = 0 else ∃ b ∈ t.batches, b.id ∈ bs ∧ b.left ≠ 0)) ∧
    (∀ o ∈ [work 2 .none .none [], work 0 (.tile 0 8 8 9 0) (.tile 1 8 8 10 0) [], work 4 (.tensor 1 inside none 8 0) .none [(0, 0, 31, 3)], work 5 (.tensor 1 near none 8 0) .none [], work 6 (.tensor 1 near none 8 0) .none []],
      ∃ (s : State) (t : Team), s.team 7 = some t ∧ s.engineHead 7 = some (t, o) ∧ (∀ y ∈ t.cv, y.signers = []) ∧ o.i < t.acc.length ∧ 8 * o.next < 8 ∧ o.i < t.tile.length ∧ s.stand (standKey 0 0) = some inSeven ∧ inSeven.launch = t.launch ∧
        (s.drainLines near o)[o.next]? = some 512) ∧
    (∃ (s : State) (t : Team) (o : MOp) (p : Nat × Nat), s.team 7 = some t ∧ s.engineHead 7 = some (t, o) ∧ s.engineStep 7 t o = .error p) ∧
    (∃ (s : State) (t : Team) (th : Thread), s.team 7 = some t ∧ (∀ y ∈ t.cv, y.signers = []) ∧ (∀ o ∈ t.queue, o.bad = none) ∧ (∀ b ∈ t.openB :: t.batches, b.faults = []) ∧ (∀ r ∈ s.reqs, r.2.team ≠ some 7) ∧ s.stands.filter (fun e => decide (e.2.place = .resident)) = [(0, awaiting)] ∧
      s.stand 0 = some awaiting ∧ awaiting.batchWaiters 7 = [(31, th)] ∧ s.launch awaiting.launch = some lau ∧ (∀ b ∈ t.batches, b.id ≤ th.w.a → b.left = 0) ∧ (∃ b ∈ t.batches, b.id = th.w.a) ∧ 3 ≤ th.w.next ∧ lau.inCode (th.pc + 1) = true) ∧
    (let good (s : State) (r : Req) (rc : OrdRec) : Prop := Store.find 8 s.reqs = some r ∧ r.team = some 7 ∧ (∀ a ∈ r.open_, a.parked = none) ∧ rc = (s.ordRec r.tag (lineOf r.x)).getD { tag := r.tag, line := lineOf r.x, expect := 0, held := [] } ∧ ∀ x ∈ rc.held, x.2 ≠ 8
     (∃ (s : State) (rc : OrdRec), MemOk s ∧ good s (part (124 :: toBytes 8 0xFFFFFFFF) 65535 true) rc ∧ rc.expect = 65535 ∧ rc.held = [] ∧ s.fate (part (124 :: toBytes 8 0xFFFFFFFF) 65535 true) = .perform home0) ∧
     (∃ (s : State) (rc : OrdRec), MemOk s ∧ good s (part (124 :: toBytes 8 0xFFFFFFFF) 0 false) rc ∧ rc.expect = 0 ∧ rc.held = [] ∧ s.recRoom 0 0x10000 = true ∧ s.fate (part (124 :: toBytes 8 0xFFFFFFFF) 0 false) = .perform home0) ∧
     (∃ (s : State) (rc : OrdRec), good s (part [] 1 false) rc ∧ rc.expect = 0 ∧ (∀ x ∈ rc.held, x.1 ≠ 1) ∧ s.heldRoom (part [] 1 false).x = true ∧ s.recRoom 0 (part [] 1 false).x = true) ∧
     (∃ (s : State) (rc : OrdRec) (t : Team) (o : MOp), good s (part [] 1 false) rc ∧ 1 < rc.expect ∧ s.team 7 = some t ∧ t.queue.head? = some o ∧ o.split = none) ∧
     ∃ (s : State) (rc : OrdRec), good s (part [] 1 false) rc ∧ rc.expect < 1 ∧ ∃ x ∈ rc.held, x.1 = 1) := by
  refine ⟨fun two => ⟨withTeam inSeven (elems (if two then 2 else 0)), ({ m := 16, n := 16, ty := if two then 2 else 0, el := List.replicate 256 1 }, 255), fun i => loneIn _ _ _ i rfl rfl rfl, one_lane (by cases two <;> decide +kernel), by cases two <;> decide +kernel, rfl⟩,
    fun done => ⟨withTeam inSeven { teamOf 2 with batches := [batchOf 3 (if done then 0 else 1), batchOf 4 5] }, _, fun i => loneIn _ _ _ i rfl rfl rfl, by decide +kernel, rfl, by cases done <;> decide +kernel, by cases done <;> decide +kernel, by cases done <;> decide +kernel, by cases done <;> decide +kernel, rfl, by cases done <;> decide +kernel⟩,
    fun o ho => ⟨withOp o, { elems 1 with queue := [o], tile := [tileOf 9, tileOf 10] }, rfl, by revert o; decide +kernel, by revert o; decide +kernel, by revert o; decide +kernel, by revert o; decide +kernel, by revert o; decide +kernel, rfl, rfl, by revert o; decide +kernel⟩,
    ⟨withOp (work 4 (.tensor 1 far none 8 0) .none []), { elems 1 with queue := [work 4 (.tensor 1 far none 8 0) .none []], tile := [tileOf 9, tileOf 10] }, work 4 (.tensor 1 far none 8 0) .none [], (0x15, 0x50000), rfl, by decide +kernel, err_of _ _ (by decide +kernel)⟩,
    ⟨withTeam awaiting { teamOf 2 with batches := [batchOf 9 0, batchOf 10 5] }, _, awaiting.tw 31, rfl, by decide +kernel, by decide +kernel, by decide +kernel, by decide +kernel, by decide +kernel, rfl, by decide +kernel, rfl, by decide +kernel, by decide +kernel, by decide +kernel, by decide +kernel⟩,
    ⟨parted (part (124 :: toBytes 8 0xFFFFFFFF) 65535 true) [recAt 65535 []], recAt 65535 [], by unfold MemOk; decide +kernel, ⟨rfl, rfl, by decide +kernel, by decide +kernel, by decide +kernel⟩, rfl, rfl, by decide +kernel⟩,
    ⟨parted (part (124 :: toBytes 8 0xFFFFFFFF) 0 false) [], recAt 0 [], by unfold MemOk; decide +kernel, ⟨rfl, rfl, by decide +kernel, by decide +kernel, by decide +kernel⟩, rfl, rfl, by decide +kernel, by decide +kernel⟩,
    ⟨parted (part [] 1 false) [recAt 0 [(2, 9)]], recAt 0 [(2, 9)], ⟨rfl, rfl, by decide +kernel, by decide +kernel, by decide +kernel⟩, rfl, by decide +kernel, by decide +kernel, by decide +kernel⟩,
    ⟨parted (part [] 1 false) [recAt 2 []], recAt 2 [], _, _, ⟨rfl, rfl, by decide +kernel, by decide +kernel, by decide +kernel⟩, by decide, rfl, rfl, rfl⟩,
    ⟨parted (part [] 1 false) [recAt 0 [(1, 9)]], recAt 0 [(1, 9)], ⟨rfl, rfl, by decide +kernel, by decide +kernel, by decide +kernel⟩, by decide, by decide +kernel⟩⟩

/-- Lane 31 parked at an instruction in the packet's last slot, with its destination and what it keeps. -/
def parkedIn (w : Wait) (team : Option Nat) (f : Thread → Thread) : Stand := inTeam team fun t => f { t with st := .parked w, w := { t.w with d := 94, next := 3 } }
def armed (st : WatchSt) : Stand := parkedIn .mwait none fun t => { t with watch := some (watch st), mwdl := 1 }
def seeing : Stand := parkedIn .waita none fun t => { t with w := { t.w with hit := some 5 } }
def joining : Stand := { parkedIn .join none id with thr := (parkedIn .join none id).thr.set 30 { std.t false 30 with st := .parked .join } }
def joinOf : JoinWait := { cl := 0, ctx := 0, num := 127, size := 4096, g := 0, slot := 0, lane := 31 }
def joinBy : JoinWait := { joinOf with num := 5, lane := 30 }
/-- The thread of joinOf waits, and goes on inside the code. -/
def joinable (s : State) : Prop := joinOf.cl = 0 ∧ clusterOf joinOf.g = 0 ∧ joinOf.slot < 32 ∧ joinOf.lane < 32 ∧ s.joinLive joinOf = true ∧ s.stand (standKey joinOf.g joinOf.slot) = some joining ∧ joining.place = .resident ∧ s.launch joining.launch = some lau ∧
  lau.inCode (joining.t false joinOf.lane).onward.1 = true
def leaving : Stand := parkedIn .leave (some 7) id
/-- Two lanes are held at packet 0, one at packet 1; the others have ended. -/
def recon : Stand := { std with thr := std.thr.mapIdx fun i t => if i < 2 then { t with st := .held } else if i = 31 then { t with st := .held, pc := 1 } else Thread.gone }
/-- The one thread of a handler is held. -/
def reconIn : Stand := let st := handled false 0 []; { st with h := st.h.map fun h => { h with thr := h.thr.map fun t => if t.st = .exited then t else { t with st := .held } } }
def caught (ghost : Bool) : Stand :=
  let d : Delivery := { cause := 0x15, kind := 1, acc := 1, ghost := ghost, lanes := [{ lane := 31, pkt := 0, slot := 1, addr := 5, retPc := 4, retSlot := 0 }] }
  { std with thr := std.thr.map fun t => { t with st := .ready }, dl := [d] }
/-- A watch written and lost, one that is armed at its deadline, a word seen; a JOIN that forms a team of 4096; a team that all have left; threads held at two packets; a late fault of a live thread and of a ghost, in both modes. -/
theorem meets_WaitsEnd :
    (∀ k ∈ [WatchSt.armed, .triggered, .lost], ∃ (s : State) (t : Thread), s.stand (standKey 0 0) = some (armed k) ∧ (armed k).place = .resident ∧ (armed k).waiting 31 .mwait = some (31, t) ∧ s.launch (armed k).launch = some lau ∧ lau.inCode t.onward.1 = true ∧
      ((armed k).t false 31).watch = some (watch k) ∧ (watch k).st = k ∧ t.mwdl ≠ 0 ∧ t.mwdl ≤ s.now) ∧
    (∃ (s : State) (t : Thread), s.stand (standKey 0 0) = some seeing ∧ seeing.place = .resident ∧ seeing.waiting 31 .waita = some (31, t) ∧ s.launch seeing.launch = some lau ∧ lau.inCode t.onward.1 = true ∧ seeing.waiting 31 .mwait = none ∧ t.w.hit = some 5 ∧ t.w.d ∉ seeing.spilledV ∧ 16 ≤ s.freePool 0) ∧
    (∃ (s : State) (home : Nat), (s.joins.filter s.joinLive).filter (fun k => decide (k.cl = 0)) = [joinOf, joinBy] ∧ ¬ (joinBy.ctx = joinOf.ctx ∧ joinBy.num = joinOf.num) ∧ joinable s ∧ s.teamOf 0 joinOf.ctx joinOf.num = none ∧ s.homeFor lau.hdr joinOf.g = some home) ∧
    (∃ (s : State) (t : Team), s.joins = [joinOf] ∧ joinable s ∧ s.teamOf 0 joinOf.ctx joinOf.num = some (7, t) ∧ s.team 7 = some t ∧ joinOf.size = t.size ∧ t.count < t.size) ∧
    (∃ (s : State) (t : Team), s.team 7 = some t ∧ t.size = 0 ∧ t.queue = [] ∧ s.leaverFault 7 t (0, 0, 31) = none ∧ (s.stands.filter fun e => decide (e.2.place = .resident)).findSome? (fun e => (e.2.lastLeaver 7).map fun n => (e.1, e.2, n)) = some (0, leaving, 31) ∧ s.stand 0 = some leaving ∧ (leaving.t false 31).w.next ≠ 99 ∧
      s.launch leaving.launch = some lau ∧ lau.inCode (leaving.t false 31).onward.1 = true) ∧
    (∃ s : State, s.stand (standKey 0 0) = some recon ∧ recon.place = .resident ∧ recon.h = none ∧ recon.thr.length = 32 ∧ s.launch recon.launch = some lau ∧ (∀ t ∈ recon.thr, t.st = .held ∨ t.st = .exited) ∧ (∃ t ∈ recon.thr, t.st = .held ∧ t.pc = 0) ∧ (∃ t ∈ recon.thr, t.st = .held ∧ t.pc = 1) ∧
      (∀ t ∈ recon.thr, t.st = .held → lau.pkt 0 ≤ lau.pkt t.pc) ∧ (∀ t ∈ recon.thr, t.st = .held → lau.pkt t.pc = lau.pkt 0 → t.pc = 0) ∧ lau.inCode (0 + 1) = true) ∧
    (∃ (s : State) (h : Handler), s.stand (standKey 0 0) = some reconIn ∧ reconIn.place = .resident ∧ reconIn.h = some h ∧ h.thr.length = 32 ∧ s.launch reconIn.launch = some lau ∧ (∀ t ∈ h.thr, t.st = .held ∨ t.st = .exited) ∧ (∃ t ∈ h.thr, t.st = .held) ∧ ∀ t ∈ h.thr, t.st = .held → t.pc = 0) ∧
    ∀ mode1 ghost : Bool, ∃ (s : State) (d : Delivery) (cx : Ctx), s.stand (standKey 0 0) = some (caught ghost) ∧ (caught ghost).h = none ∧ (caught ghost).dl = [d] ∧ d.ghost = ghost ∧ (caught ghost).place = .resident ∧ (caught ghost).thr.length = 32 ∧ s.launch (caught ghost).launch = some coded ∧ s.ctx coded.ctx = some cx ∧
      cx.hmode = mode1 ∧ d.cause ≠ 0x38 ∧ d.lanes ≠ [] ∧ (∀ x ∈ d.lanes, x.lane < 32 ∧ s.position coded x.pkt = .ok 0 0) ∧ (d.lanes.map fun x => x.lane).Nodup ∧ s.vector coded.ctx cx 0x15 = .at_ 0x800 ∧ d.cause = 0x15 ∧ (caught ghost).busy = false := by
  refine ⟨fun k hk => ⟨{ bed (armed k) q1 with now := 1 }, (armed k).tw 31, rfl, rfl, by revert k; decide +kernel, rfl, by revert k; decide +kernel, by revert k; decide +kernel, rfl, by revert k; decide +kernel, by revert k; decide +kernel⟩,
    ⟨bed seeing q1, seeing.tw 31, rfl, rfl, by decide +kernel, rfl, by decide +kernel, by decide +kernel, by decide +kernel, List.not_mem_nil, by decide +kernel⟩,
    ⟨{ bed joining q1 with joins := [joinOf, joinBy] }, 0, by decide +kernel, by decide, by unfold joinable; decide +kernel, by decide +kernel, by decide +kernel⟩,
    ⟨{ withTeam joining { teamOf 4096 with count := 4095 } with joins := [joinOf] }, _, rfl, by unfold joinable; decide +kernel, by decide +kernel, rfl, rfl, by decide⟩,
    ⟨withTeam leaving (teamOf 0), teamOf 0, rfl, rfl, rfl, by decide +kernel, by decide +kernel, rfl, by decide +kernel, rfl, by decide +kernel⟩,
    ⟨bed recon q1, rfl, rfl, rfl, by decide +kernel, rfl, by decide +kernel, by decide +kernel, by decide +kernel, by decide +kernel, by decide +kernel, by decide +kernel⟩,
    ⟨bed reconIn q1, _, rfl, rfl, rfl, by decide +kernel, rfl, by decide +kernel, by decide +kernel, by decide +kernel⟩,
    fun m g => ⟨let s := vectored m (caught g) q1;
        { s with mem := memWrite s.mem (0x21000 + 8 * 0x15) (toBytes 8 0x8001) }, _, { bareCtx with hmode := m, tvbase := 0x1000 }, rfl, rfl, rfl, rfl, rfl, by cases g <;> decide +kernel, rfl, rfl, rfl, by cases g <;> decide, by cases g <;> decide, by cases m <;> cases g <;> decide +kernel, by cases g <;> decide, by cases m <;> cases g <;> decide +kernel, rfl, by cases g <;> decide +kernel⟩⟩

/-! ## Spill, save and switch -/

def wanting (need : Nat) : Stand := { std with need := need, thr := std.thr.map fun t => { t with st := .parked .gran } }
/-- A stand whose registers hold a value of each shape, V127 the widest. -/
def shaped : Stand := { std with v := ((std.v.set 124 (.a 1 2)).set 125 (.g8 1 (List.replicate 32 2))).set 126 (.g16 1 (List.replicate 32 2)) |>.set 127 (.gr (List.replicate 32 2)), thr := std.thr.map fun t => { t with st := .ready } }
def okOf : Except Nat (Option Stand) → Option Stand
  | .ok w => w
  | .error _ => none
theorem ok_of (x : Except Nat (Option Stand)) (w : Stand) (h : okOf x = some w) : x = .ok (some w) := by
  cases x with
  | error y => cases h
  | ok v => exact congrArg _ h
theorem ok_some (x : Except Nat (Option Stand)) (h : (okOf x).isSome = true) : ∃ w, x = .ok (some w) := ⟨_, ok_of x _ (Option.eq_some_of_isSome h)⟩
def spilled : Stand := { shaped with place := .spilled, need := 16 }
def spilledState : State := { bed spilled q1 with issue := [], tlb := (List.range 8).map fun k => { stack := k, tag := 0, vpage := 0, leaf := leaf } }
/-- Its record holds nothing: its registers are 0. -/
def returned : Stand := { spilled with v := List.replicate 128 (.u 0) }
theorem spilled_loads : spilledState.loadStand 0 (slotOf 0) spilled true = .ok (some returned) := ok_of _ _ (by decide +kernel)
theorem returned_free : ∀ t ∈ returned.thr, t.team = none ∧ t.st ≠ .parked .waita := by decide +kernel
theorem returned_live : returned.live ≠ 0 := by decide +kernel
theorem meets_return : ∃ s : State, (s.standsOn 0).filter (fun e => decide (e.2.place = .spilled)) = [(0, spilled)] ∧ (∀ e ∈ s.standsOn 0, e.2.place = .resident → e.2.need = 0 ∧ e.2.reload = []) ∧ spilled.need ≤ s.freePool 0 ∧ s.loadStand 0 (slotOf 0) spilled true = .ok (some returned) ∧ returned.dl = [] ∧ returned.h = none ∧
      returned.live ≠ 0 ∧ (∀ t ∈ returned.thr, t.team = none ∧ t.st ≠ .parked .waita) ∧ s.rounds = [] :=
  ⟨spilledState, by decide +kernel, by decide +kernel, by decide +kernel, spilled_loads, rfl, rfl, returned_live, returned_free, rfl⟩
theorem meets_Spill :
    (∃ s : State, s.stand (standKey 0 0) = some (wanting 32640) ∧ (wanting 32640).place = .resident ∧ (wanting 32640).need ≠ 0 ∧ s.freePool 0 = 32640) ∧
    (∃ s : State, s.stand (standKey 0 0) = some (wanting 32768) ∧ (wanting 32768).place = .resident ∧ s.freePool 0 < 32768 ∧ s.launch (wanting 32768).launch = some lau ∧ (s.stands.map fun e => e.1).Nodup ∧ (1, shaped) ∈ s.standsOn 0 ∧ shaped.place = .resident ∧ shaped.need = 0 ∧ 0 < shaped.hold ∧
      (s.launch shaped.launch).map (fun l => l.ctx) = some lau.ctx ∧ (∀ e ∈ s.standsOn 0, e.2.need = 0 → e.2.hold < shaped.hold ∨ (e.2.hold = shaped.hold ∧ e.1 ≤ 1)) ∧ shaped.busy = false ∧ shaped.h = none ∧ s.drained 0 (slotOf 1) = true) ∧
    (∃ (s : State) (st : Stand), s.stand (standKey 0 0) = some st ∧ st.place = .resident ∧ st.need ≠ 0 ∧ s.freePool 0 < st.need ∧ s.launch st.launch = some lau ∧ s.standsOn 0 = [(standKey 0 0, st)] ∧ (∀ t ∈ st.thr, t.st ≠ .parked .gran) ∧ st.h = none ∧ 127 < st.v.length ∧ 1 < (st.v.getD 127 (.u 0)).code ∧ 127 ∉ st.spilledV ∧
      ∀ j, 127 < j → j < st.v.length → (st.v.getD j (.u 0)).code ≤ 1 ∨ j ∈ st.spilledV) ∧
    (∃ (s : State) (st : Stand), s.stand (standKey 0 0) = some st ∧ st.place = .resident ∧ st.reload = [127] ∧ st.spilledV = [127, 126] ∧ ({ st with spilledV := st.spilledV.filter fun i => !(st.reload.contains i), reload := [] } : Stand).hold - st.hold ≤ s.freePool 0 ∧ ∃ b, s.loadStand 0 0 st true = .ok (some b)) ∧
    ∃ s : State, (s.standsOn 0).filter (fun e => decide (e.2.place = .spilled)) = [(0, spilled)] ∧ (∀ e ∈ s.standsOn 0, e.2.place = .resident → e.2.need = 0 ∧ e.2.reload = []) ∧ spilled.need ≤ s.freePool 0 ∧ s.loadStand 0 (slotOf 0) spilled true = .ok (some returned) ∧ returned.dl = [] ∧ returned.h = none ∧
      returned.live ≠ 0 ∧ (∀ t ∈ returned.thr, t.team = none ∧ t.st ≠ .parked .waita) ∧ s.rounds = [] := by
  refine ⟨⟨bed (wanting 32640) q1, rfl, rfl, by decide, by decide +kernel⟩,
    ⟨{ bed (wanting 32768) q1 with stands := [(0, wanting 32768), (1, shaped)], issue := [] }, rfl, rfl, by decide +kernel, rfl, by decide, by decide +kernel, rfl, rfl, by decide +kernel, rfl, by decide +kernel, by decide +kernel, rfl, by decide +kernel⟩,
    ⟨bed { shaped with need := 32768 } q1, _, rfl, rfl, by decide, by decide +kernel, rfl, rfl, by decide +kernel, rfl, by decide +kernel, by decide +kernel, List.not_mem_nil, fun j h1 h2 => ?_⟩,
    ⟨{ spilledState with stands := [(0, { shaped with spilledV := [127, 126], reload := [127] })] }, _, rfl, rfl, rfl, rfl, by decide +kernel, ok_some _ (by decide +kernel)⟩,
    meets_return⟩
  have : ({ shaped with need := 32768 } : Stand).v.length = 128 := by decide +kernel
  omega
def wholeReg : VReg → Prop
  | .u _ => True
  | .a _ _ => True
  | .g8 _ d => d.length = 32
  | .g16 _ d => d.length = 32
  | .gr v => v.length = 32
def isWhole : VReg → Bool
  | .u _ => true
  | .a _ _ => true
  | .g8 _ d => decide (d.length = 32)
  | .g16 _ d => decide (d.length = 32)
  | .gr v => decide (v.length = 32)
theorem whole_of (r : VReg) (h : isWhole r = true) : wholeReg r := by
  cases r <;> simpa [isWhole, wholeReg] using h
theorem shaped_whole : shaped.v.all isWhole = true := by decide +kernel
/-- Registers of every shape. -/
theorem meets_RecordsReadBack : (∀ r ∈ shaped.v, wholeReg r) ∧ shaped.v.length ≤ 128 ∧ ([0, 1, 2, 3, 4].all fun c => shaped.v.any fun r => decide (r.code = c)) = true :=
  ⟨fun r hr => whole_of r (List.all_eq_true.1 shaped_whole r hr), by decide +kernel, by decide +kernel⟩
/-- The shadow of core 0 holds an empty set of context 1; the stand's threads are parked. -/
def other : OutSet := { g := 0, ctx := 1, stands := [], sets := [], shadow := true, writing := false, since := 0 }
def resting (st : TSt) (f : Stand → Stand) : Stand := f { std with thr := std.thr.map fun t => { t with st := st, pc := 4 } }
def onCore (st : Stand) (o : OutSet) : State :=
  let s := vectored false st q1
  { s with issue := [], outs := [o], now := 10000, parts := [(0, { Part.reset with slice := 1 })], mem := memWrite s.mem (0x21000 + 8 * 0x38) (toBytes 8 0x8001) }
def goingOut (past : Bool) : Switch := { g := 0, ctx := 0, cause := 0x3A, budgetEnd := some 0, past := past }
/-- The threshold passed, and no live thread; a slice that ends with no stand, with a handler, and without; a budget that is over. -/
theorem meets_SwitchStarts :
    (∀ st ∈ [TSt.parked .mwait, .exited], ∃ (s : State) (cx : Ctx), s.loaded 0 = some other ∧ Store.find 0 s.resident = some (0, 0) ∧ (∀ w ∈ s.switches, w.g ≠ 0) ∧ s.ctx 0 = some cx ∧
      (let ts (st : Stand) : List Thread := ((lanesOf (st.live &&& st.ex)).map fun l => st.t false l).filter fun t => decide (t.dbg ≠ .held)
       let parked (st : Stand) : List Thread := (ts st).filter fun t => decide (0 < st.need ∧ st.place = .resident) || match t.st with | .parked _ => true | _ => false
       (st = .exited → ∀ e ∈ s.standsOf 0 0, e.2.live = 0) ∧ (st ≠ .exited → cx.park * ((s.standsOf 0 0).map fun e => (ts e.2).length).sum < 100 * ((s.standsOf 0 0).map fun e => (parked e.2).length).sum))) ∧
    (∃ s : State, s.sliceOver 0 = true ∧ s.standsOf 0 0 = []) ∧
    (∃ s : State, s.sliceOver 0 = true ∧ s.standsOf 0 0 = [(0, handled false 0 [])] ∧ (handled false 0 []).live ≠ 0 ∧ (handled false 0 []).h.isSome = true) ∧
    (let st := resting .ready id
     ∃ (s : State) (cx : Ctx), s.sliceOver 0 = true ∧ Store.find 0 s.resident = some (0, 0) ∧ s.ctx 0 = some cx ∧ s.standsOf 0 0 = [(0, st)] ∧ s.stand 0 = some st ∧ st.live ≠ 0 ∧ st.h = none ∧ st.dl = [] ∧ st.place = .resident ∧ st.thr.length = 32 ∧ s.launch st.launch = some coded ∧ st.sliceLanes coded ≠ [] ∧
       (∀ x ∈ st.sliceLanes coded, s.position coded x.pkt = .ok 0 0) ∧ s.vector 0 cx 0x38 = .at_ 0x800) ∧
    ∃ s : State, s.switchOn 0 = some (goingOut false) ∧ (goingOut false).budgetEnd = some 0 ∧ (goingOut false).past = false ∧ 0 ≤ s.cyc 0 ∧ (s.stands.map fun e => e.1).Nodup :=
  ⟨fun st h => ⟨onCore (resting st id) other, _, rfl, rfl, by revert st; decide +kernel, rfl, by revert st; decide +kernel⟩,
    ⟨{ onCore std other with stands := [] }, by decide +kernel, by decide +kernel⟩,
    ⟨onCore (handled false 0 []) other, by decide +kernel, by decide +kernel, by decide +kernel, rfl⟩,
    ⟨onCore (resting .ready id) other, _, by decide +kernel, rfl, rfl, by decide +kernel, rfl, by decide +kernel, rfl, rfl, rfl, by decide +kernel, rfl, by decide +kernel, by decide +kernel, by decide +kernel⟩,
    ⟨{ bed std q1 with switches := [goingOut false] }, rfl, rfl, rfl, Nat.le_refl _, by decide⟩⟩
/-- A full save with its cause; a stand that comes in from the shadow; a set that is being written. -/
theorem meets_Swap :
    (let st := resting (.parked .mwait) fun st => { st with full := true, rcause := 0x39 }
     ∃ s : State, s.switchOn 0 = some (goingOut true) ∧ s.loaded 0 = some other ∧ other.stands = [] ∧ s.standsOf 0 0 = [(0, st)] ∧ s.stand 0 = some st ∧ (s.stands.map fun e => e.1).Pairwise (· < ·) ∧ s.mayLeave 0 st = true ∧ s.launch st.launch = some coded ∧ st.full = true ∧ st.rcause ≠ 0 ∧
       st.v.length = coded.hdr.vregs ∧ st.s.length = coded.hdr.sregs ∧ st.p.length = coded.hdr.pregs) ∧
    (let st := resting .stopped id
     ∃ (s : State) (o : OutSet), s.switchOn 0 = some (goingOut true) ∧ s.loaded 0 = some o ∧ o.stands = [(95, st)] ∧ s.standsOf 0 0 = [] ∧ s.stand (standKey 0 (95 % 32)) = none ∧ st.dl = [] ∧ st.h = none ∧ st.live ≠ 0 ∧ (∀ t ∈ st.thr, t.team = none ∧ t.st ≠ .parked .waita) ∧ s.rounds = []) ∧
    ∃ (s : State) (o : OutSet), s.shadow 0 = some o ∧ o.writing = true := by
  exact ⟨⟨{ onCore (resting (.parked .mwait) fun st => { st with full := true, rcause := 0x39 }) other with switches := [goingOut true] }, rfl, rfl, rfl, by decide +kernel, rfl, by decide, by decide +kernel, rfl, rfl, by decide, by decide +kernel, by decide +kernel, by decide +kernel⟩,
    ⟨{ onCore std { other with stands := [(95, resting .stopped id)] } with switches := [goingOut true], stands := [] }, _, rfl, rfl, rfl, rfl, rfl, rfl, rfl, by decide +kernel, by decide +kernel, rfl⟩,
    ⟨onCore std { other with writing := true }, _, rfl, rfl⟩⟩
theorem meets_SpillSaveAndSwitch : (∃ s : State, s.stand (standKey 0 0) = some (wanting 32640)) ∧ shaped.v.length ≤ 128 ∧ ∃ s : State, s.sliceOver 0 = true := ⟨meets_Spill.1.imp fun _ h => h.1, meets_RecordsReadBack.2.1, meets_SwitchStarts.2.1.imp fun _ h => h.1⟩

/-! ## Queues and launches -/

/-- An answer without an error, of which p holds. -/
def okB {α : Type} (x : Except Nat α) (p : α → Bool) : Bool := match x with | .ok a => p a | .error _ => false
theorem ok_ex {α : Type} {x : Except Nat α} {p : α → Bool} (h : okB x p = true) : ∃ a, x = .ok a ∧ p a = true := by
  cases x with
  | ok a => exact ⟨a, rfl, h⟩
  | error _ => cases h
def isErr {α : Type} (n : Nat) (x : Except Nat α) : Bool := match x with | .ok _ => false | .error e => decide (e = n)
theorem is_err {α : Type} {x : Except Nat α} {n : Nat} (h : isErr n x = true) : x = .error n := by
  cases x with
  | ok a => cases h
  | error e => exact congrArg _ (of_decide_eq_true h)
/-- Bytes with values at offsets, by offset, length and value. -/
def fields (n : Nat) (fs : List (Nat × Nat × Nat)) : List Byte := fs.foldl (fun b f => b.take f.1 ++ toBytes f.2.1 f.2.2 ++ b.drop (f.1 + f.2.1)) (List.replicate n 0)
/-- Queue 511, whose 16 slots begin at the mapped page; TL is one ahead. -/
def queue : Queue := { Queue.reset with num := 511, base := 0x10000, tl := 1, en := true }
def atSlot (q : Queue) (b : List Byte) : State := { bed std q1 with issue := [], queues := [(511, q)], mem := memWrite tables 0x10000 b }
/-- A kernel's header at 0x10400, with the whole argument block. -/
def header : List Byte :=
  fields 256 [(0, 4, 0x564F0384), (4, 2, 1), (6, 2, 256), (0x0C, 4, 0x100), (0x10, 16, 1), (0x20, 4, 16), (0x28, 4, 8 + 256 * 64), (0x2C, 4, 0x10080), (0x34, 4, 128), (0x3C, 4, 0x110), (0x40, 4, 1), (0x44, 4, 0x120), (0x48, 4, 1)]
def kernel (code : Nat) : List Byte := fields 64 [(0, 1, 1), (4, 4, 32), (8, 2, 1), (10, 2, 1), (0x10, 8, code), (0x18, 8, 0x10800), (0x3C, 4, 1)]
def packet (type : Nat) : List Byte := fields 64 [(0, 1, type), (0x3C, 4, 1)]
def atKernel (code : Nat) : State := let s := atSlot queue (kernel code); { s with mem := memWrite s.mem 0x10400 header }
theorem meets_TailWrite : ∀ en, ∃ s : State, s.queueBy 0 511 = some 511 ∧ s.queueShut (s.queue 511) = false ∧ (s.queue 511).en = en ∧ (s.queue 511).tl < 2 ^ 32 ∧ (s.queue 511).h < 2 ^ 32 :=
  fun en => ⟨atSlot { queue with en := en } [], by cases en <;> decide +kernel, by cases en <;> decide +kernel, rfl, by cases en <;> decide, by cases en <;> decide⟩
/-- A queue that is off; one without its context; a slot of the next lap and one not written; a packet that is bad; NOP, SIGNAL, a KERNEL and one whose header is bad. -/
theorem meets_QueueService :
    (∃ s : State, s.serviceable (s.queue 511) = false) ∧ (∃ s : State, s.serviceable (s.queue 511) = true ∧ s.ctxFits (s.queue 511) = false) ∧
    (∀ st ∈ [0, 2, 0xFFFFFFFF], ∃ (s : State) (p : State × List Byte), s.serviceable (s.queue 511) = true ∧ s.ctxFits (s.queue 511) = true ∧ s.fread (s.queue 511).ctx ((s.queue 511).base + 64 * ((s.queue 511).h % 2 ^ (s.queue 511).log2) + 0x3C) 4 = .ok p ∧ ofBytes p.2 = st ∧ (s.queue 511).h = 0 ∧ (s.queue 511).log2 = 4) ∧
    (∀ ty ∈ [0, 4, 7], ∃ (s : State) (p r : State × List Byte), s.serviceable (s.queue 511) = true ∧ s.ctxFits (s.queue 511) = true ∧ s.fread (s.queue 511).ctx ((s.queue 511).base + 0x3C) 4 = .ok p ∧ ofBytes p.2 = 1 ∧ (s.queue 511).h = 0 ∧
      p.1.freadBlocks (s.queue 511).ctx (s.queue 511).base 4 = .ok r ∧ r.1.queue 511 = s.queue 511 ∧ nodeType r.2 = ty ∧ (packetOk r.2 false r.1.pkg.chip = true ↔ ty ≠ 7)) ∧
    ∀ bad : Bool, ∃ (s : State) (p r : State × List Byte), s.serviceable (s.queue 511) = true ∧ s.ctxFits (s.queue 511) = true ∧ s.fread (s.queue 511).ctx ((s.queue 511).base + 0x3C) 4 = .ok p ∧ ofBytes p.2 = 1 ∧ p.1.freadBlocks (s.queue 511).ctx (s.queue 511).base 4 = .ok r ∧ r.1.queue 511 = s.queue 511 ∧
      packetOk r.2 false r.1.pkg.chip = true ∧ nodeType r.2 = 1 ∧ bits (field r.2 1 1) 2 1 = 0 ∧
      (if bad then r.1.readKernel (s.queue 511).ctx r.2 = .error 1 else ∃ k, r.1.readKernel (s.queue 511).ctx r.2 = .ok k ∧ k.1.queue 511 = s.queue 511) := by
  refine ⟨⟨State.reset, by decide +kernel⟩, ⟨{ atSlot queue [] with ctxs := [] }, by decide +kernel, by decide +kernel⟩, fun st h => ?_, fun ty h => ?_, fun bad => ?_⟩
  · have a : (atSlot queue (fields 64 [(0x3C, 4, st)])).serviceable queue = true ∧ (atSlot queue (fields 64 [(0x3C, 4, st)])).ctxFits queue = true := by revert st; decide +kernel
    obtain ⟨p, h1, h2⟩ := ok_ex (x := (atSlot queue (fields 64 [(0x3C, 4, st)])).fread 0 0x1003C 4) (p := fun p => decide (ofBytes p.2 = st)) (by revert st; decide +kernel)
    exact ⟨atSlot queue (fields 64 [(0x3C, 4, st)]), p, a.1, a.2, h1, of_decide_eq_true h2, rfl, rfl⟩
  · have a : (atSlot queue (packet ty)).serviceable queue = true ∧ (atSlot queue (packet ty)).ctxFits queue = true := by revert ty; decide +kernel
    obtain ⟨p, h1, h2⟩ := ok_ex (x := (atSlot queue (packet ty)).fread 0 0x1003C 4) (p := fun p => decide (ofBytes p.2 = 1) && okB (p.1.freadBlocks 0 0x10000 4) fun r => decide (r.1.queue 511 = queue ∧ nodeType r.2 = ty ∧ (packetOk r.2 false r.1.pkg.chip = true ↔ ty ≠ 7))) (by revert ty; decide +kernel)
    obtain ⟨h2, h3⟩ := Bool.and_eq_true_iff.1 h2
    obtain ⟨r, h4, h5⟩ := ok_ex h3
    exact ⟨atSlot queue (packet ty), p, r, a.1, a.2, h1, of_decide_eq_true h2, rfl, h4, of_decide_eq_true h5⟩
  · have a : (atKernel (if bad then 0x10500 else 0x10400)).serviceable queue = true ∧ (atKernel (if bad then 0x10500 else 0x10400)).ctxFits queue = true := by cases bad <;> decide +kernel
    obtain ⟨p, h1, h2⟩ := ok_ex (x := (atKernel (if bad then 0x10500 else 0x10400)).fread 0 0x1003C 4) (p := fun p => decide (ofBytes p.2 = 1) && okB (p.1.freadBlocks 0 0x10000 4) fun r =>
      decide (r.1.queue 511 = queue ∧ packetOk r.2 false r.1.pkg.chip = true ∧ nodeType r.2 = 1 ∧ bits (field r.2 1 1) 2 1 = 0) && if bad then isErr 1 (r.1.readKernel 0 r.2) else okB (r.1.readKernel 0 r.2) fun k => decide (k.1.queue 511 = queue)) (by cases bad <;> decide +kernel)
    obtain ⟨h2, h3⟩ := Bool.and_eq_true_iff.1 h2
    obtain ⟨r, h4, h5⟩ := ok_ex h3
    obtain ⟨h5, h6⟩ := Bool.and_eq_true_iff.1 h5
    obtain ⟨h7, h8, h9, h10⟩ := of_decide_eq_true h5
    refine ⟨atKernel (if bad then 0x10500 else 0x10400), p, r, a.1, a.2, h1, of_decide_eq_true h2, h4, h7, h8, h9, h10, ?_⟩
    cases bad with
    | true => exact is_err h6
    | false =>
      obtain ⟨k, h11, h12⟩ := ok_ex h6
      exact ⟨k, h11, of_decide_eq_true h12⟩
/-- The last word of the mapped page, and a page that is not present. -/
theorem meets_HeadWriteback : (∀ hwbf : Bool, ∃ (s : State) (h : Home), MemOk s ∧ s.queueBy 0 511 = some 511 ∧ s.queueShut (s.queue 511) = false ∧ (s.queue 511).en = true ∧ (s.queue 511).hwb = 0x1FFFC ∧ (s.queue 511).hwbf = hwbf ∧ (s.queue 511).hw ≠ (s.queue 511).h ∧ s.homeAt (s.queue 511).ctx 0x1FFFC h ∧ h.pa + 4 ≤ devEnd) ∧
    ∀ hwbf : Bool, ∃ s : State, s.queueBy 0 511 = some 511 ∧ s.queueShut (s.queue 511) = false ∧ (s.queue 511).en = true ∧ (s.queue 511).hwb = 0x50000 ∧ (s.queue 511).hwbf = hwbf ∧ (s.queue 511).hw ≠ (s.queue 511).h ∧ ∃ c, s.vwrite (s.queue 511).ctx 0x50000 (toBytes 4 (s.queue 511).h) = .error c := by
  refine ⟨fun b => ⟨atSlot { queue with hwb := 0x1FFFC, hwbf := b, h := 1 } [], { sp := .dev, pa := 0x1FFFC, tag := 0 }, by unfold MemOk; cases b <;> decide +kernel, by cases b <;> decide +kernel, by cases b <;> decide +kernel, rfl, rfl, rfl, by cases b <;> decide, by unfold State.homeAt; cases b <;> decide +kernel, by decide⟩,
    fun b => ⟨atSlot { queue with hwb := 0x50000, hwbf := b, h := 1 } [], by cases b <;> decide +kernel, by cases b <;> decide +kernel, rfl, rfl, rfl, by cases b <;> decide, 0x15, ?_⟩⟩
  exact is_err (by cases b <;> decide +kernel)
def graphOf (nodes : List (List Byte)) (done : Bool) : GraphRun := { nodes := nodes, at_ := 0, iters := [], waitw := none, done := done }
def graphed (nodes : List (List Byte)) (done : Bool) : Machine.Launch := { lau with queue := some 511, graph := some (graphOf nodes done) }
/-- ENABLE of 65536 slots in region 2 and of 16 in region 0; RESTART and SKIP with nothing left to do, with a stopped graph. -/
theorem meets_QueueControl :
    (∀ host : Bool, ∃ s : State, s.queueBy 0 511 = some 511 ∧ s.queueShut (s.queue 511) = false ∧ (s.queue 511).en = false ∧ 4 ≤ (s.queue 511).log2 ∧ (s.queue 511).log2 ≤ 16 ∧ (s.queue 511).base % 4096 = 0 ∧ (s.queue 511).base < 2 ^ 56 ∧ region (s.queue 511).base = (if host then 2 else 0)) ∧
    (∃ s : State, s.queueBy 0 511 = some 511 ∧ s.queueShut (s.queue 511) = false ∧ (s.queue 511).stop = true ∧ s.stoppedGraphs 511 = [] ∧ s.serviceable { s.queue 511 with stop := false, err := 0 } = false ∧
      s.serviceable { s.queue 511 with stop := false, err := 0, h := ((s.queue 511).h + 1) % 2 ^ 32, waitw := none, watch := none } = false) ∧
    ∃ (s : State) (l : Machine.Launch), s.queueBy 0 511 = some 511 ∧ s.queueShut (s.queue 511) = false ∧ (s.queue 511).stop = true ∧ s.stoppedGraphs 511 = [3] ∧ s.launch 3 = some l ∧ (∀ c ∈ s.launches, c.2.parent ≠ some 3) ∧ s.serviceable { s.queue 511 with stop := false, err := 0 } = false ∧
      s.serviceable { s.queue 511 with stop := false, err := 0, h := ((s.queue 511).h + 1) % 2 ^ 32, waitw := none, watch := none } = false :=
  ⟨fun host => ⟨atSlot { queue with en := false, log2 := if host then 16 else 4, base := if host then 0x20000000001000 else 0x1000 } [], by cases host <;> decide +kernel, by cases host <;> decide +kernel, rfl, by cases host <;> decide, by cases host <;> decide, by cases host <;> decide, by cases host <;> decide, by cases host <;> decide⟩,
    ⟨atSlot { queue with stop := true, en := false } [], by decide +kernel, by decide +kernel, rfl, by decide +kernel, by decide +kernel, by decide +kernel⟩,
    ⟨{ atSlot { queue with stop := true, en := false } [] with launches := [(3, graphed [] true)] }, graphed [] true, by decide +kernel, by decide +kernel, rfl, by decide +kernel, rfl, by decide +kernel, by decide +kernel, by decide +kernel⟩⟩
def waiting (v first : Nat) : WaitW := { addr := 0x10100, value := v, timeout := 5, first := first, watch := 0, since := 0, fired := true }
/-- A word at its value, one below it, a timeout that is reached; a SIGNAL with nothing before it. -/
theorem meets_WaitsAndSignals : (∀ v ∈ [0, 1], ∃ (s : State) (p : State × List Byte), (s.queue 511).waitw = some (waiting v 0) ∧ s.queueShut (s.queue 511) = false ∧ s.fread (s.queue 511).ctx 0x10100 8 = .ok p ∧ p.1.queue 511 = s.queue 511 ∧ ofBytes p.2 = 0) ∧
    (∃ s : State, (s.queue 511).waitw = some (waiting 1 0) ∧ (waiting 1 0).timeout ≠ 0 ∧ (waiting 1 0).first + (waiting 1 0).timeout ≤ s.now) ∧
    ∃ (s : State) (x : Signal) (h : Home), MemOk s ∧ (s.queue 511).sigs = [x] ∧ s.signalDue 511 x = true ∧ x.irq = false ∧ s.homeAt (s.queue 511).ctx x.addr h ∧ h.pa + 8 ≤ devEnd ∧ (s.queue 511).waitw = none ∧ (s.queue 511).watch = none := by
  refine ⟨fun v h => ?_, ⟨{ atSlot { queue with waitw := some (waiting 1 0) } [] with now := 5 }, rfl, by decide, by decide⟩,
    ⟨atSlot { queue with sigs := [{ seq := 9, addr := 0x1FFF8, value := 7, irq := false, graph := none }] } [], _, { sp := .dev, pa := 0x1FFF8, tag := 0 }, by unfold MemOk; decide +kernel, rfl, by decide +kernel, rfl, by unfold State.homeAt; decide +kernel, by decide, rfl, rfl⟩⟩
  have a : (atSlot { queue with waitw := some (waiting v 0) } []).queueShut { queue with waitw := some (waiting v 0) } = false := by revert v; decide +kernel
  obtain ⟨p, h1, h2⟩ := ok_ex (x := (atSlot { queue with waitw := some (waiting v 0) } []).fread 0 0x10100 8) (p := fun p => decide (p.1.queue 511 = { queue with waitw := some (waiting v 0) } ∧ ofBytes p.2 = 0)) (by revert v; decide +kernel)
  obtain ⟨h3, h4⟩ := of_decide_eq_true h2
  exact ⟨atSlot { queue with waitw := some (waiting v 0) } [], p, rfl, a, h1, h3, h4⟩
theorem meets_LaunchQueues : ∃ s : State, s.serviceable (s.queue 511) = true ∧ s.ctxFits (s.queue 511) = true := ⟨atSlot queue [], by decide +kernel, by decide +kernel⟩

/-! ## Launches -/

/-- The bed without its stand, and launch 3 beside it. -/
def alone (l : Machine.Launch) : State := { bed std q1 with stands := [], resident := [], issue := [], launches := [(3, l)], scr := [] }
/-- A kernel not yet started; a graph at a NOP. -/
theorem meets_Starts : (∃ (s : State) (l : Machine.Launch) (cx : Machine.Ctx), s.launch 3 = some l ∧ s.startable 3 l = true ∧ s.ctx l.ctx = some cx ∧ cx.ctag < 65536) ∧
    ∃ (s : State) (l : Machine.Launch) (g : GraphRun), s.launch 3 = some l ∧ l.started = true ∧ l.killing = false ∧ l.graph = some g ∧ l.queue = some 511 ∧ g.done = false ∧ g.waitw = none ∧ nodeType (g.nodes.getD g.at_ []) = 0 ∧ s.frozenCk = false ∧ ∀ b ∈ bodies g.nodes, b.2 ≠ g.at_ :=
  ⟨⟨alone { lau with started := false }, _, bareCtx, rfl, by decide +kernel, rfl, by decide⟩,
    ⟨alone (graphed [packet 0] false), graphed [packet 0] false, graphOf [packet 0] false, rfl, rfl, rfl, rfl, rfl, rfl, rfl, by decide +kernel, rfl, by decide +kernel⟩⟩
/-- A LOOP over one node, its word at the mapped page, that many times at most. -/
def loop (most : Nat) : List (List Byte) := [fields 64 [(0, 1, 5), (4, 2, 1), (8, 4, most), (0x10, 8, 0x10000)], packet 0]
def looping (w most n : Nat) : State := { alone { lau with queue := some 511, graph := some { graphOf (loop most) false with iters := [(0, n)] } } with mem := memWrite tables 0x10000 (toBytes 4 w) }
def ended (addr : Nat) (irq : Bool) : Machine.Launch := { lau with queue := some 511, cpladdr := addr, irq := irq }
/-- A word that is not 0 with iterations left or without a bound, a word of 0, and the bound reached; ends with and without a value and an interrupt. -/
theorem meets_Ends : (∀ x ∈ [(1, 0, 0), (1, 5, 4), (0, 0, 0), (1, 5, 5)], ∃ (s : State) (l : Machine.Launch) (g : GraphRun) (p : State × List Byte), s.graphsAt 511 5 = [(3, l, g)] ∧ s.fread l.ctx (field (g.nodes.getD g.at_ []) 0x10 8) 4 = .ok p ∧ ofBytes p.2 = x.1 ∧ field (g.nodes.getD g.at_ []) 8 4 = x.2.1 ∧ (Store.find g.at_ g.iters).getD 0 = x.2.2 ∧
      ∀ c ∈ bodies g.nodes, c.2 = g.at_ + field (g.nodes.getD g.at_ []) 4 2 → g.at_ < c.1) ∧
    (∀ addr ∈ [0, 0x1FFF8], ∃ (s : State) (l : Machine.Launch) (g : GraphRun) (h : Home), MemOk s ∧ s.graphsAt 511 6 = [(3, l, g)] ∧ (s.launches.map fun e => e.1).Pairwise (· < ·) ∧ s.launch 3 = some l ∧ l.cpladdr = addr ∧ l.irq = false ∧ (addr ≠ 0 → s.homeAt l.ctx l.cpladdr h ∧ h.pa + 8 ≤ devEnd)) ∧
    ∀ x ∈ [(0, false), (0, true), (0x1FFF8, false)], ∃ (s : State) (l : Machine.Launch) (h : Home), MemOk s ∧ s.launch 3 = some l ∧ s.atEnd 3 l = true ∧ l.parent = none ∧ l.repl = none ∧ (s.launches.map fun e => e.1).Pairwise (· < ·) ∧ s.queueOf l = some 511 ∧ l.cpladdr = x.1 ∧ l.irq = x.2 ∧ (x.1 ≠ 0 → s.homeAt l.ctx l.cpladdr h ∧ h.pa + 8 ≤ devEnd) := by
  refine ⟨fun x hx => ?_, fun addr ha => ⟨{ alone { ended addr false with graph := some (graphOf [packet 6] false) } with mem := tables }, _, graphOf [packet 6] false, { sp := .dev, pa := 0x1FFF8, tag := 0 }, by unfold MemOk; revert addr; decide +kernel, by revert addr; decide +kernel, by simp [alone], rfl, rfl, rfl, by unfold State.homeAt; revert addr; decide +kernel⟩,
    fun x hx => ⟨{ alone (ended x.1 x.2) with mem := tables }, _, { sp := .dev, pa := 0x1FFF8, tag := 0 }, by unfold MemOk; revert x; decide +kernel, rfl, by revert x; decide +kernel, rfl, rfl, by simp [alone], rfl, rfl, rfl, by unfold State.homeAt; revert x; decide +kernel⟩⟩
  have a : (looping x.1 x.2.1 x.2.2).graphsAt 511 5 = [(3, { lau with queue := some 511, graph := some { graphOf (loop x.2.1) false with iters := [(0, x.2.2)] } }, { graphOf (loop x.2.1) false with iters := [(0, x.2.2)] })] := by revert x; decide +kernel
  have b : field (loop x.2.1).head! 0x10 8 = 0x10000 ∧ field (loop x.2.1).head! 8 4 = x.2.1 ∧ ∀ c ∈ bodies (loop x.2.1), c.2 = 0 + field (loop x.2.1).head! 4 2 → 0 < c.1 := by revert x; decide +kernel
  obtain ⟨p, h1, h2⟩ := ok_ex (x := (looping x.1 x.2.1 x.2.2).fread 0 0x10000 4) (p := fun p => decide (ofBytes p.2 = x.1)) (by revert x; decide +kernel)
  exact ⟨looping x.1 x.2.1 x.2.2, _, _, p, a, by rw [← h1]; exact congrArg (fun n => State.fread _ 0 n 4) b.1, of_decide_eq_true h2, b.2.1, rfl, b.2.2⟩
/-- A launch on chips 0 and 1, of this chip. -/
def pair (ready done : List Nat) (release : Option Nat) : Repl := { origin := 0, gen := 4, first := 0, nchip := 2, ready := ready, done := done, release := release, since := 0, sentReady := true, okey := 3 }
def shared (r : Repl) : Machine.Launch := { lau with repl := some r, queue := some 511 }
/-- A launch that arrives; the first and the last ready chip; a release; its time; a timeout; the first and the last done chip. -/
theorem meets_Replication :
    (∃ (p : Replica) (s : State) (cx : Machine.Ctx) (b : State × List Byte), s.ctx p.ctx = some cx ∧ cx.part = p.part ∧ s.freadBlocks p.ctx (field p.packet 0x10 8) 16 = .ok b ∧ headerOk b.2 = true ∧ (Header.ofBytes b.2).covered = true ∧ ∀ e ∈ b.1.launches, e.1 < b.1.seq) ∧
    (∀ ready ∈ [[], [0]], ∃ (s : State) (l : Machine.Launch) (r : Repl), s.launch 3 = some l ∧ l.repl = some r ∧ r.origin = s.pkg.chip ∧ r.gen = 4 ∧ r.release = none ∧ 1 ∈ r.chips ∧ 1 ∉ r.ready ∧ ((∀ c ∈ r.chips, c ∈ r.ready ++ [1]) ↔ ready = [0]) ∧ s.now < r.since + max 10000 (match l.queue with | some dq => (s.queue dq).rto | none => 0)) ∧
    (∀ late : Bool, ∃ (s : State) (l : Machine.Launch) (r : Repl), s.launch 3 = some l ∧ l.repl = some r ∧ r.gen = 4 ∧ r.release = none ∧ (7 ≤ s.now ↔ late = true)) ∧
    (∃ (s : State) (l : Machine.Launch) (r : Repl), s.launch 3 = some l ∧ l.repl = some r ∧ r.release = some 7 ∧ 7 ≤ s.now) ∧
    (∃ (s : State) (l : Machine.Launch) (r : Repl), s.launch 3 = some l ∧ l.repl = some r ∧ l.queue = some 511 ∧ r.origin = s.pkg.chip ∧ r.release = none ∧ r.since + max 10000 (s.queue 511).rto ≤ s.now) ∧
    ∀ done ∈ [[], [0]], ∃ (s : State) (l : Machine.Launch) (r : Repl), s.launch 3 = some l ∧ l.repl = some r ∧ r.origin = s.pkg.chip ∧ r.gen = 4 ∧ 1 ≠ s.pkg.chip ∧ 1 ∈ r.chips ∧ 1 ∉ r.done ∧ ((∀ c ∈ r.chips, c ∈ r.done ++ [1]) ↔ done = [0]) ∧ l.parent = none ∧ l.cpladdr = 0 ∧ l.irq = false := by
  refine ⟨?_, fun ready h => ⟨alone (shared (pair ready [] none)), _, pair ready [] none, rfl, rfl, rfl, rfl, rfl, by revert ready; decide, by revert ready; decide, by revert ready; decide, by revert ready; decide +kernel⟩,
    fun late => ⟨{ alone (shared (pair [0, 1] [] none)) with now := if late then 7 else 0 }, _, pair [0, 1] [] none, rfl, rfl, rfl, rfl, by cases late <;> decide⟩,
    ⟨{ alone (shared (pair [0, 1] [] (some 7))) with now := 7 }, _, pair [0, 1] [] (some 7), rfl, rfl, rfl, by decide⟩,
    ⟨{ alone (shared (pair [0] [] none)) with now := 1000000 }, _, pair [0] [] none, rfl, rfl, rfl, rfl, rfl, by decide +kernel⟩,
    fun done h => ⟨alone (shared (pair [0, 1] done (some 7))), _, pair [0, 1] done (some 7), rfl, rfl, rfl, rfl, by revert done; decide, by revert done; decide, by revert done; decide, by revert done; decide, rfl, rfl, rfl⟩⟩
  obtain ⟨b, h1, h2⟩ := ok_ex (x := (atKernel 0x10400).freadBlocks 0 (field (kernel 0x10400) 0x10 8) 16) (p := fun b => headerOk b.2 && (Header.ofBytes b.2).covered && b.1.launches.all fun e => decide (e.1 < b.1.seq)) (by decide +kernel)
  simp only [Bool.and_eq_true, List.all_eq_true, decide_eq_true_eq] at h2
  exact ⟨{ origin := 1, okey := 3, gen := 4, ctx := 0, part := 0, number := 9, packet := kernel 0x10400, args := [] }, atKernel 0x10400, bareCtx, b, rfl, rfl, h1, h2.1.1, h2.1.2, h2.2⟩
/-- A launch with a stand, its function's report ring with room. -/
theorem meets_Kill : ∃ (s : State) (l : Machine.Launch), s.launch 0 = some l ∧ l.graph = none ∧ l.parent = none ∧ bits s.regs.trCtl.toNat 5 1 = 0 ∧ s.stands ≠ [] ∧ ∃ f : Fn, f = s.fn (s.part (s.partOf l.ctx)).fn ∧ f.ringOn = true ∧ (f.rrTail + 2 ^ 32 - f.rrHead) % 2 ^ 32 < 2 ^ f.rrLog2 :=
  ⟨{ bed std q1 with fns := [(0, { Fn.reset with rrEn := true })] }, lau, rfl, rfl, rfl, by decide +kernel, by simp [bed], { Fn.reset with rrEn := true }, rfl, by decide +kernel, by decide +kernel⟩
theorem meets_Launches : ∃ (s : State) (l : Machine.Launch), s.launch 3 = some l ∧ s.startable 3 l = true := ⟨alone { lau with started := false }, _, rfl, by decide +kernel⟩

/-! ## Contexts -/

/-- A descriptor: tag 7, partition 1, its limits and the ranges of its actuators, page tables and save area in place. -/
def descriptor : List Byte :=
  fields 256 ([(0, 4, 7 + 2 ^ 16), (4, 4, 50), (8, 8, 0x1000), (0x20, 8, 0x2000), (0x28, 4, 0x1000), (0x2C, 4, 10000), (0x30, 2, 9), (0x38, 4, 0x17FFF)] ++ [(1, 32), (1, 384), (0, 16), (0, 64), (0, 24)].zipIdx.flatMap fun x => [(0x80 + 4 * x.2, 2, x.1.1), (0x82 + 4 * x.2, 2, x.1.2)])
def ours : Part := { Part.reset with fn := 1 }
/-- The descriptor at 0x3000, function 1 with partition 1. -/
def described : State := { State.reset with mem := memWrite [] 0x3000 descriptor, fns := [(1, { Fn.reset with ctxAddr := 0x3000 })], parts := [(1, ours)] }
def ctxOne : Machine.Ctx := { Ctx.ofDesc descriptor 0x3000 0 with fn := 1 }
/-- A free number and a valid descriptor; a number in use; a descriptor that is not valid, and one of a partition that is another's; a context of the function without and with a launch. -/
theorem meets_ContextCommands :
    (∃ (s : State) (a : Nat) (b : List Byte), s.ctx 2 = none ∧ a = (s.fn 1).ctxAddr / 256 * 256 ∧ b = memRead s.mem a 256 ∧ a < devEnd ∧ descOk b = true ∧ (s.part (field b 0 4 / 2 ^ 16 % 32)).fn = 1 ∧ (s.part (field b 0 4 / 2 ^ 16 % 32)).resetAt = none) ∧
    (∃ s : State, (s.ctx 2).isSome = true) ∧
    (∃ s : State, s.ctx 2 = none ∧ ∀ a b, ¬ (a = (s.fn 1).ctxAddr / 256 * 256 ∧ b = memRead s.mem a 256 ∧ a < devEnd ∧ descOk b = true)) ∧
    (∃ (s : State) (a : Nat) (b : List Byte), s.ctx 2 = none ∧ a = (s.fn 3).ctxAddr / 256 * 256 ∧ b = memRead s.mem a 256 ∧ a < devEnd ∧ descOk b = true ∧ (s.part (field b 0 4 / 2 ^ 16 % 32)).fn ≠ 3) ∧
    (∃ (s : State) (a : Nat) (b : List Byte) (old : Machine.Ctx), s.ctx 2 = some old ∧ (s.part old.part).fn = 1 ∧ (s.part old.part).resetAt = none ∧ (∀ l ∈ s.launches, l.2.ctx ≠ 2) ∧ old.loop.busy = false ∧ a = (s.fn 1).ctxAddr / 256 * 256 ∧ b = memRead s.mem a 256 ∧ a < devEnd ∧ descOk b = true ∧
      (s.part (field b 0 4 / 2 ^ 16 % 32)).fn = 1 ∧ (s.part (field b 0 4 / 2 ^ 16 % 32)).resetAt = none ∧ MemOk s ∧ (s.ctxs.map fun e => e.1).Pairwise (· < ·) ∧ (∀ q ∈ s.queues, q.2.en = true → q.2.ctx ≠ 2) ∧ old.desc % 256 = 0 ∧ old.loop.pos.length = 5) ∧
    (∃ (s : State) (old : Machine.Ctx), s.ctx 2 = some old ∧ (s.part old.part).fn = 1 ∧ ∃ l ∈ s.launches, l.2.ctx = 2) ∧
    (∃ (s : State) (old : Machine.Ctx), MemOk s ∧ s.ctx 2 = some old ∧ (s.part old.part).fn = 1 ∧ (s.part old.part).resetAt = none ∧ s.launches = [] ∧ old.loop.busy = true ∧ old.desc % 256 = 0 ∧ old.loop.pos.length = 5) ∧
    ∃ (s : State) (old : Machine.Ctx), s.ctx 2 = some old ∧ (s.part old.part).fn = 1 ∧ (s.part old.part).fn ≠ 3 ∧ ∃ q ∈ s.queues, q.2.en = true ∧ q.2.ctx = 2 := by
  refine ⟨⟨described, _, _, rfl, rfl, rfl, ?_⟩, ⟨{ described with ctxs := [(2, ctxOne)] }, rfl⟩, ⟨State.reset, rfl, ?_⟩, ⟨{ described with fns := [(3, { Fn.reset with ctxAddr := 0x30FF })] }, _, _, rfl, rfl, rfl, ?_⟩,
    ⟨{ described with ctxs := [(2, ctxOne)] }, _, _, ctxOne, rfl, ?_, ?_, by simp [described, State.reset], by decide +kernel, rfl, rfl, ?_⟩, ⟨{ described with ctxs := [(2, ctxOne)], launches := [(3, { lau with ctx := 2 })] }, ctxOne, rfl, by decide +kernel, _, List.mem_cons_self, rfl⟩,
    ⟨{ described with ctxs := [(2, { ctxOne with loop := { ctxOne.loop with busy := true } })] }, { ctxOne with loop := { ctxOne.loop with busy := true } }, by unfold MemOk; decide +kernel, rfl, by decide +kernel, by decide +kernel, rfl, rfl, by decide +kernel, by decide +kernel⟩,
    ⟨{ described with ctxs := [(2, ctxOne)], queues := [(5, { Queue.reset with num := 5, en := true, ctx := 2 })] }, ctxOne, rfl, by decide +kernel, by decide +kernel, _, List.mem_cons_self, rfl, rfl⟩⟩
  · decide +kernel
  · rintro a b ⟨ha, hb, -, hd⟩
    have : descOk (memRead State.reset.mem ((State.reset.fn 1).ctxAddr / 256 * 256) 256) = false := by decide +kernel
    rw [hb, ha, this] at hd
    cases hd
  · decide +kernel
  · decide +kernel
  · decide +kernel
  · unfold MemOk
    decide +kernel
/-- SAVE and CLEAR with BUSY 0 and 1; a context that is another function's. -/
theorem meets_LoopCommands : (∀ busy : Bool, ∃ (s : State) (x : Machine.Ctx), MemOk s ∧ s.ctx 2 = some x ∧ (s.part x.part).fn = 1 ∧ (s.part x.part).resetAt = none ∧ x.loop.busy = busy ∧ x.desc % 256 = 0 ∧ x.loop.pos.length = 5) ∧
    ∃ (s : State) (x : Machine.Ctx), s.ctx 2 = some x ∧ 3 ≠ 0 ∧ (s.part x.part).fn ≠ 3 :=
  ⟨fun b => ⟨{ described with ctxs := [(2, { ctxOne with loop := { ctxOne.loop with busy := b } })] }, _, by unfold MemOk; cases b <;> decide +kernel, rfl, by cases b <;> decide +kernel, by cases b <;> decide +kernel, rfl, by cases b <;> decide +kernel, by cases b <;> decide +kernel⟩,
    ⟨{ described with ctxs := [(2, ctxOne)] }, ctxOne, rfl, by decide, by decide +kernel⟩⟩
theorem meets_Contexts : ∃ (s : State) (x : Machine.Ctx), s.ctx 2 = some x ∧ (s.part x.part).fn = 1 := ⟨{ described with ctxs := [(2, ctxOne)] }, ctxOne, rfl, by decide +kernel⟩

/-! ## Placement -/

def owning (clu : Nat) : Part := { Part.reset with clu := clu }
/-- A context that may have every core and slot. -/
def roomy (p : Nat) : Machine.Ctx := { bareCtx with part := p, loop := { bareCtx.loop with pos := [32, 384, 0, 0, 0] } }
def unplaced : Machine.Launch := { lau with next := 0, x := 40 }
def sitting (n : Nat) : Stand := { std with launch := 9, num := n }
def placing (n : Nat) : State := { alone unplaced with ctxs := [(0, roomy 0)], parts := [(0, owning 3)], stands := (List.range n).map fun i => (i, sitting i) }
/-- The first slot of a core, and its last; the part of a stand that has no threads is in stand 1. -/
theorem meets_StandPlaced : ∀ slot ∈ [0, 31], ∃ s : State, s.launch 3 = some unplaced ∧ unplaced.waitsStand = true ∧ (∀ e ∈ s.returning, s.launchCtx e.2.2.launch ≠ some unplaced.ctx) ∧ s.coreFor 3 unplaced = some 0 ∧ slot < 32 ∧ s.stand (standKey 0 slot) = none ∧ (∀ n, n < slot → (s.stand (standKey 0 n)).isSome = true) :=
  fun slot h => ⟨placing slot, rfl, by decide, fun e h => absurd h List.not_mem_nil, by revert slot; decide +kernel, by revert slot; decide, by revert slot; decide +kernel, by revert slot; decide +kernel⟩
/-- A set that overlaps another's, one that does not and leaves no stand behind; more units than 8, and no change of theirs. -/
theorem meets_Partitions : (∀ i, i < 3 → ∃ s : State, (∃ e ∈ s.parts, e.1 ≠ 0 ∧ e.2.clu &&& ((s.part 0).clu - 2 ^ (32 * i) * ((s.part 0).clu / 2 ^ (32 * i) % 2 ^ 32) + 2 ^ (32 * i) * (2#32).toNat) ≠ 0)) ∧
    (∃ s : State, (s.part 0).clu / 2 ^ 0 % 2 = 1 ∧ (0x80000000#32).toNat / 2 ^ 0 % 2 = 0 ∧ s.partOn 0 0 = true ∧ s.stands.length = 1) ∧
    (∀ i, i < 3 → ∃ s : State, (∀ e ∈ s.parts, e.1 ≠ 0 → e.2.clu &&& ((s.part 0).clu - 2 ^ (32 * i) * ((s.part 0).clu / 2 ^ (32 * i) % 2 ^ 32) + 2 ^ (32 * i) * (0x80000000#32).toNat) = 0) ∧
      (∀ n, n < 32 → (s.part 0).clu / 2 ^ (32 * i + n) % 2 = 1 → (0x80000000#32).toNat / 2 ^ n % 2 = 0 → s.partOn 0 (32 * i + n) = false) ∧ ∃ n, n < 32 ∧ (s.part 0).clu / 2 ^ (32 * i + n) % 2 = 1) ∧
    (∃ s : State, 8 < ((s.parts.filter fun e => decide (e.1 ≠ 0)).map fun e => e.2.dshare).sum + (0x20#32).toNat / 32 % 16) ∧
    ∃ s : State, ((s.parts.filter fun e => decide (e.1 ≠ 0)).map fun e => e.2.dshare).sum + (0xA0#32).toNat / 32 % 16 ≤ 8 ∧ (0xA0#32).toNat / 32 % 16 = (s.part 0).dshare :=
  ⟨fun i h => ⟨{ State.reset with parts := [(0, owning 0), (1, owning (2 ^ (32 * i + 1)))] }, (1, owning (2 ^ (32 * i + 1))), by simp, Nat.one_ne_zero, by revert i; decide +kernel⟩,
    ⟨{ bed std q1 with parts := [(0, owning 1)] }, by decide +kernel, by decide, by decide +kernel, rfl⟩,
    fun i h => ⟨{ State.reset with parts := [(0, owning (2 ^ (32 * i))), (1, owning (2 ^ (32 * i + 1)))] }, by revert i; decide +kernel, by revert i; decide +kernel, 0, by decide, by revert i; decide +kernel⟩,
    ⟨{ State.reset with parts := [(1, { Part.reset with dshare := 8 })] }, by decide +kernel⟩,
    ⟨{ State.reset with parts := [(0, { Part.reset with dshare := 5 }), (1, { Part.reset with dshare := 3 })] }, by decide +kernel, by decide +kernel⟩⟩
/-- Partition 1 owns cluster 5, which it lends; partition 0 borrows it. -/
def market (lent : Store Nat) : State :=
  { alone { unplaced with ctx := if lent = [] then 0 else 1 } with ctxs := [(0, roomy 0), (1, roomy 1)], parts := [(0, { owning 0 with borrow := true }), (1, { owning 32 with lend := true })], lent := lent }
def guest (f : Stand → Stand) : State := { market [(5, 0)] with stands := [(640, f std)], launches := [(0, lau), (3, { unplaced with ctx := 1 })], scr := [] }
def evicted : Stand := resting (.parked .mwait) fun st => { st with full := true, rcause := 0x3B }
/-- A cluster to lend; one that its owner wants, with a stand of the borrower; one without its stand; one whose stand has stopped. -/
theorem meets_Borrowing : (∃ s : State, s.lendable 0 = [5]) ∧
    (∃ s : State, s.wanted 5 = true ∧ 5 ∉ s.reclaim ∧ (s.stands.map fun e => e.1).Pairwise (· < ·) ∧ s.stand 640 = some std ∧ (640, std) ∈ s.borrowed 5) ∧
    (∃ s : State, 5 ∈ s.reclaim ∧ s.borrowed 5 = [] ∧ (∀ t ∈ s.teams, t.2.cl ≠ 5) ∧ (∀ o ∈ s.outs, clusterOf o.g ≠ 5) ∧ s.lent ≠ []) ∧
    ∃ s : State, 5 ∈ s.reclaim ∧ s.borrowed 5 = [(640, evicted)] ∧ (∀ t ∈ s.teams, t.2.cl ≠ 5) ∧ (∀ o ∈ s.outs, clusterOf o.g ≠ 5) ∧ s.stand 640 = some evicted ∧ (s.stands.map fun e => e.1).Pairwise (· < ·) ∧ evicted.place = .resident ∧ s.mayLeave 640 evicted = true ∧
      s.launch evicted.launch = some lau ∧ evicted.full = true ∧ evicted.rcause = 0x3B ∧ evicted.v.length = lau.hdr.vregs ∧ evicted.s.length = lau.hdr.sregs ∧ evicted.p.length = lau.hdr.pregs := by
  refine ⟨⟨market [], by decide +kernel⟩, ⟨guest id, by decide +kernel, List.not_mem_nil, by decide, rfl, by decide +kernel⟩, ⟨{ market [(5, 0)] with reclaim := [5] }, List.mem_cons_self, by decide +kernel, by decide, by decide, by decide⟩,
    ⟨{ guest (fun _ => evicted) with reclaim := [5] }, List.mem_cons_self, by decide +kernel, by decide +kernel, by decide +kernel, rfl, by decide, rfl, by decide +kernel, rfl, rfl, rfl, by decide +kernel, by decide +kernel, by decide +kernel⟩⟩
theorem meets_Placement : ∃ s : State, s.coreFor 3 unplaced = some 0 := ⟨placing 0, by decide +kernel⟩

/-! ## Beats, loops and the Umpire -/

def lat (k : Nat) (idle : Bool) : Latch := { k := k, count := 6, b := 10000, idle := idle }
def looped (f : Loop → Loop) : Machine.Ctx := { ctxOne with loop := f ctxOne.loop }
/-- Context 2 with its loop, at B + 5,000. -/
def beating (f : Loop → Loop) : State := { described with ctxs := [(2, looped f)], now := 15000 }
def member (ls : List Latch) (f : Loop → Loop) : Loop → Loop := fun l => f { l with latches := ls, mEn := true, mFirst := 0, mN := 2 }
/-- A count for an interval that awaits its step, and for none; both counts, and none; a step that is off, idle, alone, and in a group with a minimum and without. -/
theorem meets_BoundariesAndMerging : (∃ (s : State) (x : Machine.Ctx), s.ctx 2 = some x ∧ x.loop.mEn = true ∧ x.loop.mFirst = s.pkg.chip ∧ x.loop.mFirst ≤ 1 ∧ 1 < x.loop.mFirst + x.loop.mN ∧ ∃ y ∈ x.loop.latches, y.k = 1) ∧
    (∃ (s : State) (x : Machine.Ctx), s.ctx 2 = some x ∧ ∀ y ∈ x.loop.latches, y.k ≠ 1) ∧
    (∀ iv ∈ [none, some (20000, 20000)], ∀ now ∈ [9999, 10000, 14000, 15000], ∃ (s : State) (x : Machine.Ctx), s.ctx 2 = some x ∧ x.loop.mEn = true ∧ x.loop.newInt = iv ∧ x.loop.boundary x.loop.from_ = 10000 ∧ s.now = now) ∧
    (∃ l : Loop, 0 < l.interval ∧ l.newInt = none) ∧ (∃ l : Loop, 0 < l.interval ∧ l.newInt = some (10000, 10000) ∧ l.from_ = 9999) ∧
    ∀ all : Bool, ∃ (s : State) (x : Machine.Ctx) (pre post : List Latch) (a : Latch), s.ctx 2 = some x ∧ x.loop.mEn = true ∧ x.loop.mFirst = s.pkg.chip ∧ 1 ≤ x.loop.mN ∧ x.loop.latches = pre ++ a :: post ∧ pre ≠ [] ∧ post ≠ [] ∧ (∀ y ∈ pre, s.now < y.b + 4000 ∨ ∃ m ∈ x.loop.merged, m.1 = y.k) ∧
      a.b + 4000 ≤ s.now ∧ (∀ m ∈ x.loop.merged, m.1 ≠ a.k) ∧ ((∃ chip, x.loop.mFirst ≤ chip ∧ chip < x.loop.mFirst + x.loop.mN ∧ ∀ y ∈ x.loop.counts, y.1 = chip → y.2.1 ≠ a.k) ↔ all = false) := by
  refine ⟨⟨beating (member [lat 1 false] id), _, rfl, rfl, rfl, by decide, by decide, lat 1 false, List.mem_cons_self, rfl⟩, ⟨beating id, _, rfl, by decide +kernel⟩,
    fun iv hi n hn => ⟨{ beating (member [] fun l => { l with newInt := iv, interval := 10000, from_ := 0 }) with now := n }, _, rfl, rfl, rfl, by revert iv; decide +kernel, rfl⟩,
    ⟨{ ctxOne.loop with interval := 10000, newInt := none }, by decide, rfl⟩, ⟨{ ctxOne.loop with interval := 1000000, newInt := some (10000, 10000), from_ := 9999 }, by decide, rfl, rfl⟩,
    fun all => ⟨beating (member [lat 1 false, lat 2 false, lat 3 false] fun l => { l with merged := [(1, none)], counts := if all then [(0, 2, 3), (1, 2, 2)] else [(0, 2, 3), (1, 3, 2)] }), _, [lat 1 false], [lat 3 false], lat 2 false, rfl, rfl, rfl, by show 1 ≤ 2; decide, rfl, by decide, by decide,
      by show ∀ y ∈ [lat 1 false], 15000 < y.b + 4000 ∨ ∃ m ∈ [((1 : Nat), (none : Option Nat))], m.1 = y.k; decide, by show 10000 + 4000 ≤ 15000; decide, by show ∀ m ∈ [((1 : Nat), (none : Option Nat))], m.1 ≠ 2; decide, ?_⟩⟩
  show (∃ chip, 0 ≤ chip ∧ chip < 0 + 2 ∧ ∀ y ∈ (if all then [(0, 2, 3), (1, 2, 2)] else [(0, 2, 3), (1, 3, 2)] : List (Nat × Nat × Nat)), y.1 = chip → y.2.1 ≠ 2) ↔ all = false
  cases all
  · exact ⟨fun _ => rfl, fun _ => ⟨1, by decide⟩⟩
  · refine ⟨fun ⟨n, _, h, hy⟩ => ?_, fun h => by cases h⟩
    interval_cases n
    · exact absurd rfl (hy (0, 2, 3) (by simp) rfl)
    · exact absurd rfl (hy (1, 2, 2) (by simp) rfl)
theorem meets_ControllerStep : (∀ idle : Bool, ∀ target ∈ [0, 9], ∃ (s : State) (x : Machine.Ctx), s.ctx 2 = some x ∧ x.loop.latches = [lat 1 idle] ∧ (lat 1 idle).b + 5000 ≤ s.now ∧ x.loop.target = target ∧ s.frozenCk = false ∧ x.loop.mEn = false) ∧
    (∃ (s : State) (x : Machine.Ctx), s.ctx 2 = some x ∧ x.loop.latches = [lat 1 false] ∧ (lat 1 false).b + 5000 ≤ s.now ∧ x.loop.target ≠ 0 ∧ s.frozenCk = true) ∧
    (∀ p ∈ [(1, none), (1, some 3)], ∃ (s : State) (x : Machine.Ctx), s.ctx 2 = some x ∧ x.loop.latches = [lat 1 false] ∧ (lat 1 false).b + 5000 ≤ s.now ∧ x.loop.target ≠ 0 ∧ s.frozenCk = false ∧ x.loop.mEn = true ∧ x.loop.merged = [p] ∧ p.1 = (lat 1 false).k) ∧
    (∃ l : Loop, (l.step 6).ulast ≠ 0 ∧ ¬ ∀ k, k < 5 → l.emax k ≤ l.at_ k) ∧ (∃ l : Loop, (l.step 6).ulast = 0) ∧ (∃ l : Loop, (l.step 6).satup = true) ∧ ∃ l : Loop, (l.step 60000).satdn = true :=
  ⟨fun i t h => ⟨beating fun l => { l with latches := [lat 1 i], target := t }, _, rfl, rfl, Nat.le_refl 15000, rfl, rfl, by cases i <;> decide +revert +kernel⟩,
    ⟨{ beating (fun l => { l with latches := [lat 1 false] }) with regs := { PfRegs.reset with ckBusy := true, ckLive := some false } }, _, rfl, rfl, by decide, by decide +kernel, by decide +kernel⟩,
    fun p h => ⟨beating (member [lat 1 false] fun l => { l with merged := [p] }), _, rfl, rfl, Nat.le_refl 15000, by revert p; decide +kernel, rfl, rfl, rfl, by revert p; decide⟩,
    ⟨{ ctxOne.loop with kp := 4096 }, by decide +kernel, by decide +kernel⟩, ⟨{ ctxOne.loop with kp := 0, ki := 0 }, by decide +kernel⟩, ⟨{ ctxOne.loop with pos := [32, 384, 16, 64, 24], want := [32, 384, 16, 64, 24] }, by decide +kernel⟩, ⟨ctxOne.loop, by decide +kernel⟩⟩
/-- Two contexts that want one step more each of a pool. -/
def asks : List Ask := [{ ctx := 0, cls := 1, pos := 2, min := 1, w := 3, r := 1, part := 0, g := 0, shed := false }, { ctx := 1, cls := 2, pos := 2, min := 1, w := 3, r := 1, part := 0, g := 0, shed := false }]
theorem meets_Umpire : (∀ supply ∈ [18, 15, 6], (asks.map fun a => a.ctx).Nodup ∧ (∀ a ∈ asks, a.g = 0) ∧ ((runPool supply 0 asks).2 = false ↔ True) ∧ (∀ a ∈ asks, a.cls < 3) ∧ (poolUse 0 asks + (asks.map fun a => a.r * a.w).sum ≤ supply ↔ supply = 18)) ∧
    (∃ s : State, s.regs.umpRun = false) ∧ (∃ s : State, s.regs.umpRun = true ∧ (s.ctxs.map fun e => e.1).Nodup ∧ s.ctxs.length = 2) ∧ ∃ s : State, Store.find 5 s.clkPend = some (23, 0) :=
  ⟨by decide +kernel, ⟨{ State.reset with regs := { PfRegs.reset with umpRun := false } }, rfl⟩, ⟨{ State.reset with ctxs := [(0, roomy 0), (1, roomy 1)] }, rfl, by decide, rfl⟩, ⟨{ State.reset with clkPend := [(5, (23, 0))] }, rfl⟩⟩
/-- The function's own, and the physical function's. -/
theorem meets_LoopRegisters : (∀ fn ∈ [0, 1], ∃ (s : State) (x : Machine.Ctx), s.ctx 2 = some x ∧ (fn = 0 ∨ (s.part x.part).fn = fn) ∧ (s.part x.part).resetAt = none ∧ x.loop.busy = false) ∧
    (∀ k, 1 ≤ k → k ≤ 5 → [1, 1, 0, 0, 0].getD (k - 1) 0 ≤ [32, 384, 16, 64, 24].getD (k - 1) 0) ∧ ∃ s : State, s.pkg.chip ≠ 0 ∧ s.reachable 0 = true :=
  ⟨fun fn h => ⟨beating id, _, rfl, by revert fn; decide +kernel, by decide +revert +kernel, by decide +revert +kernel⟩, fun k h1 h2 => by interval_cases k <;> decide,
    ⟨{ State.reset with pkg := { Pkg.reset with chip := 127, routes := [(0, 0x8000)], links := [(15, (true, 8, 0))] } }, by decide, by decide +kernel⟩⟩
theorem meets_BeatLoops : ∃ (s : State) (x : Machine.Ctx), s.ctx 2 = some x ∧ x.loop.latches = [lat 1 false] ∧ (lat 1 false).b + 5000 ≤ s.now := ⟨beating fun l => { l with latches := [lat 1 false] }, _, rfl, rfl, Nat.le_refl 15000⟩

/-! ## Reports, interrupts and resets -/

def part3 : Part := { Part.reset with fn := 1 }
/-- Partition 3 of function 1, with a context of its own and one of another's. -/
def owned (f : PfRegs → PfRegs) (x : Part) : State :=
  { State.reset with regs := f PfRegs.reset, parts := [(3, x)], ctxs := [(0, bareCtx), (2, { bareCtx with part := 3 })], launches := [(0, lau), (3, { lau with ctx := 2 })], stands := [(0, std), (1, { std with launch := 3 })], queues := [(7, { Queue.reset with fn := some 1, ctx := 2, en := true })] }
/-- An entry that raises its bit, one pending still; an injection that is not for an enabled function, and one that is, masked or not; a ring with room, full, and off. -/
theorem meets_Reports : (∀ b : Bool, ∃ s : State, s.csum 1 = b ∧ (s.regs.cause.map fun e => e.1).Pairwise (· < ·)) ∧ (∃ s : State, s.regs.vfEnable = false) ∧
    (∀ m : Bool, ∃ s : State, (0x80000100#32).toNat / 2 ^ 31 % 2 = 1 ∧ (0x80000100#32).toNat / 256 % 32 = 1 ∧ s.regs.vfEnable = true ∧ 1 ≤ s.regs.numVfs ∧ Store.find 64 s.regs.msix = some (0, 0, m, false)) ∧
    (∃ s : State, s.regs.vfEnable = true ∧ 1 ≤ s.regs.numVfs ∧ Store.find 64 s.regs.msix = none) ∧
    (∀ used ∈ [0, 15, 16], ∃ s : State, (s.fn 1).ringOn = true ∧ ((s.fn 1).rrTail + 2 ^ 32 - (s.fn 1).rrHead) % 2 ^ 32 = used ∧ (s.fn 1).rrLog2 = 4) ∧ ∃ s : State, (s.fn 1).rrEn = false :=
  ⟨fun b => ⟨{ State.reset with regs := { PfRegs.reset with cause := [(64, { pend := b, mask := false, again := false, part := 0, ctx := 0, fn := 0 })] } }, by cases b <;> decide +kernel, by cases b <;> decide⟩, ⟨State.reset, rfl⟩,
    fun m => ⟨{ State.reset with regs := { PfRegs.reset with vfEnable := true, numVfs := 1, msix := [(64, (0, 0, m, false))] } }, by decide, by decide, rfl, by cases m <;> decide, rfl⟩,
    ⟨{ State.reset with regs := { PfRegs.reset with vfEnable := true, numVfs := 1 } }, rfl, by decide, rfl⟩,
    fun n h => ⟨{ State.reset with fns := [(1, { Fn.reset with rrEn := true, rrTail := n })] }, by revert n; decide +kernel, by revert n; decide +kernel, rfl⟩, ⟨State.reset, rfl⟩⟩
/-- While one runs; a GO with a checkpoint, and without; the end before its time, with a request, at its time, and without a request. -/
theorem meets_PartitionReset : (∃ s : State, s.resetBusy = true) ∧ (∀ ck : Bool, ∃ s : State, s.resetBusy = false ∧ s.regs.ckBusy = ck ∧ bits s.regs.trCtl.toNat 5 1 = 0 ∧ (s.launches.map fun e => e.1).Pairwise (· < ·) ∧ s.launches.length = 2) ∧
    (∃ s : State, (s.part 3).resetAt = some 5 ∧ s.regs.flr = [] ∧ (∃ r ∈ s.reqs, ∃ e ∈ s.ctxs, e.1 = r.2.ctx ∧ e.2.part = 3) ∧ s.now < 5 + max 100000 s.regs.rstto) ∧
    (∃ s : State, MemOk s ∧ (s.ctxs.map fun e => e.1).Pairwise (· < ·) ∧ (s.part 3).resetAt = some 5 ∧ s.regs.flr = [] ∧ 5 + max 100000 s.regs.rstto ≤ s.now ∧ ∃ r ∈ s.reqs, ∃ e ∈ s.ctxs, e.1 = r.2.ctx ∧ e.2.part = 3) ∧
    ∃ s : State, MemOk s ∧ (s.ctxs.map fun e => e.1).Pairwise (· < ·) ∧ (s.part 3).resetAt = some 5 ∧ s.regs.flr = [] ∧ s.reqs = [] :=
  ⟨⟨owned id { part3 with resetAt := some 5 }, by decide +kernel⟩, fun b => ⟨owned (fun r => { r with ckBusy := b }) part3, by cases b <;> decide +kernel, rfl, by cases b <;> decide +kernel, by simp [owned], rfl⟩,
    ⟨{ owned id { part3 with resetAt := some 5 } with reqs := [(8, { rq (.drainAdd 8 0 1) 9 none [] with ctx := 2 })] }, rfl, rfl, by decide +kernel, by decide +kernel⟩,
    ⟨{ owned id { part3 with resetAt := some 5 } with now := 10000005, reqs := [(8, { rq (.drainAdd 8 0 1) 9 none [] with ctx := 2 })] }, by unfold MemOk; decide +kernel, by decide, rfl, rfl, by decide +kernel, by decide +kernel⟩,
    ⟨owned id { part3 with resetAt := some 5 }, by unfold MemOk; decide +kernel, by decide, rfl, rfl, rfl⟩⟩
/-- A function that is off, one behind another's reset, one with a partition and one without; VF Enable set and clear. -/
theorem meets_FunctionResets : (∃ s : State, s.regs.vfEnable = false ∧ s.regs.vfOff = false) ∧
    (let on (s : State) (f : Nat) : Prop := s.regs.vfEnable = true ∧ 1 ≤ f ∧ f ≤ s.regs.numVfs ∧ f < 32
     (∃ s : State, on s 31 ∧ (∀ e ∈ s.regs.flr, e.1 ≠ 31) ∧ s.regs.flr ≠ []) ∧
     (∃ s : State, on s 1 ∧ s.regs.flr = [] ∧ s.anyReset = false ∧ s.regs.prstBusy = false ∧ s.regs.ckBusy = false ∧ ((List.range 32).filter fun p => decide ((s.part p).fn = 1)) = [3]) ∧
     (∃ s : State, on s 31 ∧ s.regs.flr = [] ∧ s.anyReset = false ∧ s.regs.prstBusy = false ∧ s.regs.ckBusy = false ∧ s.regs.vfOff = false ∧ ((List.range 32).filter fun p => decide ((s.part p).fn = 31)) = []) ∧
     (∃ s : State, on s 31 ∧ ∃ e ∈ s.regs.flr, e.1 = 31) ∧ ∃ s : State, s.regs.vfEnable = true ∧ s.regs.flr ≠ []) :=
  ⟨⟨State.reset, rfl, rfl⟩, ⟨owned (fun r => { r with vfEnable := true, numVfs := 31, flr := [(1, [3])] }) part3, by decide +kernel, by decide +kernel, by decide +kernel⟩,
    ⟨owned (fun r => { r with vfEnable := true, numVfs := 31 }) part3, by decide +kernel, rfl, by decide +kernel, rfl, rfl, by decide +kernel⟩,
    ⟨owned (fun r => { r with vfEnable := true, numVfs := 31 }) part3, by decide +kernel, rfl, by decide +kernel, rfl, rfl, rfl, by decide +kernel⟩,
    ⟨owned (fun r => { r with vfEnable := true, numVfs := 31, flr := [(31, [])] }) part3, by decide +kernel, by decide +kernel⟩, ⟨owned (fun r => { r with vfEnable := true, numVfs := 31, flr := [(31, [])] }) part3, rfl, by decide +kernel⟩⟩
theorem meets_ReportsAndResets : ∃ s : State, s.resetBusy = false ∧ s.regs.ckBusy = false := ⟨State.reset, by decide +kernel, rfl⟩

/-! ## Links, expanders and checkpoints -/

def linked : State := { State.reset with pkg := { Pkg.reset with links := [(15, (true, 8, 2))], routes := [(1, 0x8000)] } }
def ckBusy (restore live : Bool) : State := { State.reset with regs := { PfRegs.reset with ckBusy := true, ckRestore := restore, ckLive := some live } }
def ringMsg : RingMsg := { chip := 1, launch := 0, core := 0, ring := 0, mtag := 0, srcCore := 0, srcChip := 0, payload := [], answer := none }
/-- A link that is up with a SEND over it; an address of a chip that no link reaches; one of the tier. -/
theorem meets_LinksAndExpanders : (∃ (s : State) (w : WalkRec) (m : RingMsg), 15 < 16 ∧ Store.find 15 s.pkg.links = some (true, 8, 2) ∧ s.rounds = [] ∧ Store.find 9 s.walks = some w ∧ w.kind = .send m 0 0 ∧ w.status = none ∧ m.chip = 1 ∧ s.reachable m.chip = true) ∧
    (∃ (s : State) (x : Nat), region x = 3 ∧ s.reachable (x / 2 ^ 45 % 128) = false) ∧ (∃ s : State, 15 < 16 ∧ (4, 15) ∉ s.pkg.fenced) ∧
    ∃ (s : State) (x : Nat) (l : Leaf), 3 < 4 ∧ s.pkg.ports.length = 4 ∧ region x = 1 ∧ stackOf x / 2 = 3 ∧ s.translate 0 x = some l :=
  ⟨⟨{ linked with walks := [(9, { g := 0, slot := 0, lane := 31, hdl := false, kind := .send ringMsg 0 0, status := none })] }, _, ringMsg, by decide, rfl, rfl, rfl, rfl, rfl, rfl, by decide +kernel⟩,
    ⟨linked, 3 * 2 ^ 52 + 2 * 2 ^ 45, by decide, by decide +kernel⟩, ⟨linked, by decide, by decide⟩, ⟨{ bed std q1 with tlb := [{ stack := 6, tag := 0, vpage := 2 ^ 36, leaf := leaf }] }, 2 ^ 52 + 6144, leaf, by decide, rfl, by decide, by decide, by decide +kernel⟩⟩
theorem meets_Checkpoints : (let refused (s : State) : Prop := s.regs.ckBusy = true ∨ s.resetBusy = true ∨ (∃ p ∈ s.pkg.ports, p.1 = false) ∨ ∃ d, d < 4 ∧ (s.pkg.ports.getD d (false, 0)).2 < s.ckBase d + 192 * 2 ^ 30
     (∃ s : State, refused s) ∧ ∃ s : State, ¬ refused s ∧ s.ctxs = []) ∧
    (∀ live : Bool, ∃ s : State, s.regs.prstBusy = false ∧ s.regs.flr = [] ∧ s.regs.ckBusy = true ∧ s.regs.ckRestore = false ∧ s.regs.ckLive = some live ∧ s.ckQuiet = true ∧ ∀ d, d < 4 → s.ckBase d + 192 * 2 ^ 30 ≤ 2 ^ 56) ∧
    ∃ s : State, s.regs.prstBusy = false ∧ s.regs.flr = [] ∧ MemOk s ∧ s.regs.ckBusy = true ∧ s.regs.ckRestore = true ∧ s.regs.ckLive = some true :=
  ⟨⟨⟨ckBusy false false, .inl rfl⟩, ⟨State.reset, by decide +kernel, rfl⟩⟩, fun b => ⟨ckBusy false b, rfl, rfl, rfl, rfl, rfl, by cases b <;> decide +kernel, by cases b <;> decide +kernel⟩, ⟨ckBusy true true, rfl, rfl, by unfold MemOk; decide +kernel, rfl, rfl, rfl⟩⟩
theorem meets_LinksAndCheckpoints : ∃ s : State, s.regs.prstBusy = false ∧ s.regs.flr = [] ∧ s.regs.ckBusy = true := ⟨ckBusy true true, rfl, rfl, rfl⟩

/-! ## Accesses of the host and of peers -/

/-- The last bytes of device memory. -/
theorem meets_HostMemory : (∃ s : State, MemOk s ∧ (devEnd - 1) + ([1] : List Byte).length ≤ devEnd) ∧ 0 < 128 ∧ (devEnd - 128) + 128 ≤ devEnd := ⟨⟨State.reset, by unfold MemOk; decide +kernel, by decide⟩, by decide, by decide⟩
def peer (off : Nat) (w : Option (List Byte)) (a : Option (Nat × List Byte × List Byte)) : PeerReq := { chip := 1, ctx := 0, off := off, write := w, atom := a, n := 4 }
/-- A context that does not exist, and one in reset; a write, a read and an addition to the last word of the mapped page's first line, and of a page that is not present. -/
theorem meets_Peers : (∃ s : State, s.ctx 0 = none) ∧ (∃ s : State, (s.ctx 0).isSome = true ∧ (s.part (s.partOf 0)).resetAt.isSome = true) ∧
    (let here (s : State) (r : PeerReq) (n : Nat) : Prop := (s.ctx r.ctx).isSome = true ∧ (s.part (s.partOf r.ctx)).resetAt = none ∧ r.off % 2 ^ 45 % 128 + n ≤ 128
     (∃ (s : State) (r : PeerReq) (h : Home), MemOk s ∧ r.write = some [1, 2, 3, 4] ∧ here s r 4 ∧ s.land r.ctx (r.off % 2 ^ 45) true needWr = .ok h ∧ h.sp = .dev) ∧
     (∃ (s : State) (r : PeerReq), r.write = some [1, 2, 3, 4] ∧ here s r 4 ∧ s.land r.ctx (r.off % 2 ^ 45) true needWr = .error 0x15) ∧
     (∃ (s : State) (r : PeerReq) (h : Home), r.write = none ∧ r.atom = none ∧ here s r r.n ∧ s.landUse r.ctx (r.off % 2 ^ 45) true needRd = .ok h ∧ h.sp = .dev) ∧
     (∃ (s : State) (r : PeerReq), r.write = none ∧ r.atom = none ∧ here s r r.n ∧ s.landUse r.ctx (r.off % 2 ^ 45) true needRd = .error 0x15) ∧
     ∃ (s : State) (r : PeerReq) (h : Home) (k : ReqKind), MemOk s ∧ r.write = none ∧ r.atom = some (0x180, toBytes 4 7, []) ∧ peerKind 0x180 = some k ∧ here s r (max (k.width 4) 4) ∧ s.landUse r.ctx (r.off % 2 ^ 45) true k.need = .ok h ∧ h.sp = .dev) := by
  have l1 : ∃ h : Home, (mapped std q1).land 0 0x1007C true needWr = .ok h ∧ h.sp = .dev := by
    obtain ⟨h, h1, h2⟩ := ok_ex (x := (mapped std q1).land 0 0x1007C true needWr) (p := fun h => decide (h.sp = .dev)) (by decide +kernel)
    exact ⟨h, h1, of_decide_eq_true h2⟩
  have l2 : ∃ h : Home, (mapped std q1).landUse 0 0x1007C true needRd = .ok h ∧ h.sp = .dev := by
    obtain ⟨h, h1, h2⟩ := ok_ex (x := (mapped std q1).landUse 0 0x1007C true needRd) (p := fun h => decide (h.sp = .dev)) (by decide +kernel)
    exact ⟨h, h1, of_decide_eq_true h2⟩
  have l3 : okB ((mapped std q1).landUse 0 0x1007C true (ReqKind.atom 0 32).need) (fun h => decide (h.sp = .dev)) = true := by decide +kernel
  obtain ⟨h1, h1a, h1b⟩ := l1
  obtain ⟨h2, h2a, h2b⟩ := l2
  obtain ⟨h3, h3a, h3b⟩ := ok_ex l3
  refine ⟨⟨State.reset, rfl⟩, ⟨{ mapped std q1 with parts := [(0, { Part.reset with resetAt := some 0 })] }, rfl, rfl⟩,
    ⟨mapped std q1, peer 0x1007C (some [1, 2, 3, 4]) none, h1, by unfold MemOk; decide +kernel, rfl, by decide +kernel, h1a, h1b⟩, ⟨mapped std q1, peer 0x50000 (some [1, 2, 3, 4]) none, rfl, by decide +kernel, is_err (by decide +kernel)⟩,
    ⟨mapped std q1, peer 0x1007C none none, h2, rfl, rfl, by decide +kernel, h2a, h2b⟩, ⟨mapped std q1, peer 0x50000 none none, rfl, rfl, by decide +kernel, is_err (by decide +kernel)⟩,
    ⟨mapped std q1, peer 0x1007C none (some (0x180, toBytes 4 7, [])), h3, .atom 0 32, by unfold MemOk; decide +kernel, rfl, rfl, by decide, by decide +kernel, h3a, of_decide_eq_true h3b⟩⟩
/-- The physical function, the cruiser and a virtual one; a queue on and off; BUSY and the ring's EN, both ways. -/
theorem meets_RegisterWrites : (let answers (s : State) (who : Nat) : Prop := s.pkg.ready = true ∧ (who = 0 ∨ who = 32 ∨ (s.regs.vfEnable = true ∧ 1 ≤ who ∧ who ≤ s.regs.numVfs ∧ who < 32))
     (∃ s : State, ¬ answers s 0) ∧ (∀ who ∈ [0, 31, 32], ∀ b : Bool, ∃ s : State, answers s who ∧ s.queueBy (if who = 32 then 0 else who) 511 = some 511 ∧ s.queueShut (s.queue 511) = false ∧ (s.queue 511).en = b ∧ (s.fn (if who = 32 then 0 else who)).ctxBusy = b ∧ (s.fn (if who = 32 then 0 else who)).rrEn = b)) ∧
    (∃ s : State, s.queueBy 1 511 = none) ∧ (∃ (s : State) (x : Machine.Ctx), s.queueBy 0 511 = some 511 ∧ s.ctx (s.queue 511).ctx = some x ∧ (s.part x.part).resetAt.isSome = true) ∧
    ∃ s : State, s.pkg.ready = true :=
  ⟨⟨⟨{ State.reset with pkg := { Pkg.reset with ready := false } }, by decide⟩, fun who h b =>
      ⟨{ State.reset with regs := { PfRegs.reset with vfEnable := true, numVfs := 31 }, fns := [(if who = 32 then 0 else who, { Fn.reset with ctxBusy := b, rrEn := b })], queues := [(511, { Queue.reset with fn := some (if who = 32 then 0 else who), num := 511, en := b })] },
        by revert who; cases b <;> decide +kernel, by revert who; cases b <;> decide +kernel, by revert who; cases b <;> decide +kernel, rfl, by revert who; cases b <;> decide +kernel, by revert who; cases b <;> decide +kernel⟩⟩, ⟨State.reset, by decide +kernel⟩,
    ⟨{ State.reset with ctxs := [(0, bareCtx)], parts := [(0, { Part.reset with resetAt := some 5 })] }, bareCtx, by decide +kernel, rfl, by decide +kernel⟩, ⟨State.reset, rfl⟩⟩
theorem meets_HostAndPeers : ∃ s : State, s.pkg.ready = true ∧ MemOk s := ⟨State.reset, rfl, by unfold MemOk; decide +kernel⟩

/-! ## Errors, fences, power -/

/-- A stand without a handler, one whose handler stands on another lane, one whose handler stands on the lane, and a lane where nothing lives; teams, operations and copies; a core with a stand of a launch and one without. -/
theorem meets_Errors : (∀ x ∈ [(std, 31), (handled false 0 [], 0)], ∃ (s : State) (l : Machine.Launch), s.stand (standKey 0 0) = some x.1 ∧ s.launch x.1.launch = some l ∧ (x.1.t true x.2).st = .exited ∧ (x.1.t false x.2).st ≠ .exited) ∧
    (∃ (s : State) (l : Machine.Launch), s.stand (standKey 0 0) = some (handled false 0 []) ∧ s.launch (handled false 0 []).launch = some l ∧ ((handled false 0 []).t true 31).st ≠ .exited) ∧
    (∃ (s : State) (q : Squad) (n : Nat), s.squadOf (standKey 0 0) false 31 = some q ∧ decode (q.ws.drop q.k) = some (.send { c := 0, a := 4, b := 5 }, n) ∧ s.rounds = []) ∧
    (∃ s : State, s.squadOf (standKey 0 0) false 31 = some q1 ∧ decode (q1.ws.drop q1.k) = some (.nop { c := 0 }, 1)) ∧
    (∃ s : State, s.squadOf (standKey 0 0) false 31 = none ∧ s.stand (standKey 0 0) = some (parkedIn .treew none id) ∧ ((parkedIn .treew none id).t false 31).st = .parked .treew) ∧
    (let st : Stand := { std with thr := List.replicate 32 Thread.gone }
     ∃ (s : State) (l : Machine.Launch), s.stand (standKey 0 0) = some st ∧ s.launch st.launch = some l ∧ (st.t true 0).st = .exited ∧ (st.t false 0).st = .exited) ∧
    (∃ (s : State) (h : Home), s.land 0 0x1007C false needRd = .ok h ∧ homeKey h.sp h.pa ∈ s.poison) ∧
    (∃ (s : State) (t : Team) (o : MOp), s.team 7 = some t ∧ t.queue = [o]) ∧ (∃ (s : State) (c : Cpy), Store.find 8 s.cpys = some c) ∧
    ∃ (s : State) (l : Machine.Launch), bits s.regs.trCtl.toNat 5 1 = 0 ∧ (s.launches.map fun e => e.1).Pairwise (· < ·) ∧ (∃ e ∈ s.stands, e.1 / 32 = 0 ∧ s.launchCtx e.2.launch = some 0) ∧ s.launch 3 = some l ∧ l.ctx = 2 := by
  obtain ⟨h, h1, h2⟩ := ok_ex (x := (mapped std q1).land 0 0x1007C false needRd) (p := fun h => decide (homeKey h.sp h.pa = 0x10000 / 128)) (by decide +kernel)
  exact ⟨fun x hx => ⟨bed x.1 q1, lau, rfl, by revert x; decide +kernel, by revert x; decide +kernel, by revert x; decide +kernel⟩, ⟨bed (handled false 0 []) q1, lau, rfl, rfl, by decide +kernel⟩,
    ⟨bed std (sqd (Instr.send { c := 0, a := 4, b := 5 }).encode 0x80000000 false), sqd (Instr.send { c := 0, a := 4, b := 5 }).encode 0x80000000 false, 1, by decide +kernel, by decide +kernel, rfl⟩, ⟨bed std q1, by decide +kernel, by decide +kernel⟩,
    ⟨{ bed (parkedIn .treew none id) q1 with issue := [] }, rfl, rfl, by decide +kernel⟩, ⟨bed { std with thr := List.replicate 32 Thread.gone } q1, lau, rfl, rfl, by decide +kernel, by decide +kernel⟩,
    ⟨{ mapped std q1 with poison := [0x10000 / 128] }, h, h1, by rw [of_decide_eq_true h2]; decide⟩, ⟨withOp (work 2 .none .none []), _, _, rfl, rfl⟩, ⟨{ bed std q1 with cpys := [(8, cmdOf [] none false)] }, _, rfl⟩,
    ⟨{ bed std q1 with launches := [(0, lau), (3, { lau with ctx := 2 })] }, { lau with ctx := 2 }, rfl, by simp, ⟨_, List.mem_cons_self, rfl, rfl⟩, rfl, rfl⟩⟩
/-- A unit that is fenced already, and each kind that is not: with a stand on the core and in the cluster, and a link that is up. -/
theorem meets_FencesAndPower : (∀ k, k < 5 → (∃ s : State, (k, 383) ∈ s.pkg.fenced) ∧ ∃ s : State, (k, 0) ∉ s.pkg.fenced ∧ bits s.regs.trCtl.toNat 5 1 = 0 ∧ (s.launches.map fun e => e.1).Pairwise (· < ·) ∧ s.stands.length = 1 ∧ (s.lent.map fun e => e.1).Pairwise (· < ·) ∧ s.rounds = [] ∧ Store.find 0 s.pkg.links = some (true, 8, 2)) ∧
    (∀ b : Bool, ∃ img : FwImage, img.good = b) ∧ ∃ bs : List Byte, bs.getD 1 0 ∈ [0x81, 0x82, 0x83, 0x84] :=
  ⟨fun k h => ⟨⟨{ State.reset with pkg := { Pkg.reset with fenced := [(k, 383)] } }, List.mem_cons_self⟩, ⟨{ bed std q1 with pkg := { Pkg.reset with links := [(0, (true, 8, 2))] } }, by decide +revert, by decide +revert +kernel, by simp [bed], rfl, by decide +revert, rfl, rfl⟩⟩,
    fun b => ⟨{ good := b, svn := 0, tag := 0 }, rfl⟩, [0x13, 0x84], by decide⟩
theorem meets_ErrorsAndFences : ∃ (s : State) (t : Team), s.team 7 = some t := ⟨withTeam std (teamOf 2), _, rfl⟩

/-! ## The debugger -/

/-- The stand whose lane 31 is held, by the debugger at packet 0, in an armed partition. -/
def paused : Stand := { std with thr := (std.thr.map fun t => { t with st := .ready }).set 31 { std.t false 31 with st := .stopped, dbg := .held } }
def debugged (f : Dbg → Dbg) (st : Stand) : State := { vectored false st q1 with ctxs := [(0, { bareCtx with dbg := f Dbg.off })], parts := [(0, { Part.reset with armed := true })] }
/-- The debugger's selection of lane 31's register, by class and number. -/
def rsel (cls reg : Nat) (drain : Bool) : W := BitVec.ofNat 32 (2 ^ 14 * 31 + 2 ^ 19 * cls + 2 ^ 22 * reg + if drain then 2 ^ 30 else 0)
def cand (st : Stand) : Cand := { slot := 0, lane := 31, hdl := false, launch := 0, t := st.t false 31 }
def bps (n : Nat) : List (Nat × Bool) := ((List.range 4).map fun m => (m, decide (m = 0))).rotateRight n
/-- Not armed; armed, with and without DELIV; STOP at a safe point and elsewhere; a breakpoint in each register. -/
theorem meets_DebugStops : (∃ (s : State) (x : Machine.Ctx), s.ctx 0 = some x ∧ (s.part x.part).armed = false ∧ x.dbg.pend = none) ∧
    (∀ b : Bool, ∃ (s : State) (x : Machine.Ctx), s.ctx 0 = some x ∧ (s.part x.part).armed = true ∧ x.dbg.deliv = b ∧ s.stands = [(0, paused)]) ∧
    (∀ sp : Bool, ∃ (s : State) (k : Cand) (ws : List W) (x : Machine.Ctx), s.ctx coded.ctx = some x ∧ x.dbg.stop = true ∧ k.t.dbg = .none ∧ (∀ b ∈ x.dbg.bp, b.2 = false) ∧ s.mustStop 0 coded.ctx = 0 ∧ cSp (ws.headD 0) = sp ∧ k.hdl = false) ∧
    ∀ n, n < 4 → ∃ (s : State) (k : Cand) (ws : List W) (x : Machine.Ctx), s.ctx coded.ctx = some x ∧ s.mustStop 0 coded.ctx = 0 ∧ cSp (ws.headD 0) = true ∧ k.hdl = false ∧ k.t.dbg = .none ∧ s.position coded (coded.pkt k.t.pc) = .ok 0 0 ∧ x.dbg.bp.length = 4 ∧ (∀ m, m < 4 → (x.dbg.bp.getD m (0, false) = (0, true) ↔ m = n)) ∧ x.dbg.deliv = false :=
  ⟨⟨bed std q1, bareCtx, rfl, by decide +kernel, rfl⟩, fun b => ⟨debugged (fun d => { d with deliv := b }) paused, _, rfl, by cases b <;> decide +kernel, rfl, rfl⟩,
    fun sp => ⟨debugged (fun d => { d with stop := true }) std, cand std, [if sp then 0x800 else 0], _, rfl, rfl, by decide +kernel, by decide +kernel, by decide +kernel, by cases sp <;> decide, rfl⟩,
    fun n h => ⟨debugged (fun d => { d with bp := bps n }) std, cand (resting .ready id), [0x800], _, rfl, by decide +revert +kernel, by decide, rfl, by decide +kernel, by decide +revert +kernel, by decide +revert +kernel, by decide +revert +kernel, rfl⟩⟩
/-- The last register of each class; a thread that is not held, a stand that is spilled, a register beyond; a register that a counted operation is to write, with and without DRAIN; a write that waits, with its flag at 1 and at 0. -/
theorem meets_DebugAccess :
    (let held (s : State) (x : Machine.Ctx) (cls reg : Nat) (v : Nat) : Prop := s.ctx 0 = some x ∧ (s.part x.part).armed = true ∧ x.dbg.pend = none ∧ x.dbg.rsel = rsel cls reg false ∧ s.stand 0 = some paused ∧ s.launch paused.launch = some coded ∧ coded.ctx = 0 ∧ (paused.t true 31).dbg ≠ .held ∧
       (paused.t false 31).dbg = .held ∧ paused.place = .resident ∧ reg ∉ paused.spilledV ∧ s.counted x.dbg.rsel = none ∧ 31 < paused.thr.length ∧ inMask paused.live 31 = true ∧ 16 ≤ s.freePool 0 ∧ (cls = 4 → (s.isSafePoint coded v = true ↔ v = 0))
     ∀ y ∈ [(0, 127, 0), (1, 63, 0), (2, 95, 0), (3, 11, 0), (4, 0, 0), (4, 127, 1), (5, 0, 0), (0, 127, 0)], ∃ (s : State) (x : Machine.Ctx), held s x y.1 y.2.1 y.2.2) ∧
    (127 < paused.v.length ∧ 63 < paused.s.length ∧ 95 < paused.p.length ∧ 127 < coded.hdr.vregs ∧ 63 < coded.hdr.sregs ∧ 95 < coded.hdr.pregs) ∧
    (∀ st ∈ [std, { paused with place := .spilled }, { paused with spilledV := [127] }], ∃ (s : State) (x : Machine.Ctx), s.ctx 0 = some x ∧ (s.part x.part).armed = true ∧ x.dbg.pend = none ∧ x.dbg.rsel = rsel 0 127 false ∧ s.stand 0 = some st ∧ s.launch st.launch = some coded ∧ (st.t true 31).dbg ≠ .held) ∧
    (∀ drain : Bool, ∃ (s : State) (x : Machine.Ctx), s.ctx 0 = some x ∧ (s.part x.part).armed = true ∧ x.dbg.pend = none ∧ x.dbg.rsel = rsel 0 127 drain ∧ s.stand 0 = some paused ∧ s.counted x.dbg.rsel = some 0 ∧ (x.dbg.rsel.toNat / 2 ^ 30 % 2 = 1 ↔ drain = true)) ∧
    ∀ drained : Bool, ∃ (s : State) (x : Machine.Ctx), s.ctx 0 = some x ∧ x.dbg.pend = some (rsel 0 127 true, 5, 0) ∧ s.dbgDrained (rsel 0 127 true) 0 = drained ∧ (drained = true → s.counted (rsel 0 127 true) = none) ∧ s.stand 0 = some paused ∧ s.launch paused.launch = some coded ∧ x.dbg.drainAt ≤ s.cyc ((rsel 0 127 true).toNat % 512) :=
  ⟨fun y h => ⟨debugged (fun d => { d with rsel := rsel y.1 y.2.1 false }) paused, _, rfl, by revert y; decide +kernel, rfl, rfl, rfl, by revert y; decide +kernel, rfl, by decide +kernel, by decide +kernel, rfl, List.not_mem_nil, by revert y; decide +kernel, by decide +kernel, by decide +kernel, by revert y; decide +kernel, by revert y; decide +kernel⟩,
    by decide +kernel, fun st h => ⟨debugged (fun d => { d with rsel := rsel 0 127 false }) st, _, rfl, by revert st; decide +kernel, rfl, rfl, rfl, by revert st; decide +kernel, by revert st; decide +kernel⟩,
    fun b => ⟨{ debugged (fun d => { d with rsel := rsel 0 127 b }) paused with ops := [(7, opn .atom (olane 31 0x1007C 4 false) false)] }, _, rfl, by cases b <;> decide +kernel, rfl, rfl, rfl, by cases b <;> decide +kernel, by cases b <;> decide +kernel⟩,
    fun b => ⟨{ debugged (fun d => { d with pend := some (rsel 0 127 true, 5, 0) }) paused with ops := if b then [] else [(7, opn .atom (olane 31 0x1007C 4 false) false)] }, _, rfl, rfl, by cases b <;> decide +kernel, by cases b <;> decide +kernel, rfl, by cases b <;> rfl, by cases b <;> decide +kernel⟩⟩
theorem meets_DebugAndFreeze : ∃ (s : State) (x : Machine.Ctx), s.ctx 0 = some x ∧ (s.part x.part).armed = true := ⟨debugged id paused, _, rfl, by decide +kernel⟩

/-! ## The machine as a whole -/

theorem meets_DecodeEncode : ∀ i ∈ [Instr.nop { c := 1 }, .sel { c := 1, d := 127, a := 127, b := .lit 0xFFFFFFFF, pe := 95 }], i.wf = true ∧ i.isCode = true := by decide
theorem meets_decoded : ∃ (ws : List W) (i : Instr) (n : Nat), decode ws = some (i, n) := ⟨[0x7C000000#32], .nop { c := 0 }, 1, by decide +kernel⟩
/-- A squad's slot; a step of the device; a tick; clocks that stand; what follows a slot. -/
theorem meets_StepRunsDecoded : (∃ (s : State) (q : Squad) (i : Instr) (len : Nat), s.awake = true ∧ s.turn = .squad 0 ∧ s.issue[0]? = some q ∧ decode (q.ws.drop q.k) = some (i, len)) ∧
    (∃ (s : State) (q : Squad), s.issue = [q] ∧ q.b < q.k) ∧ (∃ s : State, s.awake = true ∧ s.turn = .event .epochBoundary) ∧ (∃ s : State, s.awake = true ∧ s.turn = .tick) ∧ (∃ s : State, s.awake = false) ∧
    (∀ ga ∈ [(true, false), (true, true), (false, false)], ∃ (s : State) (q : Squad), s.issue = [q] ∧ (q.mem = [] ↔ ga.1 = false) ∧ q.again = ga.2 ∧ q.k + 1 < 3 ∧ 3 ≤ q.k + 3) ∧
    ∃ (s : State) (l : Machine.Launch) (bs : List Byte), Store.find (pcKey 0 (s.ctag l.ctx) (pcVa 0)) s.pcache = some bs :=
  ⟨⟨bed std q1, q1, .nop { c := 0 }, 1, by decide, rfl, rfl, by decide +kernel⟩, ⟨bed std { q1 with k := 1 }, { q1 with k := 1 }, rfl, by decide⟩, ⟨{ State.reset with turn := .event .epochBoundary }, by decide, rfl⟩, ⟨State.reset, by decide, rfl⟩, ⟨{ State.reset with pkg := { Pkg.reset with frozen := true } }, by decide⟩,
    fun ga h => ⟨bed std { q1 with mem := if ga.1 then q1.mem else [], again := ga.2 }, _, rfl, by revert ga; decide, rfl, by revert ga; decide, by revert ga; decide⟩,
    ⟨{ bed std q1 with pcache := [(pcKey 0 0 0, List.replicate 128 1)] }, lau, List.replicate 128 1, by decide +kernel⟩⟩
/-- The state after reset and the bed take a step. -/
theorem meets_StepKeepsMemory : ∃ s t : State, step s = .next t ∧ MemOk s ∧ ChipOk s := ⟨State.reset, _, rfl, by unfold MemOk; decide +kernel, by unfold ChipOk; decide⟩
theorem bed_tables : TablesOk (bed std q1) := ⟨by unfold Numbered; decide, by unfold Numbered; decide, by unfold Numbered; decide, by unfold Numbered; decide, by unfold Numbered; decide, by unfold Numbered; decide, by unfold Numbered; decide, by unfold Numbered; decide, by decide, by decide, by decide, by decide, by decide, by decide⟩
theorem meets_StepKeepsTables : ∃ s t : State, TablesOk s ∧ step s = .next t ∧ s.issue ≠ [] := ⟨bed std q1, _, bed_tables, rfl, by decide⟩

/-! ## Worked examples of the specification -/

/-- The stand after one instruction of the squad. -/
def ran (i : Instr) (st : Stand) (sq : Squad) : Option Stand := match exec i (bed st sq) with | .next t => t.stand 0 | _ => none
/-- V4 and FSTK after, as the example of chapter 09 gives them. -/
def packs (v4 v n fstk v4' fstk' : Nat) : Bool :=
  match ran (.npk { c := 0, d := 4, a := 3, b := .lit (BitVec.ofNat 32 (256 * n + 4)) }) { std with v := (std.v.set 4 (.u (BitVec.ofNat 32 v4))).set 3 (.u (BitVec.ofNat 32 v)), fstk := fstk } q32 with
  | some st => decide (st.v[4]? = some (.u (BitVec.ofNat 32 v4')) ∧ st.fstk = fstk')
  | none => false
theorem test_npk_worked : packs 0 0x4079999A 0 0 0x5F 4 ∧ packs 0x5F 0x407C0000 1 4 0x605F 4 ∧ packs 0x605F 0xBF180000 2 4 0xB3605F 4 ∧ packs 0xB3605F 0x459C4000 3 4 0x7FB3605F 6 := by decide +kernel
theorem test_t8unpk_worked : (ran (.t8unpk { c := 0, d := 5, a := 4, b := .imm 1 }) { std with v := std.v.set 4 (.u 0x7FB3605F) } q32).map (fun st => st.v[5]?) = some (some (.u 0x40800000)) ∧
    (ran (.t8unpk { c := 0, d := 6, a := 4, b := .imm 3 }) { std with v := std.v.set 4 (.u 0x7FB3605F) } q32).map (fun st => st.v[6]?) = some (some (.u 0x45800000)) := by decide +kernel
/-- Steps 1 to 5 of the example of chapter 06: the shapes of V5, V6 and V7, and the last holding. -/
def lanesV4 : Stand := { std with v := std.v.set 4 (.a 0 1) }
theorem test_shapes_worked : (ran (.shl { c := 0, d := 5, a := 4, b := .imm 2 }) lanesV4 q32).map (fun st => st.v[5]?) = some (some (.a 0 4)) ∧
    (ran (.iadd { c := 0, d := 6, a := 5, b := .s 32 }) { std with v := std.v.set 5 (.a 0 4), s := std.s.set 32 0x1000 } q32).map (fun st => st.v[6]?) = some (some (.a 0x1000 4)) ∧
    (ran (.imul { c := 0, d := 7, a := 4, b := .v 4 }) lanesV4 q32).map (fun st => (st.v.getD 7 (.u 0)).code) = some 3 := by decide +kernel
theorem test_partial_write_worked : (ran (.iadd { c := 0, d := 6, a := 6, b := .imm 1 }) { std with v := std.v.set 6 (.a 0x1000 4) } { q32 with mem := [(0, 0xFF)] }).map (fun st => ((st.v.getD 6 (.u 0)).code, st.rv 6 7, st.rv 6 8)) = some (2, 0x101D, 0x1020) := by decide +kernel
/-- Chapter 10: stack, home slice and local address of one line. -/
theorem test_address_worked : stackOf 0x0000123456789A80 = 2 ∧ sliceOf 0x0000123456789A80 = 33 ∧ stackLocal 0x1234509A80 = 0x2468A1280 := by decide
/-- Chapter 04: context 7's loop, by its positions, integral and count. -/
def seven (pos : List Nat) (i : Int) : Loop := { ctxOne.loop with target := 500, kp := 256, ki := 64, ilim := 1024, smax := 4, act := [(8, 28), (4, 16), (2, 12), (4, 16), (0, 24)], pos := pos, clkok := false, intg := i }
theorem test_loop_worked : (let w := (seven [26, 12, 8, 8, 16] 0).step 380
      w.elast = 120 ∧ w.intg = 120 ∧ w.ulast = 4 ∧ w.req = [2, 2, 0, 0, 0]) ∧ (let w := (seven [28, 13, 8, 8, 16] 0).step 470
      w.ulast = 2 ∧ w.intg = 30 ∧ w.req = [0, 2, 0, 0, 0]) ∧ (let w := (seven [28, 15, 8, 8, 16] 30).step 515
      w.elast = -15 ∧ w.intg = 15 ∧ w.ulast = -1 ∧ w.req = [0, 0, 0, -1, 0] ∧ w.cur = 4) ∧ (let w := (seven [28, 15, 8, 7, 16] 15).step 500
      w.ulast = 0 ∧ w.req = [0, 0, 0, 0, 0]) := by decide +kernel
def ask (c cls r : Nat) : Ask := { ctx := c, cls := cls, pos := 0, min := 0, w := 1, r := r, part := 0, g := 0, shed := false }
theorem test_round_worked : (runPool 4 0 [ask 3 0 2, ask 7 1 2, ask 12 1 4, ask 20 2 1]).1.map (fun a => (a.ctx, a.g)) = [(3, 2), (7, 1), (12, 1), (20, 0)] ∧
    ((runPool 6 0 [ask 3 0 2, ask 7 1 2, ask 12 1 4, ask 20 2 1]).1.map (fun a => (a.ctx, a.g))).take 2 = [(3, 2), (7, 2)] := by decide +kernel

end Sys2Proof.Tests
end

