-- ==== Sys2Proof/Proofs/Recompression.lean ====
section
/-! Recompression takes the first shape that fits (06 R138, R139). -/
namespace Sys2Proof.Machine

/-! When a set of values fits a shape: the table of R139 -/

/-- The values fit U, and U is among the shapes tried. -/
def FitsU (aU : Bool) (live : W) (vals : List W) : Prop :=
  aU = true ∧ ∀ l, inMask live l = true → vals.getD l 0 = vals.getD (lowest live) 0
/-- The values fit A, and A is among the shapes tried. -/
def FitsA (aA : Bool) (live : W) (vals : List W) : Prop :=
  aA = true ∧ inMask live 0 = true ∧ inMask live 1 = true ∧
    ∀ l, inMask live l = true → vals.getD l 0 = vals.getD 0 0 + BitVec.ofNat 32 l * (vals.getD 1 0 - vals.getD 0 0)
/-- Every live lane's difference to the lowest live lane lies within bounds, as G8 and G16 ask. -/
def DeltasWithin (live : W) (vals : List W) (lo hi : Int) : Prop :=
  ∀ l, inMask live l = true → lo ≤ delta (vals.getD (lowest live) 0) (vals.getD l 0) ∧ delta (vals.getD (lowest live) 0) (vals.getD l 0) ≤ hi

theorem DeltasWithin.mono {live : W} {vals : List W} {lo hi lo' hi' : Int} (h : DeltasWithin live vals lo hi) (hlo : lo' ≤ lo) (hhi : hi ≤ hi') :
    DeltasWithin live vals lo' hi' := fun l hl => ⟨hlo.trans (h l hl).1, (h l hl).2.trans hhi⟩

/-! The lowest live lane -/

theorem lowest_eq_zero {live : W} (h : inMask live 0 = true) : lowest live = 0 := by
  simp [lowest, lanesOf, lanes32, List.range_succ_eq_map, h]

/-- A test of every lane of a list that holds the lanes of a mask. -/
theorem all_lanes_iff {live : W} {ls : List Nat} (hls : lanesOf live = ls) (p : Nat → Prop) [DecidablePred p] :
    (ls.all fun l => decide (p l)) = true ↔ ∀ l, inMask live l = true → p l := by
  subst hls
  simp [List.all_eq_true, mem_lanesOf]

/-! Recompression, case by case -/

open Classical in
/-- What recompression answers while a lane is live: the first shape of R139's order that fits. -/
theorem recompress_eq_firstFit (aU aA : Bool) {live : W} (vals : List W) (h : live ≠ 0) :
    recompress aU aA live vals =
      if FitsU aU live vals then .u (vals.getD (lowest live) 0)
      else if FitsA aA live vals then mkAff (vals.getD 0 0) (vals.getD 1 0 - vals.getD 0 0)
      else if DeltasWithin live vals (-128) 127 then
        .g8 (vals.getD (lowest live) 0) (lanes32.map fun l => if inMask live l then (vals.getD l 0 - vals.getD (lowest live) 0).setWidth 8 else 0)
      else if DeltasWithin live vals (-32768) 32767 then
        .g16 (vals.getD (lowest live) 0) (lanes32.map fun l => if inMask live l then (vals.getD l 0 - vals.getD (lowest live) 0).setWidth 16 else 0)
      else .gr (lanes32.map fun l => vals.getD l 0) := by
  cases hc : lanesOf live with
  | nil => exact absurd hc (lanesOf_ne_nil h)
  | cons l0 ls =>
    have hlow : lowest live = l0 := by simp [lowest, hc]
    unfold recompress FitsU FitsA DeltasWithin
    simp only [hc, hlow]
    refine if_congr ?u rfl (if_congr ?a rfl (if_congr (all_lanes_iff hc _) rfl (if_congr (all_lanes_iff hc _) rfl rfl)))
    case u => rw [Bool.and_eq_true, all_lanes_iff hc]
    case a => rw [Bool.and_eq_true, Bool.and_eq_true, Bool.and_eq_true, all_lanes_iff hc, and_assoc, and_assoc]

section
variable {aU aA : Bool} {live : W} {vals : List W}

theorem recompress_of_fitsU (h : live ≠ 0) (hU : FitsU aU live vals) : recompress aU aA live vals = .u (vals.getD (lowest live) 0) := by
  rw [recompress_eq_firstFit aU aA vals h, if_pos hU]

/-- Values of stride 0 that fit A are all equal: they fit U, which comes first. -/
theorem FitsA.stride_ne_zero (hA : FitsA aA live vals) (hAU : aA = true → aU = true) (hU : ¬FitsU aU live vals) :
    vals.getD 1 0 - vals.getD 0 0 ≠ 0 := by
  obtain ⟨haA, h0, -, hv⟩ := hA
  intro hs
  refine hU ⟨hAU haA, fun l hl => ?_⟩
  rw [lowest_eq_zero h0, hv l hl, hs]
  simp

theorem recompress_of_fitsA (h : live ≠ 0) (hAU : aA = true → aU = true) (hU : ¬FitsU aU live vals) (hA : FitsA aA live vals) :
    recompress aU aA live vals = .a (vals.getD 0 0) (vals.getD 1 0 - vals.getD 0 0) := by
  rw [recompress_eq_firstFit aU aA vals h, if_neg hU, if_pos hA, mkAff, if_neg (hA.stride_ne_zero hAU hU)]

theorem recompress_of_within8 (h : live ≠ 0) (hU : ¬FitsU aU live vals) (hA : ¬FitsA aA live vals) (h8 : DeltasWithin live vals (-128) 127) :
    ∃ d, recompress aU aA live vals = .g8 (vals.getD (lowest live) 0) d := by
  rw [recompress_eq_firstFit aU aA vals h, if_neg hU, if_neg hA, if_pos h8]
  exact ⟨_, rfl⟩

theorem recompress_of_within16 (h : live ≠ 0) (hU : ¬FitsU aU live vals) (hA : ¬FitsA aA live vals) (h8 : ¬DeltasWithin live vals (-128) 127)
    (h16 : DeltasWithin live vals (-32768) 32767) : ∃ d, recompress aU aA live vals = .g16 (vals.getD (lowest live) 0) d := by
  rw [recompress_eq_firstFit aU aA vals h, if_neg hU, if_neg hA, if_neg h8, if_pos h16]
  exact ⟨_, rfl⟩

theorem recompress_of_not_within16 (h : live ≠ 0) (hU : ¬FitsU aU live vals) (hA : ¬FitsA aA live vals)
    (h16 : ¬DeltasWithin live vals (-32768) 32767) : ∃ d, recompress aU aA live vals = .gr d := by
  have h8 : ¬DeltasWithin live vals (-128) 127 := fun h8 => h16 (h8.mono (by decide) (by decide))
  rw [recompress_eq_firstFit aU aA vals h, if_neg hU, if_neg hA, if_neg h8, if_neg h16]
  exact ⟨_, rfl⟩

/-- Recompression yields A only where A fits, and so only with lanes 0 and 1 live. -/
theorem fitsA_of_recompress_code (h : live ≠ 0) (hc : (recompress aU aA live vals).code = 1) : FitsA aA live vals := by
  by_contra hA
  rw [recompress_eq_firstFit aU aA vals h, if_neg hA] at hc
  split_ifs at hc <;> simp [VReg.code] at hc

end

/-- Settles O6: every shape is read off the first fit, and lanes keep their values by `lane_recompress`. -/
theorem recompressionIsNarrowest : Obligations.RecompressionIsNarrowest := by
  intro aU aA live vals h hAU
  refine ⟨lane_recompress aU aA live vals, recompress_of_fitsU h, recompress_of_fitsA h hAU,
    recompress_of_within8 h, recompress_of_within16 h, recompress_of_not_within16 h, fun hdead hc => ?_⟩
  obtain ⟨-, h0, h1, -⟩ := fitsA_of_recompress_code h hc
  rcases hdead with hd | hd
  · exact Bool.false_ne_true (hd.symm.trans h0)
  · exact Bool.false_ne_true (hd.symm.trans h1)

end Sys2Proof.Machine
end

