-- ==== Sys2Proof/Proofs/Select.lean ====
section
/-! SEL is a select between two operands by a predicate (07 R149). -/
namespace Sys2Proof.Machine

theorem exec_sel (x : RSel) (s : State) :
    exec (.sel x) s = regOp (.sel x) (fun e => (e.st.wv e.q x.d .auto fun l => if e.st.rp x.pe l then e.st.rv x.a l else e.st.src x.b l, [])) s := rfl

/-- PT reads 1 in every lane. -/
@[simp] theorem rp_true (st : Stand) (l : Nat) : st.rp 127 l = true := if_pos rfl

theorem setsV_sel (x : RSel) : SetsV (.sel x) x.d fun e l => if e.st.rp x.pe l then e.st.rv x.a l else e.st.src x.b l :=
  setsV_of _ _ _ (fun _ => .auto) (exec_sel x) fun _ => trivial

/-- Settles O1: SEL is a plain write of one V register by a rule that fits every value; PE 127 names PT. -/
theorem select : Obligations.Select := by
  refine ⟨setsV_sel, fun x hpe => ?_⟩
  have hsel := setsV_sel x
  simpa only [hpe, rp_true, if_true] using hsel

end Sys2Proof.Machine
end

