-- ==== Sys2Proof/Proofs/SpecialFunctions.lean ====
section
/-! The special functions: their write with the sticky flags (09 R184, R199), and their special arguments (R208). -/
namespace Sys2Proof.Machine

/-! The write of a special function -/

/-- A floating-point form that writes one V register: never in the shape A, with the flags of the participants united. -/
theorem setsVF_of_f1 (i : Instr) (d : Nat) (f : Env → Nat → W × Flags) (hx : ∀ s, exec i s = regOp i (fun e => e.f1 d (f e)) s) :
    SetsVF i d (fun _ => True) (fun _ e l => (f e l).1) fun _ e => e.flags fun l => (f e l).2 :=
  setsVF_of i d _ _ _ (fun _ _ => .noA) _ (ends_sticky _) hx fun _ _ => trivial

/-- An instruction that runs the special function OP on V[A] writes its values and raises its flags. -/
theorem setsVF_special (i : Instr) (x : RU) (op : Nat) (hx : ∀ s, exec i s = regOp i (fun e => e.f1 x.d fun l => fspec op (e.st.rv x.a l)) s) :
    SetsVF i x.d (fun _ => True) (fun _ e l => (fspec op (e.st.rv x.a l)).1) fun _ e => e.flags fun l => (fspec op (e.st.rv x.a l)).2 :=
  setsVF_of_f1 i x.d (fun e l => fspec op (e.st.rv x.a l)) hx

/-! What the FP32 patterns of special arguments stand for (08 R180) -/

theorem fp32_val_infinity (neg : Bool) : fp32.val (fp32.infinity neg) = .inf neg := by
  cases neg <;> decide

theorem fp32_val_zero (neg : Bool) : fp32.val (fp32.zero neg) = .fin neg 0 (-149) := by
  cases neg <;> decide

/-- A pattern from just above that of −0 to just below that of −∞ is a negative finite number. -/
theorem fp32_val_negative {b : Nat} (hlo : 0x80000000 < b) (hhi : b < 0xFF800000) : ∃ m e, m ≠ 0 ∧ fp32.val b = .fin true m e := by
  have hsign : b / 2147483648 % 2 = 1 := by omega
  have hexp : b / 8388608 % 256 ≠ 255 := by omega
  by_cases hsub : b / 8388608 % 256 = 0
  · exact ⟨b % 8388608, -149, by omega, by simp [Bin.val, Bin.bias, fp32, bits, hsign, hsub]⟩
  · exact ⟨8388608 + b % 8388608, (b / 8388608 % 256 : Nat) - 127 - 23, by omega, by simp [Bin.val, Bin.bias, fp32, bits, hsign, hexp, hsub]⟩

/-! The rows of the table of special arguments (R208) -/

theorem fspec_of_nan (op : Nat) {x : W} {sig : Bool} (h : fp32.val x.toNat = .nan sig) :
    fspec op x = w32 (fp32.cnan, if sig then fInv else 0) := by
  simp only [fspec, h, w32]

theorem fspec_of_inf (x : W) (neg : Bool) (h : fp32.val x.toNat = .inf neg) :
    ((List.range 8).map fun op => fspec op x) = List.map w32
      [(fp32.zero neg, 0),
        if neg then (fp32.cnan, fInv) else (fp32.zero false, 0),
        if neg then (fp32.cnan, fInv) else (fp32.infinity false, 0),
        if neg then (fp32.zero false, 0) else (fp32.infinity false, 0),
        if neg then (fp32.cnan, 0) else (fp32.infinity false, 0),
        (fp32.cnan, 0), (fp32.cnan, 0), (fp32.signBit neg + 0x3F800000, 0)] := by
  cases neg <;> simp [List.range_succ, fspec, h, w32]

theorem fspec_of_zero (x : W) (neg : Bool) {e : Int} (h : fp32.val x.toNat = .fin neg 0 e) :
    ((List.range 8).map fun op => fspec op x) = List.map w32
      [(fp32.infinity neg, 0), (fp32.infinity neg, 0), (fp32.zero neg, 0), (0x3F800000, 0),
        (fp32.infinity true, 0), (fp32.zero neg, 0), (0x3F800000, 0), (fp32.zero neg, 0)] := by
  simp [List.range_succ, fspec, h, w32]

/-- FRSQ, FSQRT and FLOG2 of a finite number below −0. -/
theorem fspec_of_negative {x : W} {m : Nat} {e : Int} (hm : m ≠ 0) (h : fp32.val x.toNat = .fin true m e) :
    fspec 1 x = w32 (fp32.cnan, fInv) ∧ fspec 2 x = w32 (fp32.cnan, fInv) ∧ fspec 4 x = w32 (fp32.cnan, 0) := by
  simp [fspec, h, hm, w32]

theorem Num.isNan_iff {v : Num} : v.isNan = true ↔ ∃ sig, v = .nan sig := by
  cases v <;> simp [Num.isNan]

/-- Settles O11: each form is one floating-point write, and each row of the table is the row of what its pattern stands for. -/
theorem specialFunctions : Obligations.SpecialFunctions := by
  refine ⟨fun x => setsVF_special _ x 0 fun _ => rfl, fun x => setsVF_special _ x 1 fun _ => rfl,
    fun x => setsVF_special _ x 2 fun _ => rfl, fun x => setsVF_special _ x 3 fun _ => rfl,
    fun x => setsVF_special _ x 4 fun _ => rfl, fun x => setsVF_special _ x 5 fun _ => rfl,
    fun x => setsVF_special _ x 6 fun _ => rfl, fun x => setsVF_special _ x 7 fun _ => rfl, ?nan, ?posInf, ?negInf, ?posZero, ?negZero, ?negative⟩
  case nan =>
    intro op _ x hx
    obtain ⟨sig, hsig⟩ := Num.isNan_iff.1 hx
    rw [fspec_of_nan op hsig, hsig]
    rfl
  case posInf => exact fspec_of_inf 0x7F800000 false (fp32_val_infinity false)
  case negInf => exact fspec_of_inf 0xFF800000 true (fp32_val_infinity true)
  case posZero => exact fspec_of_zero 0 false (fp32_val_zero false)
  case negZero => exact fspec_of_zero 0x80000000 true (fp32_val_zero true)
  case negative =>
    intro x hlo hhi
    obtain ⟨m, e, hm, hval⟩ := fp32_val_negative hlo hhi
    exact fspec_of_negative hm hval

end Sys2Proof.Machine
end
